-- ==== Sys2Proof/Config.lean ====
section
/-! DEFINITION. What the part fixes (R8, R91, R127), and the free values the spec leaves
undefined (R11). -/

namespace Sys2Proof.Config

/-- Lanes of one fibre (R8). -/
abbrev width : Nat := 64

/-- Lane columns of one core (R8). -/
abbrev arrayW : Nat := 8

/-- Lane rows of one core (R8). -/
abbrev arrayH : Nat := 8

/-- Core sites of one compute die (R2). -/
abbrev coresPerDie : Nat := 196

/-- Core sites of the device (R3). -/
abbrev coreSites : Nat := 784

/-- `EXT0`: every feature of R7 is present (R127). -/
abbrev ext0 : BitVec 64 := 0xFF

/-- `EXT1`: format codes 0 to 15 are native matrix operands (R127). -/
abbrev ext1 : BitVec 64 := 0xFFFF

/-- `EXT2`: format codes 0 to 21 are defined (R127). -/
abbrev ext2 : BitVec 64 := 0x3FFFFF

/-- `EXT3`: stepping 1, part 4, base 1 (R127). -/
abbrev ext3 : BitVec 64 := 0x010401

/-- An undefined 32-bit value (R11): nothing constrains it. The first argument is the fresh
counter of the state, the second the place (a lane, a register) the value goes to. -/
opaque free32 : Nat → Nat → BitVec 32

/-- An undefined 64-bit value (R11). -/
opaque free64 : Nat → Nat → BitVec 64

/-- An undefined truth value, for a predicate under last use (R116) and for a choice between
two outcomes that the spec both allows. -/
opaque freeBool : Nat → Nat → Bool

end Sys2Proof.Config
end

