-- ==== Sys2Proof/Word.lean ====
section
/-! DEFINITION. The words of the machine: the widths the spec names (R9, R78, R105), and a
word with its poison mark (R78, R241). -/

namespace Sys2Proof

/-- A 32-bit lane register, plane word or instruction parcel. -/
abbrev Word := BitVec 32

/-- A 64-bit scalar register. -/
abbrev DWord := BitVec 64

/-- A virtual address: 57 bits (R411). -/
abbrev VAddr := BitVec 57

/-- One bit for each of the 64 lanes of a fibre (R13). -/
abbrev LaneMask := BitVec 64

/-- One bit for each of the 16 quads of a fibre (R13). -/
abbrev QuadMask := BitVec 16

/-- A 32-bit word that may hold poison (R241, R356). -/
structure PW where
  bits : Word
  poison : Bool
  deriving DecidableEq, Repr

/-- A 64-bit value that may hold poison (R158). -/
structure PX where
  bits : DWord
  poison : Bool
  deriving DecidableEq, Repr

/-- A clean word. -/
abbrev PW.clean (w : Word) : PW := ⟨w, false⟩

/-- A clean 64-bit value. -/
abbrev PX.clean (w : DWord) : PX := ⟨w, false⟩

/-- The word every cell and register starts with (R42, R78). -/
abbrev PW.zero : PW := ⟨0, false⟩

/-- The value every scalar register starts with (R78). -/
abbrev PX.zero : PX := ⟨0, false⟩

end Sys2Proof
end

