-- ==== Sys2Proof/Machine/Tab.lean ====
section
/-! DEFINITION. Sparse tables: lists of (key, value) in one canonical form, keys strictly
rising and no entry equal to the default that an unlisted key reads as. -/

namespace Sys2Proof.Machine

/-- A sparse table. -/
abbrev Tab (α : Type) := List (Nat × α)

namespace Tab

variable {α : Type}

/-- The value at a key, `d` where the table lists none. -/
def get (d : α) : Tab α → Nat → α
  | [], _ => d
  | (k, v) :: rest, n => if n = k then v else get d rest n

/-- Puts an entry at its place in key order, replacing an earlier one. -/
def insert (n : Nat) (x : α) : Tab α → Tab α
  | [] => [(n, x)]
  | (k, v) :: rest =>
    if n < k then (n, x) :: (k, v) :: rest
    else if n = k then (n, x) :: rest
    else (k, v) :: insert n x rest

/-- Drops every entry of a key. -/
def drop (n : Nat) : Tab α → Tab α
  | [] => []
  | (k, v) :: rest => if n = k then drop n rest else (k, v) :: drop n rest

/-- Writes a value; writing the default removes the entry. -/
def set [DecidableEq α] (d : α) (t : Tab α) (n : Nat) (x : α) : Tab α :=
  if x = d then drop n t else insert n x t

/-- Writes a list of (key, value) pairs, first to last. -/
def setAll [DecidableEq α] (d : α) (t : Tab α) : List (Nat × α) → Tab α
  | [] => t
  | (n, x) :: rest => setAll d (set d t n x) rest

/-- Keys strictly rise from above `n`. -/
def sortedFrom : Option Nat → Tab α → Bool
  | _, [] => true
  | none, (k, _) :: rest => sortedFrom (some k) rest
  | some n, (k, _) :: rest => decide (n < k) && sortedFrom (some k) rest

/-- The canonical form: keys strictly rising, no default value listed. -/
def wf [DecidableEq α] (d : α) (t : Tab α) : Bool :=
  sortedFrom none t && t.all (fun e => !decide (e.2 = d))

end Tab

/-- Entries of a table whose key satisfies a test. -/
def Tab.filterKeys {α : Type} (p : Nat → Bool) (t : Tab α) : Tab α := t.filter (fun e => p e.1)

end Sys2Proof.Machine
end

