-- ==== Sys2Proof/Machine/Bits.lean ====
section
/-! DEFINITION. Bit fields, sign extension, masks of lanes and quads, bytes of words (R9, R13). -/

namespace Sys2Proof.Machine

/-- The lane indexes 0 to 63. -/
def allLanes : List Nat := List.range 64

/-- Bits `[0, n)` of a truth function, as a number. -/
def bitsBelow (p : Nat → Bool) : Nat → Nat
  | 0 => 0
  | n + 1 => bitsBelow p n + (if p n then 2 ^ n else 0)

/-- The lanes that satisfy a test. -/
def maskOf (p : Nat → Bool) : LaneMask := BitVec.ofNat 64 (bitsBelow p 64)

/-- The quads that satisfy a test. -/
def quadsOf (p : Nat → Bool) : QuadMask := BitVec.ofNat 16 (bitsBelow p 16)

/-- The lanes of a mask, ascending. -/
def lanesIn (m : LaneMask) : List Nat := allLanes.filter (fun i => m.getLsbD i)

/-- The quads of a mask, ascending. -/
def quadsIn (m : QuadMask) : List Nat := (List.range 16).filter (fun q => m.getLsbD q)

/-- The quad of a lane (R13). -/
def quadOfLane (i : Nat) : Nat := 4 * (i / 8 / 2) + i % 8 / 2

/-- The lane within its quad (R13). -/
def laneInQuad (i : Nat) : Nat := 2 * (i / 8 % 2) + i % 2

/-- The lanes of a quad (R13). -/
def quadLanes (q : Nat) : LaneMask := BitVec.ofNat 64 (0x303 * 2 ^ (16 * (q / 4) + 2 * (q % 4)))

/-- The lowest lane of a mask. -/
def lowestLane (m : LaneMask) : Option Nat := (lanesIn m).head?

/-- The number of set bits. -/
def popCount (w x : Nat) : Nat := ((List.range w).filter (fun i => x.testBit i)).length

/-- Leading zero bits of a W-bit number, W for zero (R162, R200). -/
def leadingZeros (w x : Nat) : Nat := if x = 0 then w else w - 1 - Nat.log2 x

/-- A W-bit number as a signed integer. -/
def toSigned (w x : Nat) : Int := if x % 2 ^ w < 2 ^ (w - 1) then ((x % 2 ^ w : Nat) : Int) else ((x % 2 ^ w : Nat) : Int) - ((2 ^ w : Nat) : Int)

/-- The integer a W-bit number stands for, unsigned when `u`. -/
def toInteger (w : Nat) (u : Bool) (x : Nat) : Int := if u then ((x % 2 ^ w : Nat) : Int) else toSigned w x

/-- An integer modulo 2^W. -/
def wrapInt (w : Nat) (x : Int) : Nat := (x % ((2 ^ w : Nat) : Int)).toNat

/-- `ext(x, W, U)` of R156, to 64 bits. -/
def ext64 (w : Nat) (u : Bool) (x : Nat) : DWord := BitVec.ofInt 64 (toInteger w u x)

/-- Bits `[lo + n - 1 : lo]` of a number. -/
def bitsAt (x lo n : Nat) : Nat := x / 2 ^ lo % 2 ^ n

/-- Replaces bits `[lo + n - 1 : lo]` of a number. -/
def putBits (x lo n v : Nat) : Nat :=
  x % 2 ^ lo + 2 ^ lo * (v % 2 ^ n) + 2 ^ (lo + n) * (x / 2 ^ (lo + n))

/-- The bytes of a number, little-endian (R9). -/
def bytesOf : Nat → Nat → List (BitVec 8)
  | 0, _ => []
  | n + 1, x => BitVec.ofNat 8 x :: bytesOf n (x / 256)

/-- The number of a little-endian run of bytes (R9). -/
def ofBytes : List (BitVec 8) → Nat
  | [] => 0
  | b :: rest => b.toNat + 256 * ofBytes rest

/-- The n-th of a list of choices: takes the first choice, modulo `n`, 0 where none is left. (DESIGN CHOICE: log entry 14) -/
def chooseAmong (n : Nat) : List Nat → Nat × List Nat
  | [] => (0, [])
  | c :: rest => (c % n, rest)

/-- An order of the elements of a list, drawn from the choices: each next element is the one
that the next choice names among those that remain. (DESIGN CHOICE: log entry 14) -/
def orderBy {α : Type} : Nat → List α → List Nat → List α × List Nat
  | 0, _, cs => ([], cs)
  | _ + 1, [], cs => ([], cs)
  | n + 1, xs, cs =>
    let (k, cs') := chooseAmong xs.length cs
    match xs[k]? with
    | some x =>
      let (ys, cs'') := orderBy n (xs.eraseIdx k) cs'
      (x :: ys, cs'')
    | none => ([], cs')

end Sys2Proof.Machine
end

