-- ==== Sys2Proof/Syntax.lean ====
section
/-! DEFINITION. The instructions and device steps: one constructor for every row of the
table of operations and events. A lane instruction keeps the operand fields of R113, a
scalar instruction those of R120; a device step carries what its party chooses (which core,
which fibre, which value). -/

namespace Sys2Proof

/-- Operand fields of a one-parcel scalar instruction in register layout (R120). -/
structure ScalarReg where
  sd : BitVec 6
  sa : BitVec 6
  sb : BitVec 6
  fn : BitVec 6
  deriving DecidableEq, Repr

/-- Operand fields of a one-parcel scalar instruction in immediate layout (R120). -/
structure ScalarImm where
  sd : BitVec 6
  sa : BitVec 6
  imm : BitVec 12
  deriving DecidableEq, Repr

/-- Operand fields of a two-parcel scalar instruction (R120). -/
structure ScalarLong where
  sd : BitVec 6
  sa : BitVec 6
  x : BitVec 12
  imm : BitVec 32
  deriving DecidableEq, Repr

/-- Operand fields of a lane instruction (R113), all but KIND and OP. -/
structure LaneFields where
  hop : Bool
  fs : Bool
  vd : BitVec 8
  va : BitVec 8
  vb : BitVec 8
  vc : BitVec 8
  pg : BitVec 4
  pn : Bool
  ty : BitVec 5
  lua : Bool
  lub : Bool
  luc : Bool
  m1 : BitVec 4
  m2 : BitVec 2
  imm : BitVec 32
  deriving DecidableEq, Repr

/-- A clause header (R107). -/
structure ClauseHeader where
  wait : BitVec 12
  seta : BitVec 4
  setb : BitVec 4
  rgn : Bool
  len : BitVec 8
  deriving DecidableEq, Repr

/-- Where firmware puts one copy of one block (R394, R395, R396): the core site, its first
slot (the block's slots follow one another), its first base unit, the first depth it takes and
its block table entry. -/
structure BlockPlace where
  core : Nat
  slot : Nat
  rbase : Nat
  depth : Nat
  entry : Nat
  deriving DecidableEq, Repr

/-- A storage word of R431 in which an error appears. -/
inductive EccPlace where
  | laneReg (core fib reg lane : Nat)
  | handlerReg (core fib reg lane : Nat)
  | cell (core cell depth : Nat)
  | slot (core slot granule : Nat)
  | tile (core tile entry : Nat)
  | icache (core : Nat)
  | home (cluster addr : Nat)
  | hbm (die stack channel addr : Nat)
  /-- The residue of the next lane multiplication or addition of a fibre (R434, R435). -/
  | laneAlu (core fib : Nat)
  deriving DecidableEq, Repr

/-- Control state of R433 in which an uncorrectable error appears, by the rows of its table. -/
inductive ControlPlace where
  | parcel (core fib : Nat)
  | barrier (core block : Nat)
  | fibre (core fib : Nat)
  | table (core : Nat)
  | ascent (index : Nat)
  deriving DecidableEq, Repr

/-- What a hart of the application cores does to physical memory (R335, R462). -/
inductive HartAccess where
  | load (addr size : Nat)
  | store (addr : Nat) (data : List (BitVec 8))
  | fence
  deriving DecidableEq, Repr

/-- What a good flit carries (R464, R468). -/
inductive Flit where
  | read (addr size : Nat)
  | write (addr : Nat) (data : List (BitVec 8))
  | scrollWord (core cell depth : Nat) (value : PW)
  | retry
  | replay
  deriving DecidableEq, Repr

/-- The instructions and device steps of the part. -/
inductive Instr where
  /-- `SADD` (R160): Adds two scalar operands at width W and writes the extended result to sD. -/
  | sadd (f : ScalarReg)
  /-- `SADD_LONG` (R160): Two-parcel sadd with a sign-extended 32-bit immediate as the second operand. -/
  | saddLong (f : ScalarLong)
  /-- `SSUB` (R160): Subtracts scalar b from a at width W. -/
  | ssub (f : ScalarReg)
  /-- `SSUB_LONG` (R160): Two-parcel ssub with an immediate operand. -/
  | ssubLong (f : ScalarLong)
  /-- `SMUL` (R160): Writes the low W bits of the scalar product. -/
  | smul (f : ScalarReg)
  /-- `SMUL_LONG` (R160): Two-parcel smul with an immediate operand. -/
  | smulLong (f : ScalarLong)
  /-- `SMULH` (R160): Writes the high W bits of the 2W-bit scalar product. -/
  | smulh (f : ScalarReg)
  /-- `SMULH_LONG` (R160): Two-parcel smulh with an immediate operand. -/
  | smulhLong (f : ScalarLong)
  /-- `SDIV` (R160): Writes the scalar quotient under R76, setting CHKI bits or trapping 0x0C when enabled. -/
  | sdiv (f : ScalarReg)
  /-- `SDIV_LONG` (R160): Two-parcel sdiv with an immediate divisor. -/
  | sdivLong (f : ScalarLong)
  /-- `SREM` (R160): Writes the scalar remainder under R76. -/
  | srem (f : ScalarReg)
  /-- `SREM_LONG` (R160): Two-parcel srem with an immediate divisor. -/
  | sremLong (f : ScalarLong)
  /-- `SAND` (R160): Scalar bitwise and. -/
  | sand (f : ScalarReg)
  /-- `SAND_LONG` (R160): Two-parcel sand with an immediate operand. -/
  | sandLong (f : ScalarLong)
  /-- `SOR` (R160): Scalar bitwise or. -/
  | sor (f : ScalarReg)
  /-- `SOR_LONG` (R160): Two-parcel sor with an immediate operand. -/
  | sorLong (f : ScalarLong)
  /-- `SXOR` (R160): Scalar bitwise xor. -/
  | sxor (f : ScalarReg)
  /-- `SXOR_LONG` (R160): Two-parcel sxor with an immediate operand. -/
  | sxorLong (f : ScalarLong)
  /-- `SNOR` (R160): Scalar bitwise not-or. -/
  | snor (f : ScalarReg)
  /-- `SNOR_LONG` (R160): Two-parcel snor with an immediate operand. -/
  | snorLong (f : ScalarLong)
  /-- `SSHL` (R160): Scalar shift left by b mod W. -/
  | sshl (f : ScalarReg)
  /-- `SSHL_LONG` (R160): Two-parcel sshl with an immediate shift. -/
  | sshlLong (f : ScalarLong)
  /-- `SSHR` (R160): Scalar logical shift right by b mod W. -/
  | sshr (f : ScalarReg)
  /-- `SSHR_LONG` (R160): Two-parcel sshr with an immediate shift. -/
  | sshrLong (f : ScalarLong)
  /-- `SSRA` (R160): Scalar arithmetic shift right by b mod W. -/
  | ssra (f : ScalarReg)
  /-- `SSRA_LONG` (R160): Two-parcel ssra with an immediate shift. -/
  | ssraLong (f : ScalarLong)
  /-- `SMIN` (R160): Writes the lesser scalar operand, signed or unsigned. -/
  | smin (f : ScalarReg)
  /-- `SMIN_LONG` (R160): Two-parcel smin with an immediate operand. -/
  | sminLong (f : ScalarLong)
  /-- `SMAX` (R160): Writes the greater scalar operand. -/
  | smax (f : ScalarReg)
  /-- `SMAX_LONG` (R160): Two-parcel smax with an immediate operand. -/
  | smaxLong (f : ScalarLong)
  /-- `SCMP` (R160): Writes 1 to sD if a COND b holds, else 0. -/
  | scmp (f : ScalarReg)
  /-- `SCMP_LONG` (R160): Two-parcel scmp with an immediate operand. -/
  | scmpLong (f : ScalarLong)
  /-- `SSEL` (R161): Sets sD to sA if sD is non-zero, else sB. -/
  | ssel (f : ScalarReg)
  /-- `SSEL_LONG` (R161): Two-parcel ssel with a sign-extended immediate in place of sB. -/
  | sselLong (f : ScalarLong)
  /-- `SMOV` (R161): Copies sA to sD, carrying poison. -/
  | smov (f : ScalarReg)
  /-- `SLI` (R161): Loads a sign-extended 12-bit immediate into sD. -/
  | sli (f : ScalarImm)
  /-- `SLI_LONG` (R161): Loads a sign-extended 32-bit immediate into sD. -/
  | sliLong (f : ScalarLong)
  /-- `SLIH` (R161): Writes IMM32 into sD[63:32], keeping sD[31:0]. -/
  | slih (f : ScalarLong)
  /-- `SCLZ` (R162): Writes the count of leading zero bits of trunc(sA, W). -/
  | sclz (f : ScalarReg)
  /-- `SPOPC` (R162): Writes the count of one bits of trunc(sA, W). -/
  | spopc (f : ScalarReg)
  /-- `SBFE` (R163): Extracts a scalar bit field selected by a control value. -/
  | sbfe (f : ScalarReg)
  /-- `SBFE_LONG` (R163): Two-parcel sbfe with an immediate control value. -/
  | sbfeLong (f : ScalarLong)
  /-- `SBFI` (R163): Inserts a scalar bit field of sA into sD. -/
  | sbfi (f : ScalarReg)
  /-- `SBFI_LONG` (R163): Two-parcel sbfi with an immediate control value. -/
  | sbfiLong (f : ScalarLong)
  /-- `SLD` (R165): Loads a 64-bit relaxed scalar from global memory at sA plus a 12-bit offset. -/
  | sld (f : ScalarImm)
  /-- `SLD_LONG` (R165): Scalar load with 32-bit offset, chosen width, order and scope. -/
  | sldLong (f : ScalarLong)
  /-- `SST` (R165): Stores sD as 64 bits, relaxed, at sA plus a 12-bit offset. -/
  | sst (f : ScalarImm)
  /-- `SST_LONG` (R165): Scalar store with 32-bit offset, chosen width and release order. -/
  | sstLong (f : ScalarLong)
  /-- `SLDK` (R166): Loads a scalar through the read-only constant cache. -/
  | sldk (f : ScalarImm)
  /-- `SLDK_LONG` (R166): Two-parcel sldk with a 32-bit offset and width. -/
  | sldkLong (f : ScalarLong)
  /-- `BR` (R167): Moves the issuing gang to a clause header at a parcel offset. -/
  | br (f : ScalarImm)
  /-- `BR_LONG` (R167): Branch with a 32-bit parcel offset. -/
  | brLong (f : ScalarLong)
  /-- `BRS` (R167): Branches the gang when sA meets the coded signed condition. -/
  | brs (f : ScalarImm)
  /-- `BRS_LONG` (R167): Conditional scalar branch with a 32-bit offset. -/
  | brsLong (f : ScalarLong)
  /-- `BRV` (R169): Vector branch that splits each quad by predicate and pushes a reconvergence record. -/
  | brv (f : ScalarLong)
  /-- `REGANG` (R170): Switches a quad to its pending lanes or holds it until all diverged quads arrive, then merges them. -/
  | regang
  /-- `CALL` (R172): Writes the link address to sD and moves the gang to the target. -/
  | call (f : ScalarImm)
  /-- `CALL_LONG` (R172): Call with a 32-bit parcel offset. -/
  | callLong (f : ScalarLong)
  /-- `RET` (R172): Moves the gang to the address in sA, hinting a return. -/
  | ret (f : ScalarReg)
  /-- `JMPR` (R172): Moves the gang to the address in sA. -/
  | jmpr (f : ScalarReg)
  /-- `LOOP` (R173): Decrements sD and branches while it is non-zero. -/
  | loop (f : ScalarImm)
  /-- `LOOP_LONG` (R173): Loop with a 32-bit parcel offset. -/
  | loopLong (f : ScalarLong)
  /-- `EXIT` (R174): Ends the active lanes of the gang's quads, ending the fibre when all quads have ended. -/
  | exit
  /-- `NOP` (R175): Issues with no effect. -/
  | nop
  /-- `TRAP` (R176): Raises user trap 0x12 with a 12-bit code in the parcel. -/
  | trap (f : ScalarImm)
  /-- `TRET` (R178): Ends a user trap handler, rejoining its quads and restoring the saved gangs. -/
  | tret
  /-- `BRK` (R177): Raises breakpoint 0x11 for a debugger or entry 0x11, else acts as nop. -/
  | brk (f : ScalarImm)
  /-- `SYS_LAUNCH` (R180): Submits a launch parameter block to launch queue 0 and writes the result to sD. -/
  | sysLaunch (f : ScalarImm)
  /-- `SYS_LAUNCH_LONG` (R180): Submits a launch parameter block to the queue named by the 32-bit argument. -/
  | sysLaunchLong (f : ScalarLong)
  /-- `SYS_LSTAT` (R179): Returns the state and final CHKI of a launch id. -/
  | sysLstat (f : ScalarImm)
  /-- `SYS_LSTAT_LONG` (R179): Two-parcel form of sys lstat. -/
  | sysLstatLong (f : ScalarLong)
  /-- `SYS_ABORT` (R179): Ends the issuing launch with an abort code. -/
  | sysAbort (f : ScalarImm)
  /-- `SYS_ABORT_LONG` (R179): Two-parcel form of sys abort. -/
  | sysAbortLong (f : ScalarLong)
  /-- `FSW` (R182): Hands the slot to the next ready fibre of the slot. -/
  | fsw
  /-- `FBAR` (R183): Slot barrier holding each fibre until every unexited fibre of the slot arrives. -/
  | fbar
  /-- `FWAIT` (R184): Waits until every flag in the mask is clear, acquiring their operations' writes. -/
  | fwait (f : ScalarImm)
  /-- `XACQ` (R185): Requests extended register units, granting at once or blocking. -/
  | xacq (f : ScalarImm)
  /-- `XREL` (R188): Returns extended register units to the pool after outstanding writes complete. -/
  | xrel (f : ScalarImm)
  /-- `CHKERR` (R189): Waits for recorded CHKI bits and raises 0x0E if any masked bit is set. -/
  | chkerr (f : ScalarImm)
  /-- `TIME` (R190): Writes the device time base to sD. -/
  | time (f : ScalarImm)
  /-- `MFS` (R191): Copies a special register into a scalar register. -/
  | mfs (f : ScalarImm)
  /-- `MTS` (R191): Writes a writable special register from sA. -/
  | mts (f : ScalarImm)
  /-- `ACCSV` (R193): Privileged save of an accumulator tile to memory. -/
  | accsv (f : ScalarImm)
  /-- `ACCSV_LONG` (R193): Two-parcel accsv with a byte offset. -/
  | accsvLong (f : ScalarLong)
  /-- `ACCRS` (R193): Privileged restore of an accumulator tile from memory. -/
  | accrs (f : ScalarImm)
  /-- `ACCRS_LONG` (R193): Two-parcel accrs with a byte offset. -/
  | accrsLong (f : ScalarLong)
  /-- `OSV` (R193): Privileged save of an operand slot to memory. -/
  | osv (f : ScalarImm)
  /-- `OSV_LONG` (R193): Two-parcel osv with a byte offset. -/
  | osvLong (f : ScalarLong)
  /-- `ORST` (R193): Privileged restore of an operand slot from memory. -/
  | orst (f : ScalarImm)
  /-- `ORST_LONG` (R193): Two-parcel orst with a byte offset. -/
  | orstLong (f : ScalarLong)
  /-- `CLAUSE_WAIT_TEST` (R108): A clause header tests its WAIT flags, letting the clause's first instruction issue when all are clear. -/
  | clauseWaitTest (h : ClauseHeader)
  /-- `ADD` (R200): Lane addition in integer or float types. -/
  | add (f : LaneFields)
  /-- `SUB` (R200): Lane subtraction. -/
  | sub (f : LaneFields)
  /-- `MUL` (R200): Lane multiplication. -/
  | mul (f : LaneFields)
  /-- `MULH` (R200): High W bits of the lane product. -/
  | mulh (f : LaneFields)
  /-- `MULW` (R200): Exact 2W-bit lane product. -/
  | mulw (f : LaneFields)
  /-- `MAD` (R200): Low W bits of a times b plus c. -/
  | mad (f : LaneFields)
  /-- `ADDX` (R201): Lane add with carry in and out through a predicate. -/
  | addx (f : LaneFields)
  /-- `SUBX` (R201): Lane subtract with borrow through a predicate. -/
  | subx (f : LaneFields)
  /-- `DIV` (R200): Long-latency lane integer division under R76 and R77. -/
  | div (f : LaneFields)
  /-- `REM` (R200): Long-latency lane integer remainder. -/
  | rem (f : LaneFields)
  /-- `ABS` (R200): Lane absolute value. -/
  | abs (f : LaneFields)
  /-- `NEG` (R200): Lane negation. -/
  | neg (f : LaneFields)
  /-- `MIN` (R200): Lane minimum. -/
  | min (f : LaneFields)
  /-- `MAX` (R200): Lane maximum. -/
  | max (f : LaneFields)
  /-- `SAD` (R200): Lane sum of absolute difference and c. -/
  | sad (f : LaneFields)
  /-- `AND` (R200): Lane bitwise and. -/
  | and (f : LaneFields)
  /-- `OR` (R200): Lane bitwise or. -/
  | or (f : LaneFields)
  /-- `XOR` (R200): Lane bitwise xor. -/
  | xor (f : LaneFields)
  /-- `NOT` (R200): Lane bitwise not. -/
  | not (f : LaneFields)
  /-- `SHL` (R200): Lane shift left. -/
  | shl (f : LaneFields)
  /-- `SHR` (R200): Lane logical shift right. -/
  | shr (f : LaneFields)
  /-- `SRA` (R200): Lane arithmetic shift right. -/
  | sra (f : LaneFields)
  /-- `ROT` (R200): Lane rotate left. -/
  | rot (f : LaneFields)
  /-- `CLZ` (R200): Lane count of leading zeros. -/
  | clz (f : LaneFields)
  /-- `POPC` (R200): Lane population count. -/
  | popc (f : LaneFields)
  /-- `BREV` (R200): Lane bit reversal. -/
  | brev (f : LaneFields)
  /-- `BFE` (R202): Lane bit-field extract. -/
  | bfe (f : LaneFields)
  /-- `BFI` (R202): Lane bit-field insert. -/
  | bfi (f : LaneFields)
  /-- `SEL` (R200): Lane select by predicate. -/
  | sel (f : LaneFields)
  /-- `CMP` (R203): Lane comparison writing a predicate. -/
  | cmp (f : LaneFields)
  /-- `FMA` (R205): Lane fused multiply-add rounded once. -/
  | fma (f : LaneFields)
  /-- `SQRT` (R206): Lane square root, or a push to q12. -/
  | sqrt (f : LaneFields)
  /-- `RCP` (R206): Lane reciprocal. -/
  | rcp (f : LaneFields)
  /-- `RSQ` (R206): Lane reciprocal square root. -/
  | rsq (f : LaneFields)
  /-- `EXP2` (R206): Lane base-2 exponential. -/
  | exp2 (f : LaneFields)
  /-- `LOG2` (R206): Lane base-2 logarithm. -/
  | log2 (f : LaneFields)
  /-- `SIN` (R206): Lane sine of an argument in turns. -/
  | sin (f : LaneFields)
  /-- `COS` (R206): Lane cosine of an argument in turns. -/
  | cos (f : LaneFields)
  /-- `TANH` (R206): Lane hyperbolic tangent. -/
  | tanh (f : LaneFields)
  /-- `SFU_COMPUTE` (R207): The special-function unit computes one q12 entry and places its result in q13. -/
  | sfuCompute (core fib : Nat)
  /-- `CLASS` (R208): Tests float class against a mask into a predicate. -/
  | classTest (f : LaneFields)
  /-- `FRND` (R209): Rounds to an integral float value. -/
  | frnd (f : LaneFields)
  /-- `FSCL` (R210): Scales a float by a power of two. -/
  | fscl (f : LaneFields)
  /-- `CVT` (R212): Converts between lane types. -/
  | cvt (f : LaneFields)
  /-- `PACK` (R213): Converts two values into two packed element positions. -/
  | pack (f : LaneFields)
  /-- `UNPK` (R214): Extracts and converts one packed element. -/
  | unpk (f : LaneFields)
  /-- `QNT` (R215): Quantises a scaled value with saturation. -/
  | qnt (f : LaneFields)
  /-- `DQNT` (R216): Dequantises a scaled element. -/
  | dqnt (f : LaneFields)
  /-- `CBQ` (R217): Maps an FP32 value to a 4-bit codebook code. -/
  | cbq (f : LaneFields)
  /-- `HAD32` (R218): Hadamard transform of order 32 over each half of the fibre. -/
  | had32 (f : LaneFields)
  /-- `SHFL` (R220): Reads a value from a per-lane source lane. -/
  | shfl (f : LaneFields)
  /-- `SHFX` (R220): Reads from lane i xor k. -/
  | shfx (f : LaneFields)
  /-- `SHFD` (R220): Reads from lane i plus k. -/
  | shfd (f : LaneFields)
  /-- `SHFU` (R220): Reads from lane i minus k. -/
  | shfu (f : LaneFields)
  /-- `QX` (R221): Exchanges values within each quad. -/
  | qx (f : LaneFields)
  /-- `VOTE` (R222): Reduces a predicate over member lanes. -/
  | vote (f : LaneFields)
  /-- `LRED` (R223): Reduces participating lanes in a fixed tree. -/
  | lred (f : LaneFields)
  /-- `SCAN` (R224): Prefix combination in ascending lane order. -/
  | scan (f : LaneFields)
  /-- `BCST` (R225): Broadcasts the lowest participating lane's value. -/
  | bcst (f : LaneFields)
  /-- `VEXT` (R226): Copies one lane's value to a scalar register. -/
  | vext (f : LaneFields)
  /-- `VINS` (R227): Writes a scalar into one lane. -/
  | vins (f : LaneFields)
  /-- `MOV` (R228): Copies operand B to a lane register, or pushes or pops a queue. -/
  | mov (f : LaneFields)
  /-- `MOVI` (R229): Writes the upper half of a register from an immediate. -/
  | movi (f : LaneFields)
  /-- `MOVS` (R230): Writes a per-lane value held outside the register file. -/
  | movs (f : LaneFields)
  /-- `PSET` (R231): Sets a predicate from a bit of a register. -/
  | pset (f : LaneFields)
  /-- `PAND` (R231): Predicate and. -/
  | pand (f : LaneFields)
  /-- `POR` (R231): Predicate or. -/
  | por (f : LaneFields)
  /-- `PXOR` (R231): Predicate xor. -/
  | pxor (f : LaneFields)
  /-- `PNOT` (R231): Predicate not. -/
  | pnot (f : LaneFields)
  /-- `PMOV` (R231): Predicate move. -/
  | pmov (f : LaneFields)
  /-- `LID` (R232): Writes the lane index. -/
  | lid (f : LaneFields)
  /-- `PXY` (R232): Writes the lane's plane position. -/
  | pxy (f : LaneFields)
  /-- `LDP` (R242): Loads from the lane's own plane cell. -/
  | ldp (f : LaneFields)
  /-- `STP` (R242): Stores to the lane's own plane cell. -/
  | stp (f : LaneFields)
  /-- `LDW` (R243): Reads a window cell with edge resolution. -/
  | ldw (f : LaneFields)
  /-- `STW` (R243): Writes a window cell with edge resolution. -/
  | stw (f : LaneFields)
  /-- `LDS` (R244): Loads from block scratch. -/
  | lds (f : LaneFields)
  /-- `STS` (R244): Stores to block scratch, trapping on armed barriers. -/
  | sts (f : LaneFields)
  /-- `LDG` (R245): Loads through a buffer record, raw or converting. -/
  | ldg (f : LaneFields)
  /-- `STG` (R245): Stores through a buffer record, raw or converting. -/
  | stg (f : LaneFields)
  /-- `PREFG` (R249): Prefetches a 128-byte line towards the core. -/
  | prefg (f : LaneFields)
  /-- `ATOM_ADD` (R251): Global atomic add at the home slice. -/
  | atomAdd (f : LaneFields)
  /-- `ATOM_MIN` (R251): Global atomic minimum. -/
  | atomMin (f : LaneFields)
  /-- `ATOM_MAX` (R251): Global atomic maximum. -/
  | atomMax (f : LaneFields)
  /-- `ATOM_AND` (R251): Global atomic and. -/
  | atomAnd (f : LaneFields)
  /-- `ATOM_OR` (R251): Global atomic or. -/
  | atomOr (f : LaneFields)
  /-- `ATOM_XOR` (R251): Global atomic xor. -/
  | atomXor (f : LaneFields)
  /-- `ATOM_XCHG` (R251): Global atomic exchange. -/
  | atomXchg (f : LaneFields)
  /-- `ATOM_CAS` (R251): Global atomic compare and swap. -/
  | atomCas (f : LaneFields)
  /-- `RED_ADD` (R252): Global reduction add, mergeable on the way. -/
  | redAdd (f : LaneFields)
  /-- `RED_MIN` (R252): Global reduction minimum. -/
  | redMin (f : LaneFields)
  /-- `RED_MAX` (R252): Global reduction maximum. -/
  | redMax (f : LaneFields)
  /-- `RED_AND` (R252): Global reduction and. -/
  | redAnd (f : LaneFields)
  /-- `RED_OR` (R252): Global reduction or. -/
  | redOr (f : LaneFields)
  /-- `RED_XOR` (R252): Global reduction xor. -/
  | redXor (f : LaneFields)
  /-- `ATOMS_ADD` (R251): Scratch atomic add at the bank. -/
  | atomsAdd (f : LaneFields)
  /-- `ATOMS_MIN` (R251): Scratch atomic minimum. -/
  | atomsMin (f : LaneFields)
  /-- `ATOMS_MAX` (R251): Scratch atomic maximum. -/
  | atomsMax (f : LaneFields)
  /-- `ATOMS_AND` (R251): Scratch atomic and. -/
  | atomsAnd (f : LaneFields)
  /-- `ATOMS_OR` (R251): Scratch atomic or. -/
  | atomsOr (f : LaneFields)
  /-- `ATOMS_XOR` (R251): Scratch atomic xor. -/
  | atomsXor (f : LaneFields)
  /-- `ATOMS_XCHG` (R251): Scratch atomic exchange. -/
  | atomsXchg (f : LaneFields)
  /-- `ATOMS_CAS` (R251): Scratch atomic compare and swap. -/
  | atomsCas (f : LaneFields)
  /-- `FENCE` (R254): Orders the fibre's accesses as acquire, release or both at a scope. -/
  | fence (f : LaneFields)
  /-- `OFENCE` (R255): Marks q4 rows so later mma waits until they are in their slots. -/
  | ofence (f : LaneFields)
  /-- `BARA` (R257): Arrives on a named barrier and returns the phase token. -/
  | bara (f : LaneFields)
  /-- `BARS` (R257): Arrives on a named barrier and waits for the phase to flip. -/
  | bars (f : LaneFields)
  /-- `BARW` (R257): Waits on a named barrier while its phase equals the token. -/
  | barw (f : LaneFields)
  /-- `BARI` (R257): Initialises an unarmed named barrier. -/
  | bari (f : LaneFields)
  /-- `MARM` (R261): Arms the fibre's monitor on a 128-byte line. -/
  | marm (f : LaneFields)
  /-- `MWAIT` (R262): Waits for the monitor to trigger or a timeout. -/
  | mwait (f : LaneFields)
  /-- `MONITOR_TRIGGER` (R261): A write performed at the home slice to the armed line triggers the monitor. -/
  | monitorTrigger (core fib : Nat)
  /-- `MWAIT_TIMEOUT` (R262): The mwait timeout expires and sD receives 0. -/
  | mwaitTimeout (core fib : Nat)
  /-- `RWR` (R263): Sends a lane vector to a register of another fibre of the cluster. -/
  | rwr (f : LaneFields)
  /-- `RWR_DELIVERY` (R264): A remote write lands in the target register and increments ARRIVALS. -/
  | rwrDelivery (index : Nat)
  /-- `AWAIT` (R265): Waits until ARRIVALS reaches a count. -/
  | await (f : LaneFields)
  /-- `ARRC` (R265): Reads and resets ARRIVALS indivisibly. -/
  | arrc (f : LaneFields)
  /-- `QTRY` (R266): Tries a non-blocking queue pop. -/
  | qtry (f : LaneFields)
  /-- `QLEN` (R267): Returns a queue's entry count and closed bit. -/
  | qlen (f : LaneFields)
  /-- `QCLS` (R268): Closes a slot queue. -/
  | qcls (f : LaneFields)
  /-- `QPUT` (R269): Pushes a prepared command record onto an engine command queue. -/
  | qput (f : LaneFields)
  /-- `OCLM` (R282): Claims a range of operand slots and optionally sets the fill cursor. -/
  | oclm (f : LaneFields)
  /-- `OREL` (R283): Releases claimed slots once their commands have finished. -/
  | orel (f : LaneFields)
  /-- `Q4_ROW_WRITE` (R284): A pushed q4 row is written into the slot at the fill cursor. -/
  | q4RowWrite (core fib : Nat)
  /-- `MMA` (R291): Issues a matrix multiply-accumulate command after format checks and vote. -/
  | mma (f : LaneFields)
  /-- `AZERO` (R292): Zeroes an accumulator tile and its quarter mark. -/
  | azero (f : LaneFields)
  /-- `ALD` (R293): Loads an accumulator tile with raw bytes through a record. -/
  | ald (f : LaneFields)
  /-- `DRAIN_Q` (R296): Drains an accumulator tile row by row into q5. -/
  | drainQ (f : LaneFields)
  /-- `DRAIN_PL` (R296): Drains an accumulator tile into plane cells. -/
  | drainPl (f : LaneFields)
  /-- `DRAIN_SCR` (R296): Drains an accumulator tile into block scratch. -/
  | drainScr (f : LaneFields)
  /-- `DRAIN_SLOT` (R296): Drains an accumulator tile into operand slots as an A tile. -/
  | drainSlot (f : LaneFields)
  /-- `DRAIN_GLB` (R296): Drains an accumulator tile into global memory through a record. -/
  | drainGlb (f : LaneFields)
  /-- `CPY_IN` (R298): Copies bytes from pinned memory into plane, scratch or slots. -/
  | cpyIn (f : LaneFields)
  /-- `CPY_OUT` (R298): Copies bytes from plane, scratch or slots to pinned memory. -/
  | cpyOut (f : LaneFields)
  /-- `CPYQ` (R299): Copies out while quantising elements to the record's format. -/
  | cpyq (f : LaneFields)
  /-- `CBLD` (R300): Loads a codebook of the core's table from memory. -/
  | cbld (f : LaneFields)
  /-- `SCRL_F` (R137): Issues a frame scroll that slides contents within a rectangle. -/
  | scrlF (f : LaneFields)
  /-- `SCRL_M` (R139): Issues a move scroll that moves a rectangle by a displacement. -/
  | scrlM (f : LaneFields)
  /-- `WGATH` (R303): Gathers one filter tap as a dense A tile into a slot. -/
  | wgath (f : LaneFields)
  /-- `WPOOL` (R304): Computes max or average pooling over the plane image. -/
  | wpool (f : LaneFields)
  /-- `GNODE` (R307): Parks an empty dependence-graph node. -/
  | gnode (f : LaneFields)
  /-- `GSIG` (R307): Decrements a node's predecessor count as a completion would. -/
  | gsig (f : LaneFields)
  /-- `GFLAG` (R308): Binds a node's completion to a flag. -/
  | gflag (f : LaneFields)
  /-- `ASCO` (R312): Opens an ascent and returns its id. -/
  | asco (f : LaneFields)
  /-- `ASCP` (R313): Pushes a compensation entry onto the ballast stack. -/
  | ascp (f : LaneFields)
  /-- `ASCL` (R311): Lands an ascent, discarding its stack. -/
  | ascl (f : LaneFields)
  /-- `ASCR` (R314): Rips an ascent so its compensations run newest first. -/
  | ascr (f : LaneFields)
  /-- `ASCF` (R315): Marks a compensation block's entry as failed. -/
  | ascf (f : LaneFields)
  /-- `ASCQ` (R316): Returns an ascent's state and stack depth. -/
  | ascq (f : LaneFields)
  /-- `ASCL_AUDIT_RELEASE` (R372): A held ascl is performed once its audits have been compared. -/
  | asclAuditRelease (ascent : BitVec 64)
  /-- `COMPENSATION_LAUNCH` (R314): The device launches a compensation block for the highest-SEQ ripping entry. -/
  | compensationLaunch (place : BlockPlace)
  /-- `COMPENSATION_EXIT` (R314): A compensation block ends, popping or failing its entry. -/
  | compensationExit (core block : Nat)
  /-- `ENGINE_ACCEPT` (R370): An engine accepts a command from its command queue. -/
  | engineAccept (core fib engine : Nat)
  /-- `SCROLL_ACCEPT` (R136): The scroll engine accepts a scroll, checks its descriptor and ticket. -/
  | scrollAccept (core fib : Nat)
  /-- `SPILL_HEADER_READ` (R369): A scroll execution reads NREC from the spill buffer header. -/
  | spillHeaderRead (core fib : Nat)
  /-- `SCROLL_ROW` (R141): The scroll engine performs one row, spilling, dropping or writing its words. -/
  | scrollRow (core fib : Nat)
  /-- `END_STATUS_DELIVERY` (R368): The end status reaches the fibre: record enqueued, flag cleared, CHKI recorded, trap taken. -/
  | endStatusDelivery (core fib : Nat)
  /-- `MMA_COMPLETE` (R291): An mma finishes accumulating into its tile. -/
  | mmaComplete (core fib : Nat)
  /-- `WGATH_COMPLETE` (R303): A wgath finishes writing its slot. -/
  | wgathComplete (core fib : Nat)
  /-- `DRAIN_COMPLETE` (R295): A drain finishes converting and writing its tile. -/
  | drainComplete (core fib : Nat)
  /-- `COPY_COMPLETE` (R298): A copy command ends with its status. -/
  | copyComplete (core fib cseq : Nat)
  /-- `WPOOL_COMPLETE` (R304): A wpool finishes writing its output cells. -/
  | wpoolComplete (core fib : Nat)
  /-- `COMPLETION_RECORD_ENQUEUE` (R277): A held completion record enters its queue when room appears. -/
  | completionRecordEnqueue (core fib engine : Nat)
  /-- `LONG_LATENCY_COMPLETION` (R90): A long-latency operation completes, writing its result and decrementing its flag. -/
  | longLatencyCompletion (core fib index : Nat)
  /-- `FIBRE_WAKE` (R46): A fibre in a long wait becomes ready when its condition becomes true. -/
  | fibreWake (core fib : Nat)
  /-- `XACQ_GRANT` (R186): A blocked xacq is granted when enough units become free. -/
  | xacqGrant (core : Nat)
  /-- `SLOT_SWITCH` (R31): A slot switches its current fibre in the cycle after a switching moment. -/
  | slotSwitch (core slot : Nat)
  /-- `STALL_SWITCH` (R31): A fibre stalled without hop for 128 cycles loses the slot. -/
  | stallSwitch (core slot : Nat)
  /-- `AGE_SWITCH` (R31): A fibre reaching age 248 takes the slot. -/
  | ageSwitch (core slot : Nat)
  /-- `ISSUE_CYCLE` (R398): Each cycle the core issues from current fibres in override and engine passes. -/
  | issueCycle
  /-- `ALLOWANCE_REFILL` (R399): Each cycle PACNT is refilled up to PACAP. -/
  | allowanceRefill (cluster : Nat)
  /-- `USER_HANDLER_ENTRY` (R351): The handler's first instruction issues after trap entry. -/
  | userHandlerEntry (core fib : Nat)
  /-- `TRET_RESUME` (R178): The fibre resumes at the stop point or next instruction after tret. -/
  | tretResume (core fib : Nat)
  /-- `HANDLER_OVERRUN` (R355): A handler not returning within 65,536 cycles of a pre-emption request is a double fault. -/
  | handlerOverrun (core fib : Nat)
  /-- `EVENT_RECORD_RELEASE` (R377): A held event record enters the queue when room appears. -/
  | eventRecordRelease (core : Nat)
  /-- `REPLAY` (R379): FACT REPLAY restarts a fibre frozen for 0x06 at its region start. -/
  | replay (core fib : Nat)
  /-- `NEXT` (R379): FACT NEXT resumes a fibre frozen for 0x02. -/
  | next (core fib : Nat)
  /-- `USER` (R379): FACT USER raises UCAUSE as a user trap. -/
  | user (core fib : Nat) (ucause : BitVec 8)
  /-- `KILL` (R379): FACT KILL ends a fibre as by exit. -/
  | kill (core fib : Nat)
  /-- `ABORT` (R379): FACT ABORT ends the launch with an abort code. -/
  | abort (core fib : Nat) (code : BitVec 16)
  /-- `CONT` (R383): FACT CONT resumes a stopped fibre. -/
  | cont (core fib : Nat)
  /-- `STEP` (R384): FACT STEP issues one instruction of the lowest steppable gang. -/
  | step (core fib : Nat)
  /-- `STEPALL` (R384): FACT STEPALL issues one instruction of every steppable gang. -/
  | stepall (core fib : Nat)
  /-- `STOP` (R379): FACT STOP stops a fibre before its next issue. -/
  | stop (core fib : Nat)
  /-- `DBGCTL_WRITE` (R382): Writing DBGCTL attaches or detaches, clearing ATT resuming stopped fibres. -/
  | dbgctlWrite (core : Nat) (value : BitVec 64)
  /-- `FIBRE_SAVE` (R381): FXCMD save writes a frozen or stopped fibre's save record. -/
  | fibreSave (core fib : Nat)
  /-- `FIBRE_RESTORE` (R381): FXCMD restore checks and reads a fibre save record. -/
  | fibreRestore (core fib : Nat)
  /-- `ENGDATA_ACCESS` (R376): An ENGDATA access reads or writes the selected engine word and advances the index. -/
  | engdataAccess (core : Nat) (write : Option (BitVec 64))
  /-- `ENGDONE` (R380): A write to ENGDONE completes the held emulated or replayed mma. -/
  | engdone (core : Nat) (value : BitVec 64)
  /-- `REGISTER_WRITE` (R376): A firmware write to a system register that has no behaviour of its own. -/
  | registerWrite (core selector : Nat) (value : BitVec 64)
  /-- `BLOCK_RUN` (R396): Block command RUN starts or resumes a block. -/
  | blockRun (core block : Nat)
  /-- `BLOCK_PREEMPT` (R404): Block command PREEMPT starts parking the block. -/
  | blockPreempt (core block : Nat)
  /-- `BLOCK_PARKED` (R404): A parking block reaches parked once every pending operation has finished. -/
  | blockParked (core block : Nat)
  /-- `BLOCK_SAVE` (R406): Block command SAVE writes the block save area. -/
  | blockSave (core block : Nat)
  /-- `BLOCK_RESTORE` (R406): Block command RESTORE reads the save area into an empty entry. -/
  | blockRestore (core block : Nat)
  /-- `BLOCK_RELEASE` (R396): Block command RELEASE frees the block's resources. -/
  | blockRelease (core block : Nat)
  /-- `LAUNCH_DOORBELL` (R390): The driver writes a block address to a launch queue doorbell. -/
  | launchDoorbell (part queue : Nat) (address : BitVec 64) (firmware : Bool)
  /-- `LAUNCH_PLACEMENT` (R392): Firmware places the head launch of highest effective priority when resources free. -/
  | launchPlacement (part queue : Nat) (places : List BlockPlace)
  /-- `LAUNCH_AGEING` (R391): A waiting head gains one priority step per ageing period. -/
  | launchAgeing (part queue : Nat)
  /-- `LAUNCH_COMPLETION` (R393): Firmware writes the launch completion record when the launch ends. -/
  | launchCompletion (part : Nat) (lid : BitVec 32)
  /-- `POOL_MOVE` (R402): Firmware moves an empty cluster to another class pool. -/
  | poolMove (cluster cls : Nat)
  /-- `THERMAL_MIGRATION` (R408): A cluster over its temperature limit has its blocks migrated to a cool cluster. -/
  | thermalMigration (source target : Nat)
  /-- `MIGRATION_COMPLETE` (R408): Migrated blocks resume on their new cluster. -/
  | migrationComplete (source : Nat)
  /-- `LINK_WIDTH_CHANGE` (R410): A link changes width, ordered against a frequency change. -/
  | linkWidthChange (link : Nat) (width : BitVec 2)
  /-- `LINK_FREQUENCY_CHANGE` (R410): A die changes its fabric clock after any width reduction retrains. -/
  | linkFrequencyChange (die mhz : Nat)
  /-- `LINK_RETRAIN_COMPLETE` (R410): A retraining link resumes and stalled senders proceed. -/
  | linkRetrainComplete (link : Nat) (ok : Bool)
  /-- `PAGE_WALK` (R417): A walker completes a five-level translation walk. -/
  | pageWalk (die : Nat) (asid : BitVec 16) (va : VAddr) (write : Bool)
  /-- `FAULT_REPLY_GRANT` (R421): The operating system grants a fault and firmware replays every waiter. -/
  | faultReplyGrant (part : Nat) (token : BitVec 16)
  /-- `FAULT_REPLY_REFUSE` (R421): The operating system refuses a fault and firmware aborts the waiters' launches. -/
  | faultReplyRefuse (part : Nat) (token : BitVec 16)
  /-- `INVALIDATE_RANGE` (R419): Invalidation command dropping translations of a range on every die. -/
  | invalidateRange (die : Nat) (asid : BitVec 16) (base : VAddr) (lsize : BitVec 6)
  /-- `INVALIDATE_ASID` (R419): Invalidation command dropping every translation of one ASID. -/
  | invalidateAsid (die : Nat) (asid : BitVec 16)
  /-- `INVALIDATE_ALL` (R419): Invalidation command dropping translations of every ASID. -/
  | invalidateAll (die : Nat)
  /-- `INVALIDATE_HANDLES` (R424): Invalidation command dropping an ASID's handle entries. -/
  | invalidateHandles (die : Nat) (asid : BitVec 16)
  /-- `INVALIDATION_DONE` (R419): BUSY clears once every covered entry and access has been dropped or ended. -/
  | invalidationDone
  /-- `DMA_REQUEST` (R463): A PCIe requester DMA is translated and performed or aborted. -/
  | dmaRequest (asid : BitVec 16) (va : BitVec 64) (size : Nat) (data : Option (List (BitVec 8)))
  /-- `REGISTER_ECC_ERROR` (R431): A storage error is corrected or poisons its word or granule. -/
  | registerEccError (place : EccPlace) (correctable : Bool)
  /-- `UNCORRECTABLE_CONTROL_ERROR` (R433): An uncorrectable error in control state ends the affected work. -/
  | uncorrectableControlError (place : ControlPlace)
  /-- `SCRUB_VISIT` (R432): Background scrubbing visits a granule and writes it back. -/
  | scrubVisit (addr : Nat) (bad : Bool)
  /-- `MATRIX_RESIDUE_FAILURE` (R436): A second mma residue mismatch holds the command and posts cause 0x82. -/
  | matrixResidueFailure (core : Nat)
  /-- `LOAD_VALUE_FORWARD` (R439): A lead's input value reaches the trail through the load value queue. -/
  | loadValueForward (pair : Nat)
  /-- `COMPARE_DECISION` (R440): Twin compare-buffer entries match and are released, or mismatch. -/
  | compareDecision (pair : Nat)
  /-- `PAIR_RESTORE_DONE` (R461): The restore ends and both copies issue again. -/
  | pairRestoreDone (pair : Nat)
  /-- `CHECKPOINT` (R443): The pair takes a checkpoint at a region start once in-flight work completes. -/
  | checkpoint (pair : Nat)
  /-- `HELD_EXIT` (R459): A held exit takes effect once all entries match and values are delivered. -/
  | heldExit (core fib : Nat)
  /-- `AUDIT_REPLAY` (R448): The auditor replays a logged mma on an idle host core. -/
  | auditReplay (part host third : Nat)
  /-- `SCAN_START` (R452): START begins the in-field scan on a disabled idle core. -/
  | scanStart (core : Nat)
  /-- `SCAN_ABORT` (R453): ABORT stops a running scan and clears the core. -/
  | scanAbort (core : Nat)
  /-- `SCAN_COMPLETE` (R453): The scan pattern ends and its signature passes or fails. -/
  | scanComplete (core : Nat) (sig : BitVec 32)
  /-- `WATCHDOG_EXPIRY` (R454): An expiring control-core watchdog requests a warm reset. -/
  | watchdogExpiry
  /-- `WARM_RESET` (R454): A warm reset stops issue, writes back, resets compute dies and retrains. -/
  | warmReset (touched : List (BitVec 16))
  /-- `WARM_RESET_RESUME` (R455): Launch queues resume and open ascents of ended launches are ripped or grounded. -/
  | warmResetResume
  /-- `LIFE_LOG_APPEND` (R457): Firmware appends signed counter records to the life log. -/
  | lifeLogAppend
  /-- `FLIT_CRC_ERROR` (R464): A bad flit is dropped and replay requested. -/
  | flitCrcError (port : Nat)
  /-- `PORT_RETRAIN` (R464): A port replaying one flit 16 times retrains. -/
  | portRetrain (port : Nat)
  /-- `TETHER_PORT_WRITE` (R465): A write to a tether port's control register sets enable, width and role. -/
  | tetherPortWrite (port offset : Nat) (value : BitVec 64)
  /-- `TORUS_SCROLL_CANCEL` (R468): Firmware cancels a scroll whose part lies on an ended device. -/
  | torusScrollCancel (core fib : Nat)
  /-- `COLD_BOOT` (R469): Power-on runs the measured boot sequence. -/
  | coldBoot
  /-- `GET_VERSION` (R472): SPDM GET_VERSION request. -/
  | getVersion (doe : Bool)
  /-- `GET_CAPABILITIES` (R472): SPDM GET_CAPABILITIES request. -/
  | getCapabilities (doe : Bool)
  /-- `NEGOTIATE_ALGORITHMS` (R472): SPDM NEGOTIATE_ALGORITHMS request. -/
  | negotiateAlgorithms (doe : Bool)
  /-- `GET_DIGESTS` (R472): SPDM GET_DIGESTS request. -/
  | getDigests (doe : Bool)
  /-- `GET_CERTIFICATE` (R472): SPDM GET_CERTIFICATE request. -/
  | getCertificate (doe : Bool)
  /-- `CHALLENGE` (R472): SPDM CHALLENGE request. -/
  | challenge (doe : Bool) (nonce : BitVec 256)
  /-- `GET_MEASUREMENTS` (R472): SPDM GET_MEASUREMENTS request listing written measurement registers. -/
  | getMeasurements (doe : Bool)
  /-- `POWER_LIMIT_SET` (R473): A new power limit from the management interface scales REFILL within 1 ms. -/
  | powerLimitSet (watts : Nat)
  /-- `WARM_RESET_REQUEST` (R473): The board controller requests a warm reset. -/
  | warmResetRequest
  /-- `COLD_RESET_REQUEST` (R473): The board controller requests a cold reset. -/
  | coldResetRequest
  /-- `DIE_OVERHEAT` (R474): A die above 105 degrees C has REFILL lowered die-wide. -/
  | dieOverheat (die celsius : Nat)
  /-- `THERMAL_TRIP` (R474): At 115 degrees C hardware removes power from the compute dies. -/
  | thermalTrip (celsius : Nat)
  /-- `APPLICATION_CORE_ACCESS` (R335): A hart of the application cores performs a load, store or fence on device physical memory, ordered under RVWMO and synchronising with Palnos .sys acquires and releases. -/
  | applicationCoreAccess (hart : Nat) (access : HartAccess)
  /-- `TETHER_FLIT_DELIVERY` (R464): A good flit arrives on a tether port and delivers a remote memory request, a scroll word, a retry answer or a replay request. -/
  | tetherFlitDelivery (port : Nat) (flit : Flit)
  /-- `SUPPLY_DROOP_EVENT` (R456): A supply droop on a core increments its supply droop event counter. -/
  | supplyDroopEvent (core : Nat)
  /-- `LIFETIME_COUNTER_TICK` (R456): Each elapsed second adds to the temperature histogram bin of the current temperature, and each hour to the hours-powered counter. -/
  | lifetimeCounterTick (core celsius : Nat) (hour : Bool)
  /-- `POOL_MOVE_COMPLETE` (R402): A cluster's clock and supply change, which takes up to 50 µs, ends and the cluster serves its new class pool. -/
  | poolMoveComplete (cluster : Nat)
  /-- `CHECKPOINT_COMPLETE` (R461): A lead and trail checkpoint finishes its 1.0 µs snapshot and both copies issue again. -/
  | checkpointComplete (pair : Nat)
  /-- `BLOCK_COMMAND_COMPLETE` (R396): A block SAVE or RESTORE finishes, clearing BUSY and moving STATE from saving to saved or from restoring to parked. -/
  | blockCommandComplete (core block : Nat)
  /-- `FIBRE_SAVE_RECORD_DONE` (R381): An FXCMD save or restore of a fibre save record finishes, clearing FXSTAT.BUSY and setting its result. -/
  | fibreSaveRecordDone (core : Nat)
  deriving DecidableEq, Repr

end Sys2Proof
end

