-- ==== Sys2Proof/WellFormed.lean ====
section
/-! DEFINITION. The legal encodings. `Instr.form` gives, for every constructor, its opcode
(R122, R124) and the rules its operand fields obey; `Instr.wf` checks them. Every breach
raises the illegal-encoding trap 0x01 at issue (R114 to R119, R125, R197), whatever the
registers hold. What depends on the state (held units, claims, a shared window, the header
at a target) is checked by the meanings. -/

namespace Sys2Proof

/-! ### Types (R117, R196) -/

/-- `.f32 .f16 .bf16 .f64`. -/
abbrev floatTys : List Nat := [0, 1, 2, 3]
/-- `.i8 .i16 .i32 .i64 .n8 .n16 .n32 .n64`. -/
abbrev intTys : List Nat := [9, 16, 17, 18, 19, 20, 21, 22]
/-- `.b32 .b64`. -/
abbrev bitTys : List Nat := [23, 24]
abbrev intFloat : List Nat := intTys ++ floatTys
/-- The types of `mulh`, `bfe` and integer minimum in memory. -/
abbrev tysMulh : List Nat := [17, 18, 21, 22]
/-- The types of `lds`, `sts`, `ldg` and `stg`: 8, 16, 32 or 64 bits (R244, R245). -/
abbrev memTys : List Nat := [0, 1, 2, 3, 4, 5, 9, 10, 16, 17, 18, 19, 20, 21, 22, 23, 24]
/-- The types of `ldp` and `stp` (R242). -/
abbrev planeTys : List Nat := [23, 0, 17, 21, 24, 3, 18, 22]
/-- The types of `atom.add` (R250). -/
abbrev atomAddTys : List Nat := [17, 21, 18, 22, 0, 3]
/-- The packed types of `pack`, `qnt` and `dqnt` (R213). -/
abbrev packTys : List Nat := [1, 2, 4, 5, 6, 7, 8, 9, 10, 11]
/-- The types of `cvt` (R212). -/
abbrev cvtTys : List Nat := [0, 1, 2, 3, 4, 5, 6, 7, 8, 9, 10, 11, 16, 17, 18, 19, 20, 21, 22]

/-- Operand width in bits of a type code (R196); 0 for the reserved codes. -/
def tyWidth : Nat → Nat
  | 0 => 32 | 1 => 16 | 2 => 16 | 3 => 64 | 4 => 8 | 5 => 8 | 6 => 6 | 7 => 6 | 8 => 4
  | 9 => 8 | 10 => 8 | 11 => 4 | 16 => 16 | 17 => 32 | 18 => 64 | 19 => 8 | 20 => 16
  | 21 => 32 | 22 => 64 | 23 => 32 | 24 => 64 | _ => 0

/-- A 64-bit type, held in an even-odd pair (R80). -/
def isWide (ty : Nat) : Bool := tyWidth ty == 64

/-- Elements of a packed type in one register word (R213). -/
def perWord (ty : Nat) : Nat :=
  match tyWidth ty with
  | 16 => 2 | 8 => 4 | 6 => 4 | 4 => 8 | _ => 1

/-! ### Register fields (R79, R80, R86, R114) -/

/-- What a register field of a lane instruction holds. `src` and `dst` are lane registers or
queues, `true` for an even-odd pair. -/
inductive Fld where
  | zero
  | src (pair : Bool)
  | dst (pair : Bool)
  | sfu (pair : Bool)
  | pred
  | predDst
  | predOpt
  | sreg
  | desc
  | acc
  | slot
  | flag
  | queue (legal : List Nat)
  | ty (legal : List Nat)
  deriving DecidableEq, Repr

/-- A lane register, even where it names a pair (R80). -/
def laneRegOk (pair : Bool) (n : Nat) : Bool := decide (n < 240) && (!pair || n % 2 == 0)

/-- A field holds a legal value of its kind (R79, R80, R86, R114, R275). -/
def Fld.ok : Fld → Nat → Bool
  | .zero, n => n == 0
  | .src p, n => laneRegOk p n || [240, 241, 242, 243, 245, 248, 249, 250, 251, 253].contains n
  | .dst p, n => laneRegOk p n || [244, 248, 249, 250, 251].contains n
  | .sfu p, n => laneRegOk p n || [244, 248, 249, 250, 251, 252].contains n
  | .pred, n => decide (n < 16)
  | .predDst, n => decide (0 < n) && decide (n < 15)
  | .predOpt, n => decide (n < 15)
  | .sreg, n => decide (n < 64)
  | .desc, n => decide (n < 64) && n % 4 == 0
  | .acc, n => decide (n < 16)
  | .slot, n => decide (n < 128)
  | .flag, n => decide (n < 12)
  | .queue l, n => decide (240 ≤ n) && l.contains (n - 240)
  | .ty l, n => l.contains n

/-- A last-use bit may be set on a source that the instruction uses (R114, R116). -/
def Fld.lastUse : Fld → Bool
  | .zero => false
  | .ty _ => false
  | _ => true

/-! ### Shapes -/

/-- The rules that the fields of one lane instruction obey. -/
structure Shape where
  vd : Fld := .zero
  va : Fld := .zero
  /-- The kind of VB where operand B is a register. -/
  vb : Fld := .zero
  vc : Fld := .zero
  /-- Operand B is selected by M2 (R115). -/
  kind : Bool := false
  m2 : List Nat := [0]
  tys : List Nat := [0]
  m1 : List Nat := [0]
  /-- IMM obeys its layout (R118); an immediate operand B is not judged here. -/
  imm : Bool := true
  /-- The instruction has no use for IMM. -/
  immZero : Bool := false
  /-- Long-latency (R109), so FS may be set. -/
  long : Bool := false
  /-- A per-issue instruction (R239), without a guard. -/
  perIssue : Bool := false
  deriving DecidableEq, Repr

/-- Rounding codes 0 to 3 for float types, else 0 (R119, R197). -/
def roundM1 (ty : Nat) : List Nat := if floatTys.contains ty then [0, 1, 2, 3] else [0]
abbrev rounds : List Nat := [0, 1, 2, 3]
abbrev rounds5 : List Nat := [0, 1, 2, 3, 4]
abbrev scopes : List Nat := [0, 1, 2, 3, 4, 5, 6]
abbrev kinds : List Nat := [0, 1, 3]

namespace Shape

/-- Type code of the instruction as a number. -/
def tyOf (f : LaneFields) : Nat := f.ty.toNat
def wide (f : LaneFields) : Bool := isWide f.ty.toNat
/-- IMM is zero, or it is the immediate operand B. -/
def immKind (f : LaneFields) : Bool := f.m2 == 1 || f.imm == 0

/-- `op vD, vA, B` with no rounding. -/
def arith (tys : List Nat) (long : Bool) (f : LaneFields) : Shape :=
  { vd := .dst (wide f), va := .src (wide f), vb := .src (wide f), kind := true, m2 := kinds,
    tys := tys, imm := immKind f, long := long }
def arithF (f : LaneFields) : Shape := { arith intFloat false f with m1 := roundM1 (tyOf f) }
def mulw (f : LaneFields) : Shape :=
  { arith [16, 20, 17, 21] false f with vd := .dst (tyWidth (tyOf f) == 32) }
def mad (f : LaneFields) : Shape := { arith intTys false f with vc := .src (wide f) }
def fma (f : LaneFields) : Shape :=
  { arith floatTys false f with vc := .src (wide f), m1 := rounds }
def carry (f : LaneFields) : Shape := { arith [21, 22] false f with vc := .predDst }
def unary (tys : List Nat) (f : LaneFields) : Shape :=
  { vd := .dst (wide f), va := .src (wide f), tys := tys, imm := f.imm == 0 }
def sad (f : LaneFields) : Shape :=
  { arith [9, 16, 17, 19, 20, 21] false f with vc := .src false }
/-- Operand B is one 32-bit value, never a pair (R200). -/
def shift (tys : List Nat) (f : LaneFields) : Shape :=
  { arith tys false f with vb := .src false }
def bfi (f : LaneFields) : Shape := { shift bitTys f with vc := .src (wide f) }
def count (f : LaneFields) : Shape := { unary bitTys f with vd := .dst false }
def sel (f : LaneFields) : Shape := { arith (bitTys ++ floatTys) false f with vc := .pred }
def cmpM1 (ty : Nat) : List Nat :=
  if floatTys.contains ty then [0, 1, 2, 3, 4, 5, 6, 7]
  else if bitTys.contains ty then [0, 1] else [0, 1, 2, 3, 4, 5]
def cmp (f : LaneFields) : Shape :=
  { arith (intFloat ++ bitTys) false f with vd := .predDst, m1 := cmpM1 (tyOf f) }
def special (tys : List Nat) (f : LaneFields) : Shape :=
  { unary tys f with vd := .sfu (wide f), m1 := rounds, long := true }
/-- The mask of `class` is one 32-bit value (R208). -/
def classTest (f : LaneFields) : Shape := { shift floatTys f with vd := .predDst }
def frnd (f : LaneFields) : Shape := { unary floatTys f with m1 := rounds }
/-- The exponent of `fscl` is one 32-bit value (R210). -/
def fscl (f : LaneFields) : Shape := { shift floatTys f with m1 := rounds }

/-! #### Conversions (R211 to R217): the source type stands in VC -/

def stWide (f : LaneFields) : Bool := isWide f.vc.toNat
/-- `.rs` only for the targets that R66 lists. -/
def rsOk (dts : List Nat) (f : LaneFields) : List Nat :=
  if dts.contains (tyOf f) then rounds5 else rounds
def cvt (f : LaneFields) : Shape :=
  { vd := .dst (wide f), va := .src (stWide f), vc := .ty cvtTys, tys := cvtTys,
    m1 := rsOk packTys f, imm := f.imm == 0 }
def pack (f : LaneFields) : Shape :=
  { vd := .dst false, va := .src false, vb := .src false, kind := true, m2 := [0, 3],
    vc := .ty (if tyOf f == 9 then [0, 1, 2, 17] else [0, 1, 2]), tys := packTys,
    m1 := rounds5, imm := decide (f.imm.toNat * 2 < perWord (tyOf f)) && decide (f.imm.toNat < 4) }
def unpk (f : LaneFields) : Shape :=
  { vd := .dst false, va := .src false, tys := [0, 1, 2],
    vc := .ty (if tyOf f == 0 then [4, 5, 6, 7, 8, 9, 10, 11, 1, 2]
               else [4, 5, 6, 7, 8, 9, 10, 11]),
    imm := decide (f.imm.toNat < perWord f.vc.toNat) }
def qnt (f : LaneFields) : Shape :=
  { vd := .dst false, va := .src false, vb := .src false, kind := true, m2 := kinds,
    vc := .ty [0, 1, 2], tys := packTys, m1 := rounds5, imm := immKind f }
def dqnt (f : LaneFields) : Shape :=
  { vd := .dst false, va := .src false, vb := .src false, kind := true, m2 := kinds,
    vc := .ty packTys, tys := [0, 1, 2], m1 := rsOk [1, 2] f, imm := immKind f }

/-! #### Cross-lane and moves (R219 to R232) -/

def shfl (f : LaneFields) : Shape := shift bitTys f
/-- A width-relative offset leaves IMM[30:5] zero (R220). -/
def shuffle (f : LaneFields) : Shape :=
  { shift bitTys f with
    imm := immKind f && !(f.m2 == 1 && f.imm.getLsbD 31 && f.imm.extractLsb' 5 26 != 0) }
def qx (f : LaneFields) : Shape := { unary bitTys f with m1 := [0, 1, 2] }
def vote (f : LaneFields) : Shape :=
  { vd := if f.m1 == 3 then .dst true else .predDst, va := .pred, vb := .zero, vc := .predOpt,
    kind := true, m2 := [1, 3], m1 := [0, 1, 2, 3], imm := immKind f }
def reduceTys (op : Nat) : List Nat := if op < 3 then tysMulh ++ [0, 3] else bitTys
def reduce (excl : Bool) (f : LaneFields) : Shape :=
  { unary (reduceTys (f.m1.toNat % 8)) f with
    m1 := if excl then [0, 1, 2, 3, 4, 5, 8, 9, 10, 11, 12, 13] else [0, 1, 2, 3, 4, 5] }
def vext (f : LaneFields) : Shape :=
  { vd := .sreg, va := .src (wide f), kind := true, m2 := [1, 3], tys := [23, 17, 24],
    imm := immKind f }
def vins (f : LaneFields) : Shape :=
  { vd := .dst (wide f), va := .sreg, kind := true, m2 := [1, 3], tys := bitTys,
    imm := immKind f }
def mov (f : LaneFields) : Shape :=
  { vd := .dst (wide f), vb := .src (wide f), kind := true, m2 := kinds, tys := bitTys,
    imm := immKind f }
def movi (f : LaneFields) : Shape :=
  { vd := .dst (wide f), kind := true, m2 := [1], tys := bitTys,
    imm := f.ty == 24 || decide (f.imm.toNat < 65536) }
def movs (f : LaneFields) : Shape :=
  { vd := .dst false, kind := true, m2 := [1], imm := decide (f.imm.toNat < 3) }
def pset (f : LaneFields) : Shape :=
  { vd := .predDst, va := .src false, vb := .src false, kind := true, m2 := kinds,
    imm := immKind f }
def pred2 : Shape := { immZero := true, vd := .predDst, va := .pred, vb := .pred }
def pred1 : Shape := { immZero := true, vd := .predDst, va := .pred }
def ident : Shape := { immZero := true, vd := .dst false }

/-! #### Memory (R237 to R252) -/

def immDofs (f : LaneFields) : Bool := decide (f.imm.toNat < 4096)
def immScratch (f : LaneFields) : Bool := decide (f.imm.toNat < 2 ^ 26)
/-- DX, DY and EDGE at most 4, bits [22:12] zero (R118). -/
def immWindow (f : LaneFields) : Bool :=
  decide ((f.imm.extractLsb' 29 3).toNat ≤ 4) && decide ((f.imm.extractLsb' 26 3).toNat ≤ 4) &&
  decide ((f.imm.extractLsb' 23 3).toNat ≤ 4) && f.imm.extractLsb' 12 11 == 0
def edgeConst (f : LaneFields) : Bool := f.imm.extractLsb' 23 3 == 1
def load (tys : List Nat) (imm : Bool) (f : LaneFields) : Shape :=
  { vd := .dst (wide f), va := .src false, tys := tys, m1 := scopes, m2 := [0, 1], imm := imm,
    long := true }
def store (tys : List Nat) (imm : Bool) (f : LaneFields) : Shape :=
  { va := .src false, vb := .src (wide f), tys := tys, m1 := scopes, m2 := [0, 2], imm := imm,
    long := true }
def ldp (f : LaneFields) : Shape := load planeTys (immDofs f) f
def stp (f : LaneFields) : Shape := store planeTys (immDofs f) f
def ldw (f : LaneFields) : Shape :=
  { load [23, 0, 17, 21] (immWindow f) f with
    vc := if edgeConst f then .src false else .zero }
def stw (f : LaneFields) : Shape := store [23, 0, 17, 21] (immWindow f) f
def lds (f : LaneFields) : Shape := load memTys (immScratch f) f
def sts (f : LaneFields) : Shape := store memTys (immScratch f) f
def ldg (f : LaneFields) : Shape := load (memTys ++ [6, 7, 8, 11]) true f
def stg (f : LaneFields) : Shape := store (memTys ++ [6, 7, 8, 11]) true f
def prefg : Shape := { va := .src false }
def atomBase (tys : List Nat) (cas : Bool) (imm : Bool) (f : LaneFields) : Shape :=
  { vd := .dst (wide f), va := .src false, vb := .src (wide f),
    vc := if cas then .src (wide f) else .zero, tys := tys, m1 := scopes, m2 := [0, 1, 2, 3],
    imm := imm, long := true }
def atom (tys : List Nat) (cas : Bool) (f : LaneFields) : Shape := atomBase tys cas true f
def atoms (tys : List Nat) (cas : Bool) (f : LaneFields) : Shape :=
  atomBase tys cas (immScratch f) f
def red (tys : List Nat) (f : LaneFields) : Shape :=
  { atomBase tys false true f with vd := .zero, m2 := [0, 2] }

/-! #### Synchronisation (R254 to R269) -/

def fence : Shape := { immZero := true, m1 := scopes, m2 := [1, 2, 3], perIssue := true }
def ofence : Shape := { immZero := true, perIssue := true }
def bara : Shape := { immZero := true, vd := .sreg, va := .sreg, vb := .sreg, perIssue := true }
def barrier2 : Shape := { immZero := true, va := .sreg, vb := .sreg, perIssue := true }
def marm : Shape := { immZero := true, va := .sreg, m1 := scopes, perIssue := true }
def mwait : Shape := { immZero := true, vd := .sreg, va := .sreg, m1 := scopes, perIssue := true }
def rwr : Shape := { immZero := true, va := .src false, vb := .sreg, tys := [23] }
def await : Shape := { immZero := true, va := .sreg, perIssue := true }
def arrc : Shape := { immZero := true, vd := .sreg, perIssue := true }
def qtry (f : LaneFields) : Shape :=
  { immZero := true, vd := .dst (wide f), va := .queue [0, 1, 2, 3, 5, 8, 9, 10, 11, 13], vc := .predDst,
    tys := bitTys }
def qlen : Shape :=
  { immZero := true, vd := .sreg, va := .queue [0, 1, 2, 3, 4, 5, 8, 9, 10, 11, 12, 13], perIssue := true }
def qcls : Shape := { immZero := true, va := .queue [8, 9, 10, 11], perIssue := true }
def qput : Shape := { immZero := true, vd := .queue [0, 1, 2, 3], va := .src true, tys := [24] }

/-! #### Engine commands (R275, R297 to R308) and ascents (R310) -/

/-- IMM of an engine command: bits [31:19] zero, the own bits within `own`, the node
descriptor register only with `.n`. -/
def immEngine (own : Nat) (f : LaneFields) : Bool :=
  decide (f.imm.toNat < 2 ^ 19) && (f.imm.toNat / 64 % 4096) &&& (4095 - own) == 0 &&
  (f.m1.getLsbD 3 || f.imm.toNat % 64 == 0)
/-- The count n of `oclm` and `orel`: 1 to 128. -/
def claimN (f : LaneFields) : Nat := f.imm.toNat / 64 % 256
def engine (own : Nat) (m1 : List Nat) (f : LaneFields) : Shape :=
  { m1 := m1, imm := immEngine own f, long := true }
def oclm (f : LaneFields) : Shape :=
  { engine 0x8FF [0] f with
    vd := .predDst, va := .slot,
    imm := immEngine 0x8FF f && decide (1 ≤ claimN f) && decide (claimN f ≤ 128) &&
      decide (f.va.toNat + claimN f ≤ 128) }
def orel (f : LaneFields) : Shape :=
  { engine 0xFF [0] f with
    va := .slot, imm := immEngine 0xFF f && decide (1 ≤ claimN f) && decide (claimN f ≤ 128) }
def mma (f : LaneFields) : Shape :=
  { engine 0 [0, 2, 8, 10] f with vd := .acc, va := .slot, vb := .slot, vc := .src false }
def azero (f : LaneFields) : Shape := { engine 0 [0] f with vd := .acc }
/-- A trailing `bN` sets SR; without it BX is unused and zero; `.glb` requires it (R294). -/
def drain (dst : Nat) (f : LaneFields) : Shape :=
  { engine 0x7F [dst, dst + 8] f with
    vd := if dst == 3 then .slot else .zero, va := .acc, vb := .sreg, vc := .src false,
    imm := immEngine 0x7F f && (f.imm.getLsbD 12 || (dst != 4 && f.imm.extractLsb' 6 6 == 0)) }
def ald (f : LaneFields) : Shape :=
  { engine 0x7F [0, 8] f with vd := .acc, va := .sreg }
def cpy (m1 : List Nat) (f : LaneFields) : Shape :=
  { engine 0x3F (m1 ++ m1.map (· + 8)) f with
    vd := if f.m1.extractLsb' 1 2 == 2 then .slot else .zero, va := .desc }
def scrl (m1 : List Nat) (f : LaneFields) : Shape :=
  { engine 0 (m1 ++ m1.map (· + 8)) f with va := .desc }
def wgath (f : LaneFields) : Shape :=
  { engine 0 [0, 8] f with vd := .slot, va := .desc, vc := .src false }
def wpool (f : LaneFields) : Shape :=
  { engine 0 [0, 1, 2, 3, 8, 9, 10, 11] f with va := .desc }
def graph (f : LaneFields) : Shape := { engine 0 [0] f with va := .sreg }
def gflag (f : LaneFields) : Shape := { engine 0 [0] f with vd := .flag, va := .sreg }
def ascent (vd va : Fld) (m2 : List Nat) : Shape :=
  { immZero := true, vd := vd, va := va, m2 := m2, long := true, perIssue := true }

/-! #### Extensions (R217, R218, R300) -/

def had32 : Shape := { immZero := true, vd := .dst false, va := .src false, m1 := [0, 1] }
def cbq (f : LaneFields) : Shape :=
  { vd := .dst false, va := .src false, vb := .src false, kind := true, m2 := [0, 3],
    m1 := rounds, imm := decide (f.imm.toNat < 16) }
def cbld (f : LaneFields) : Shape :=
  { va := .sreg, imm := decide (f.imm.toNat < 16), perIssue := true }


/-- The fields obey the shape. -/
def ok (s : Shape) (f : LaneFields) : Bool :=
  s.vd.ok f.vd.toNat && s.va.ok f.va.toNat && s.vc.ok f.vc.toNat &&
  (if s.kind && f.m2 == 1 then f.vb == 0
   else if s.kind && f.m2 == 3 then true else s.vb.ok f.vb.toNat) &&
  s.m2.contains f.m2.toNat && s.tys.contains f.ty.toNat && s.m1.contains f.m1.toNat && s.imm && (!s.immZero || f.imm == 0) &&
  (s.long || !f.fs) && (!s.perIssue || (f.pg == 0 && !f.pn)) &&
  (!f.lua || s.va.lastUse) && (!f.luc || s.vc.lastUse) &&
  (!f.lub || (if s.kind && f.m2 == 3 then true
              else if s.kind && f.m2 == 1 then false else s.vb.lastUse))

end Shape

/-! ### Scalar fields (R120, R159 to R163) -/

abbrev fnCond (fn : BitVec 6) : BitVec 3 := fn.extractLsb' 3 3
abbrev fnU (fn : BitVec 6) : Bool := fn.getLsbD 2
abbrev fnW (fn : BitVec 6) : BitVec 2 := fn.extractLsb' 0 2
/-- COND is zero but in `scmp` (R159). -/
def arithOk (fn : BitVec 6) : Bool := fnCond fn == 0
def scmpOk (fn : BitVec 6) : Bool := decide ((fnCond fn).toNat < 6)
/-- FN holds W alone (R162). -/
def countOk (fn : BitVec 6) : Bool := fnCond fn == 0 && !fnU fn
/-- FN holds U alone (R163). -/
def sbfeOk (fn : BitVec 6) : Bool := fnCond fn == 0 && fnW fn == 0
/-- X[11:6] is zero, X[5:0] holds FN (R159). -/
def xFnOk (x : BitVec 12) : Bool := decide (x.toNat < 64)
/-- X of `sld` and `sst`: a legal order, scope 0 to 6, X[11:8] zero (R164). -/
def memXOk (orders : List Nat) (x : BitVec 12) : Bool :=
  decide (x.toNat < 256) && orders.contains (x.extractLsb' 6 2).toNat &&
  x.extractLsb' 3 3 != 7
/-- A unit range of `xacq` and `xrel` (R185, R188). -/
def unitsOk (imm : BitVec 12) : Bool :=
  let first := (imm.extractLsb' 8 4).toNat
  let count := (imm.extractLsb' 0 4).toNat
  imm.extractLsb' 4 4 == 0 && decide (1 ≤ count) && decide (first + count ≤ 12)
/-- The result predicate of `xacq`: `p1` to `p14` (R79, R185). -/
def xacqPredOk (sd : BitVec 6) : Bool := decide (0 < sd.toNat) && decide (sd.toNat < 15)
/-- A special register selector (R92). -/
def selectorOk (imm : BitVec 12) : Bool := decide (imm.toNat ≤ 0x20)
/-- A legal clause header (R107, R125). -/
def ClauseHeader.ok (h : ClauseHeader) : Bool :=
  let flagOk (n : BitVec 4) : Bool := decide (n.toNat < 12) || n == 15
  h.len != 0 && flagOk h.seta && flagOk h.setb

/-! ### The forms of all instructions -/

/-- How an instruction is encoded, with its opcode, its fields and whether they are legal. -/
inductive Form where
  | lane (op : Nat) (f : LaneFields) (s : Shape)
  | reg (op : Nat) (f : ScalarReg) (ok : Bool)
  | imm (op : Nat) (f : ScalarImm) (ok : Bool)
  | long (op : Nat) (f : ScalarLong) (ok : Bool)
  | bare (op : Nat)
  | header (h : ClauseHeader)
  | step
  deriving DecidableEq, Repr

/-- The encoding of every constructor (R107, R113, R122, R124). A device step has none. -/
def Instr.form : Instr → Form
  | .sadd f => .reg 0x00 f (arithOk f.fn)
  | .saddLong f => .long 0x00 f (xFnOk f.x && arithOk (f.x.extractLsb' 0 6))
  | .ssub f => .reg 0x01 f (arithOk f.fn)
  | .ssubLong f => .long 0x01 f (xFnOk f.x && arithOk (f.x.extractLsb' 0 6))
  | .smul f => .reg 0x02 f (arithOk f.fn)
  | .smulLong f => .long 0x02 f (xFnOk f.x && arithOk (f.x.extractLsb' 0 6))
  | .smulh f => .reg 0x03 f (arithOk f.fn)
  | .smulhLong f => .long 0x03 f (xFnOk f.x && arithOk (f.x.extractLsb' 0 6))
  | .sdiv f => .reg 0x04 f (arithOk f.fn)
  | .sdivLong f => .long 0x04 f (xFnOk f.x && arithOk (f.x.extractLsb' 0 6))
  | .srem f => .reg 0x05 f (arithOk f.fn)
  | .sremLong f => .long 0x05 f (xFnOk f.x && arithOk (f.x.extractLsb' 0 6))
  | .sand f => .reg 0x06 f (arithOk f.fn)
  | .sandLong f => .long 0x06 f (xFnOk f.x && arithOk (f.x.extractLsb' 0 6))
  | .sor f => .reg 0x07 f (arithOk f.fn)
  | .sorLong f => .long 0x07 f (xFnOk f.x && arithOk (f.x.extractLsb' 0 6))
  | .sxor f => .reg 0x08 f (arithOk f.fn)
  | .sxorLong f => .long 0x08 f (xFnOk f.x && arithOk (f.x.extractLsb' 0 6))
  | .snor f => .reg 0x09 f (arithOk f.fn)
  | .snorLong f => .long 0x09 f (xFnOk f.x && arithOk (f.x.extractLsb' 0 6))
  | .sshl f => .reg 0x0A f (arithOk f.fn)
  | .sshlLong f => .long 0x0A f (xFnOk f.x && arithOk (f.x.extractLsb' 0 6))
  | .sshr f => .reg 0x0B f (arithOk f.fn)
  | .sshrLong f => .long 0x0B f (xFnOk f.x && arithOk (f.x.extractLsb' 0 6))
  | .ssra f => .reg 0x0C f (arithOk f.fn)
  | .ssraLong f => .long 0x0C f (xFnOk f.x && arithOk (f.x.extractLsb' 0 6))
  | .smin f => .reg 0x0D f (arithOk f.fn)
  | .sminLong f => .long 0x0D f (xFnOk f.x && arithOk (f.x.extractLsb' 0 6))
  | .smax f => .reg 0x0E f (arithOk f.fn)
  | .smaxLong f => .long 0x0E f (xFnOk f.x && arithOk (f.x.extractLsb' 0 6))
  | .scmp f => .reg 0x0F f (scmpOk f.fn)
  | .scmpLong f => .long 0x0F f (xFnOk f.x && scmpOk (f.x.extractLsb' 0 6))
  | .ssel f => .reg 0x10 f (f.fn == 0)
  | .sselLong f => .long 0x10 f (xFnOk f.x && (f.x.extractLsb' 0 6) == 0)
  | .smov f => .reg 0x11 f (f.sb == 0 && f.fn == 0)
  | .sli f => .imm 0x12 f (f.sa == 0)
  | .sliLong f => .long 0x12 f (f.sa == 0 && f.x == 0)
  | .slih f => .long 0x13 f (f.sa == 0 && f.x == 0)
  | .sclz f => .reg 0x14 f (f.sb == 0 && countOk f.fn)
  | .spopc f => .reg 0x15 f (f.sb == 0 && countOk f.fn)
  | .sbfe f => .reg 0x16 f (sbfeOk f.fn)
  | .sbfeLong f => .long 0x16 f (xFnOk f.x && sbfeOk (f.x.extractLsb' 0 6))
  | .sbfi f => .reg 0x17 f (f.fn == 0)
  | .sbfiLong f => .long 0x17 f (xFnOk f.x && (f.x.extractLsb' 0 6) == 0)
  | .sld f => .imm 0x18 f (true)
  | .sldLong f => .long 0x18 f (memXOk [0, 1] f.x)
  | .sst f => .imm 0x19 f (true)
  | .sstLong f => .long 0x19 f (memXOk [0, 2] f.x && !f.x.getLsbD 0)
  | .sldk f => .imm 0x1A f (true)
  | .sldkLong f => .long 0x1A f (decide (f.x.toNat < 8))
  | .br f => .imm 0x1B f (f.sd == 0 && f.sa == 0)
  | .brLong f => .long 0x1B f (f.sd == 0 && f.sa == 0 && f.x == 0)
  | .brs f => .imm 0x1C f (decide (f.sd.toNat < 6))
  | .brsLong f => .long 0x1C f (decide (f.sd.toNat < 6) && f.x == 0)
  | .brv f => .long 0x1D f (f.sd == 0 && decide (f.sa.toNat < 32))
  | .regang => .bare 0x1E
  | .call f => .imm 0x1F f (f.sa == 0)
  | .callLong f => .long 0x1F f (f.sa == 0 && f.x == 0)
  | .ret f => .reg 0x20 f (f.sd == 0 && f.sb == 0 && f.fn == 0)
  | .jmpr f => .reg 0x21 f (f.sd == 0 && f.sb == 0 && f.fn == 0)
  | .loop f => .imm 0x22 f (f.sa == 0 && f.sd != 0)
  | .loopLong f => .long 0x22 f (f.sa == 0 && f.sd != 0 && f.x == 0)
  | .exit => .bare 0x23
  | .nop => .bare 0x24
  | .trap f => .imm 0x25 f (f.sd == 0 && f.sa == 0)
  | .tret => .bare 0x26
  | .brk f => .imm 0x27 f (f.sd == 0 && f.sa == 0)
  | .sysLaunch f => .imm 0x28 f (f.imm == 0)
  | .sysLaunchLong f => .long 0x28 f (f.x == 0 && decide (f.imm.toNat < 64))
  | .sysLstat f => .imm 0x28 f (f.imm == 1)
  | .sysLstatLong f => .long 0x28 f (f.x == 1 && f.imm == 0)
  | .sysAbort f => .imm 0x28 f (f.imm == 2 && f.sd == 0)
  | .sysAbortLong f => .long 0x28 f (f.x == 2 && f.imm == 0 && f.sd == 0)
  | .fsw => .bare 0x29
  | .fbar => .bare 0x2A
  | .fwait f => .imm 0x2B f (f.sd == 0 && f.sa == 0)
  | .xacq f => .imm 0x2C f (f.sa == 0 && unitsOk f.imm && xacqPredOk f.sd)
  | .xrel f => .imm 0x2D f (f.sa == 0 && f.sd == 0 && unitsOk f.imm)
  | .chkerr f => .imm 0x2E f (f.sd == 0 && f.sa == 0 && decide (f.imm.toNat < 2048))
  | .time f => .imm 0x2F f (f.sa == 0 && f.imm == 0)
  | .mfs f => .imm 0x30 f (f.sa == 0 && selectorOk f.imm)
  | .mts f => .imm 0x31 f (f.sd == 0 && selectorOk f.imm)
  | .accsv f => .imm 0x32 f (f.sd == 0 && decide (f.imm.toNat < 16))
  | .accsvLong f => .long 0x32 f (f.sd == 0 && decide (f.x.toNat < 16))
  | .accrs f => .imm 0x33 f (f.sd == 0 && decide (f.imm.toNat < 16))
  | .accrsLong f => .long 0x33 f (f.sd == 0 && decide (f.x.toNat < 16))
  | .osv f => .imm 0x34 f (f.sd == 0 && decide (f.imm.toNat < 128))
  | .osvLong f => .long 0x34 f (f.sd == 0 && decide (f.x.toNat < 128))
  | .orst f => .imm 0x35 f (f.sd == 0 && decide (f.imm.toNat < 128))
  | .orstLong f => .long 0x35 f (f.sd == 0 && decide (f.x.toNat < 128))
  | .clauseWaitTest h => .header h
  | .add f => .lane 0x000 f (Shape.arithF f)
  | .sub f => .lane 0x001 f (Shape.arithF f)
  | .mul f => .lane 0x002 f (Shape.arithF f)
  | .mulh f => .lane 0x003 f (Shape.arith tysMulh false f)
  | .mulw f => .lane 0x004 f (Shape.mulw f)
  | .mad f => .lane 0x005 f (Shape.mad f)
  | .addx f => .lane 0x006 f (Shape.carry f)
  | .subx f => .lane 0x007 f (Shape.carry f)
  | .div f => .lane 0x008 f (Shape.arith intTys true f)
  | .rem f => .lane 0x009 f (Shape.arith intTys true f)
  | .abs f => .lane 0x00A f (Shape.unary intFloat f)
  | .neg f => .lane 0x00B f (Shape.unary intFloat f)
  | .min f => .lane 0x00C f (Shape.arith intFloat false f)
  | .max f => .lane 0x00D f (Shape.arith intFloat false f)
  | .sad f => .lane 0x00E f (Shape.sad f)
  | .and f => .lane 0x00F f (Shape.arith bitTys false f)
  | .or f => .lane 0x010 f (Shape.arith bitTys false f)
  | .xor f => .lane 0x011 f (Shape.arith bitTys false f)
  | .not f => .lane 0x012 f (Shape.unary bitTys f)
  | .shl f => .lane 0x013 f (Shape.shift bitTys f)
  | .shr f => .lane 0x014 f (Shape.shift bitTys f)
  | .sra f => .lane 0x015 f (Shape.shift [17, 18] f)
  | .rot f => .lane 0x016 f (Shape.shift bitTys f)
  | .clz f => .lane 0x017 f (Shape.count f)
  | .popc f => .lane 0x018 f (Shape.count f)
  | .brev f => .lane 0x019 f (Shape.unary bitTys f)
  | .bfe f => .lane 0x01A f (Shape.shift tysMulh f)
  | .bfi f => .lane 0x01B f (Shape.bfi f)
  | .sel f => .lane 0x01C f (Shape.sel f)
  | .cmp f => .lane 0x01D f (Shape.cmp f)
  | .fma f => .lane 0x040 f (Shape.fma f)
  | .sqrt f => .lane 0x041 f (Shape.special floatTys f)
  | .rcp f => .lane 0x042 f (Shape.special floatTys f)
  | .rsq f => .lane 0x043 f (Shape.special [0, 1, 2] f)
  | .exp2 f => .lane 0x044 f (Shape.special [0, 1, 2] f)
  | .log2 f => .lane 0x045 f (Shape.special [0, 1, 2] f)
  | .sin f => .lane 0x046 f (Shape.special [0, 1, 2] f)
  | .cos f => .lane 0x047 f (Shape.special [0, 1, 2] f)
  | .tanh f => .lane 0x048 f (Shape.special [0, 1, 2] f)
  | .sfuCompute _ _ => .step
  | .classTest f => .lane 0x049 f (Shape.classTest f)
  | .frnd f => .lane 0x04A f (Shape.frnd f)
  | .fscl f => .lane 0x04B f (Shape.fscl f)
  | .cvt f => .lane 0x080 f (Shape.cvt f)
  | .pack f => .lane 0x081 f (Shape.pack f)
  | .unpk f => .lane 0x082 f (Shape.unpk f)
  | .qnt f => .lane 0x083 f (Shape.qnt f)
  | .dqnt f => .lane 0x084 f (Shape.dqnt f)
  | .cbq f => .lane 0x181 f (Shape.cbq f)
  | .had32 f => .lane 0x180 f (Shape.had32)
  | .shfl f => .lane 0x0A0 f (Shape.shfl f)
  | .shfx f => .lane 0x0A1 f (Shape.shuffle f)
  | .shfd f => .lane 0x0A2 f (Shape.shuffle f)
  | .shfu f => .lane 0x0A3 f (Shape.shuffle f)
  | .qx f => .lane 0x0A4 f (Shape.qx f)
  | .vote f => .lane 0x0A5 f (Shape.vote f)
  | .lred f => .lane 0x0A6 f (Shape.reduce false f)
  | .scan f => .lane 0x0A7 f (Shape.reduce true f)
  | .bcst f => .lane 0x0A8 f (Shape.unary bitTys f)
  | .vext f => .lane 0x0A9 f (Shape.vext f)
  | .vins f => .lane 0x0AA f (Shape.vins f)
  | .mov f => .lane 0x0C0 f (Shape.mov f)
  | .movi f => .lane 0x0C1 f (Shape.movi f)
  | .movs f => .lane 0x0C2 f (Shape.movs f)
  | .pset f => .lane 0x0C3 f (Shape.pset f)
  | .pand f => .lane 0x0C4 f (Shape.pred2)
  | .por f => .lane 0x0C5 f (Shape.pred2)
  | .pxor f => .lane 0x0C6 f (Shape.pred2)
  | .pnot f => .lane 0x0C7 f (Shape.pred1)
  | .pmov f => .lane 0x0C8 f (Shape.pred1)
  | .lid f => .lane 0x0C9 f (Shape.ident)
  | .pxy f => .lane 0x0CA f (Shape.ident)
  | .ldp f => .lane 0x0E0 f (Shape.ldp f)
  | .stp f => .lane 0x0E1 f (Shape.stp f)
  | .ldw f => .lane 0x0E2 f (Shape.ldw f)
  | .stw f => .lane 0x0E3 f (Shape.stw f)
  | .lds f => .lane 0x0E4 f (Shape.lds f)
  | .sts f => .lane 0x0E5 f (Shape.sts f)
  | .ldg f => .lane 0x0E6 f (Shape.ldg f)
  | .stg f => .lane 0x0E7 f (Shape.stg f)
  | .prefg f => .lane 0x0E8 f (Shape.prefg)
  | .atomAdd f => .lane 0x0F0 f (Shape.atom atomAddTys false f)
  | .atomMin f => .lane 0x0F1 f (Shape.atom tysMulh false f)
  | .atomMax f => .lane 0x0F2 f (Shape.atom tysMulh false f)
  | .atomAnd f => .lane 0x0F3 f (Shape.atom bitTys false f)
  | .atomOr f => .lane 0x0F4 f (Shape.atom bitTys false f)
  | .atomXor f => .lane 0x0F5 f (Shape.atom bitTys false f)
  | .atomXchg f => .lane 0x0F6 f (Shape.atom bitTys false f)
  | .atomCas f => .lane 0x0F7 f (Shape.atom bitTys true f)
  | .redAdd f => .lane 0x0F8 f (Shape.red atomAddTys f)
  | .redMin f => .lane 0x0F9 f (Shape.red tysMulh f)
  | .redMax f => .lane 0x0FA f (Shape.red tysMulh f)
  | .redAnd f => .lane 0x0FB f (Shape.red bitTys f)
  | .redOr f => .lane 0x0FC f (Shape.red bitTys f)
  | .redXor f => .lane 0x0FD f (Shape.red bitTys f)
  | .atomsAdd f => .lane 0x100 f (Shape.atoms atomAddTys false f)
  | .atomsMin f => .lane 0x101 f (Shape.atoms tysMulh false f)
  | .atomsMax f => .lane 0x102 f (Shape.atoms tysMulh false f)
  | .atomsAnd f => .lane 0x103 f (Shape.atoms bitTys false f)
  | .atomsOr f => .lane 0x104 f (Shape.atoms bitTys false f)
  | .atomsXor f => .lane 0x105 f (Shape.atoms bitTys false f)
  | .atomsXchg f => .lane 0x106 f (Shape.atoms bitTys false f)
  | .atomsCas f => .lane 0x107 f (Shape.atoms bitTys true f)
  | .fence f => .lane 0x108 f (Shape.fence)
  | .ofence f => .lane 0x109 f (Shape.ofence)
  | .bara f => .lane 0x10A f (Shape.bara)
  | .bars f => .lane 0x10B f (Shape.barrier2)
  | .barw f => .lane 0x10C f (Shape.barrier2)
  | .bari f => .lane 0x10D f (Shape.barrier2)
  | .marm f => .lane 0x10E f (Shape.marm)
  | .mwait f => .lane 0x10F f (Shape.mwait)
  | .monitorTrigger _ _ => .step
  | .mwaitTimeout _ _ => .step
  | .rwr f => .lane 0x110 f (Shape.rwr)
  | .rwrDelivery _ => .step
  | .await f => .lane 0x111 f (Shape.await)
  | .arrc f => .lane 0x112 f (Shape.arrc)
  | .qtry f => .lane 0x113 f (Shape.qtry f)
  | .qlen f => .lane 0x114 f (Shape.qlen)
  | .qcls f => .lane 0x115 f (Shape.qcls)
  | .qput f => .lane 0x116 f (Shape.qput)
  | .oclm f => .lane 0x120 f (Shape.oclm f)
  | .orel f => .lane 0x121 f (Shape.orel f)
  | .q4RowWrite _ _ => .step
  | .mma f => .lane 0x122 f (Shape.mma f)
  | .azero f => .lane 0x123 f (Shape.azero f)
  | .ald f => .lane 0x125 f (Shape.ald f)
  | .drainQ f => .lane 0x124 f (Shape.drain 0 f)
  | .drainPl f => .lane 0x124 f (Shape.drain 1 f)
  | .drainScr f => .lane 0x124 f (Shape.drain 2 f)
  | .drainSlot f => .lane 0x124 f (Shape.drain 3 f)
  | .drainGlb f => .lane 0x124 f (Shape.drain 4 f)
  | .cpyIn f => .lane 0x128 f (Shape.cpy [0, 2, 4] f)
  | .cpyOut f => .lane 0x128 f (Shape.cpy [1, 3, 5] f)
  | .cpyq f => .lane 0x129 f (Shape.cpy [1, 3, 5] f)
  | .cbld f => .lane 0x182 f (Shape.cbld f)
  | .scrlF f => .lane 0x130 f (Shape.scrl [0, 2] f)
  | .scrlM f => .lane 0x130 f (Shape.scrl [1, 3] f)
  | .wgath f => .lane 0x138 f (Shape.wgath f)
  | .wpool f => .lane 0x139 f (Shape.wpool f)
  | .gnode f => .lane 0x140 f (Shape.graph f)
  | .gsig f => .lane 0x141 f (Shape.graph f)
  | .gflag f => .lane 0x142 f (Shape.gflag f)
  | .asco f => .lane 0x160 f (Shape.ascent .sreg .sreg [0])
  | .ascp f => .lane 0x161 f (Shape.ascent .sreg .desc [0])
  | .ascl f => .lane 0x162 f (Shape.ascent .sreg .sreg [0])
  | .ascr f => .lane 0x163 f (Shape.ascent .sreg .sreg [0])
  | .ascf f => .lane 0x164 f (Shape.ascent .zero .sreg [0])
  | .ascq f => .lane 0x165 f (Shape.ascent .sreg .sreg [0, 1])
  | .asclAuditRelease _ => .step
  | .compensationLaunch _ => .step
  | .compensationExit _ _ => .step
  | .engineAccept _ _ _ => .step
  | .scrollAccept _ _ => .step
  | .spillHeaderRead _ _ => .step
  | .scrollRow _ _ => .step
  | .endStatusDelivery _ _ => .step
  | .mmaComplete _ _ => .step
  | .wgathComplete _ _ => .step
  | .drainComplete _ _ => .step
  | .copyComplete _ _ _ => .step
  | .wpoolComplete _ _ => .step
  | .completionRecordEnqueue _ _ _ => .step
  | .longLatencyCompletion _ _ _ => .step
  | .fibreWake _ _ => .step
  | .xacqGrant _ => .step
  | .slotSwitch _ _ => .step
  | .stallSwitch _ _ => .step
  | .ageSwitch _ _ => .step
  | .issueCycle => .step
  | .allowanceRefill _ => .step
  | .userHandlerEntry _ _ => .step
  | .tretResume _ _ => .step
  | .handlerOverrun _ _ => .step
  | .eventRecordRelease _ => .step
  | .replay _ _ => .step
  | .next _ _ => .step
  | .user _ _ _ => .step
  | .kill _ _ => .step
  | .abort _ _ _ => .step
  | .cont _ _ => .step
  | .step _ _ => .step
  | .stepall _ _ => .step
  | .stop _ _ => .step
  | .dbgctlWrite _ _ => .step
  | .fibreSave _ _ => .step
  | .fibreRestore _ _ => .step
  | .engdataAccess _ _ => .step
  | .engdone _ _ => .step
  | .registerWrite _ _ _ => .step
  | .blockRun _ _ => .step
  | .blockPreempt _ _ => .step
  | .blockParked _ _ => .step
  | .blockSave _ _ => .step
  | .blockRestore _ _ => .step
  | .blockRelease _ _ => .step
  | .launchDoorbell _ _ _ _ => .step
  | .launchPlacement _ _ _ => .step
  | .launchAgeing _ _ => .step
  | .launchCompletion _ _ => .step
  | .poolMove _ _ => .step
  | .thermalMigration _ _ => .step
  | .migrationComplete _ => .step
  | .linkWidthChange _ _ => .step
  | .linkFrequencyChange _ _ => .step
  | .linkRetrainComplete _ _ => .step
  | .pageWalk _ _ _ _ => .step
  | .faultReplyGrant _ _ => .step
  | .faultReplyRefuse _ _ => .step
  | .invalidateRange _ _ _ _ => .step
  | .invalidateAsid _ _ => .step
  | .invalidateAll _ => .step
  | .invalidateHandles _ _ => .step
  | .invalidationDone => .step
  | .dmaRequest _ _ _ _ => .step
  | .registerEccError _ _ => .step
  | .uncorrectableControlError _ => .step
  | .scrubVisit _ _ => .step
  | .matrixResidueFailure _ => .step
  | .loadValueForward _ => .step
  | .compareDecision _ => .step
  | .pairRestoreDone _ => .step
  | .checkpoint _ => .step
  | .heldExit _ _ => .step
  | .auditReplay _ _ _ => .step
  | .scanStart _ => .step
  | .scanAbort _ => .step
  | .scanComplete _ _ => .step
  | .watchdogExpiry => .step
  | .warmReset _ => .step
  | .warmResetResume => .step
  | .lifeLogAppend => .step
  | .flitCrcError _ => .step
  | .portRetrain _ => .step
  | .tetherPortWrite _ _ _ => .step
  | .torusScrollCancel _ _ => .step
  | .coldBoot => .step
  | .getVersion _ => .step
  | .getCapabilities _ => .step
  | .negotiateAlgorithms _ => .step
  | .getDigests _ => .step
  | .getCertificate _ => .step
  | .challenge _ _ => .step
  | .getMeasurements _ => .step
  | .powerLimitSet _ => .step
  | .warmResetRequest => .step
  | .coldResetRequest => .step
  | .dieOverheat _ _ => .step
  | .thermalTrip _ => .step
  | .applicationCoreAccess _ _ => .step
  | .tetherFlitDelivery _ _ => .step
  | .supplyDroopEvent _ => .step
  | .lifetimeCounterTick _ _ _ => .step
  | .poolMoveComplete _ => .step
  | .checkpointComplete _ => .step
  | .blockCommandComplete _ _ => .step
  | .fibreSaveRecordDone _ => .step

/-- The fields of the form are legal. -/
def Form.ok : Form → Bool
  | .lane _ f s => s.ok f
  | .reg _ _ ok => ok
  | .imm _ _ ok => ok
  | .long _ _ ok => ok
  | .bare _ => true
  | .header h => h.ok
  | .step => false

/-- A well-formed instruction: it has an encoding, and every field of it is legal. -/
def Instr.wf (i : Instr) : Bool := i.form.ok

/-- Parcels of the instruction (R105); a device step has none. -/
def Instr.parcels (i : Instr) : Nat :=
  match i.form with
  | .lane _ _ _ => 3
  | .reg _ _ _ => 1
  | .imm _ _ _ => 1
  | .long _ _ _ => 2
  | .bare _ => 1
  | .header _ => 1
  | .step => 0

end Sys2Proof
end

