-- ==== Sys2Proof/Machine/Flags.lean ====
section
/-! DEFINITION. The exception bits of `CHKI` and how they are computed: which bit stands where, a bit
set on a condition, and the carry and borrow out of a sum (R67, R93, R94, R201). -/

namespace Sys2Proof.Machine

/-! ### The bits of `CHKI` (R93) -/

abbrev chkiPoison : BitVec 32 := 0x1
abbrev chkiScope : BitVec 32 := 0x2
abbrev chkiIdz : BitVec 32 := 0x4
abbrev chkiIovf : BitVec 32 := 0x8
abbrev chkiFio : BitVec 32 := 0x10
abbrev chkiFdz : BitVec 32 := 0x20
abbrev chkiFof : BitVec 32 := 0x40
abbrev chkiFuf : BitVec 32 := 0x80
abbrev chkiFnx : BitVec 32 := 0x100
abbrev chkiHole : BitVec 32 := 0x200
abbrev chkiSat : BitVec 32 := 0x400

/-! ### The bits that a conversion or an operation on numbers sets (R67) -/

abbrev fFio : BitVec 32 := chkiFio
abbrev fFdz : BitVec 32 := chkiFdz
abbrev fFof : BitVec 32 := chkiFof
abbrev fFuf : BitVec 32 := chkiFuf
abbrev fFnx : BitVec 32 := chkiFnx
abbrev fSat : BitVec 32 := chkiSat

/-- Bits that are set on a condition. -/
def flagIf (b : Bool) (f : BitVec 32) : BitVec 32 := if b then f else 0

/-- The exact sum or difference with carry, and the carry or borrow out (R201). -/
def carrySum (minus : Bool) (ty a b : Nat) (ci : Bool) : Nat × Bool :=
  let c : Int := if ci then 1 else 0
  let t : Int := if minus then (a : Int) - b - c else (a : Int) + b + c
  (wrapInt (tyWidth ty) t, if minus then decide (t < 0) else decide (((2 ^ tyWidth ty : Nat) : Int) ≤ t))

end Sys2Proof.Machine
end

