-- ==== Sys2Proof/Machine/Float.lean ====
section
/-! DEFINITION. Number formats and exact arithmetic (R48 to R70, R76): every code's value, rounding
into a format, sums, products, quotients and roots. A value is exact, or stands for a number that lies
strictly between two of its neighbours: its last bit is then set, below every grid it is rounded to. -/

namespace Sys2Proof.Machine

/-- A value: a NaN (signalling or quiet), an infinity, or (-1)^neg * m * 2^e. -/
inductive FVal where
  | nan (signalling : Bool)
  | inf (neg : Bool)
  | fin (neg : Bool) (m : Nat) (e : Int)
  deriving DecidableEq, Repr

/-- How a float format ends: IEEE infinities and NaNs, E4M3's one NaN, or nothing (R51, R54). -/
inductive Special where
  | ieee | e4m3 | finite
  deriving DecidableEq, Repr

/-- A format: a float of `eb` exponent and `mb` fraction bits, an integer, or a half-step grid. -/
inductive Fmt where
  | float (eb mb bias : Nat) (special : Special)
  | int (w : Nat) (signed : Bool)
  | half (w : Nat)
  deriving DecidableEq, Repr

abbrev Fmt.fp32 : Fmt := .float 8 23 127 .ieee
abbrev Fmt.fp16 : Fmt := .float 5 10 15 .ieee
abbrev Fmt.bf16 : Fmt := .float 8 7 127 .ieee
abbrev Fmt.fp64 : Fmt := .float 11 52 1023 .ieee
abbrev Fmt.e4m3 : Fmt := .float 4 3 7 .e4m3
abbrev Fmt.e5m2 : Fmt := .float 5 2 15 .ieee
abbrev Fmt.e3m2 : Fmt := .float 3 2 3 .finite
abbrev Fmt.e2m3 : Fmt := .float 2 3 1 .finite
abbrev Fmt.e2m1 : Fmt := .float 2 1 1 .finite
abbrev Fmt.e3m4 : Fmt := .float 3 4 3 .finite

/-- The element format of a format code (R48, R63); C4 codes are looked up in a codebook. -/
def fmtOfCode (code : Nat) : Fmt :=
  match code with
  | 0 => .fp32
  | 1 => .fp16
  | 2 => .bf16
  | 3 => .fp64
  | 4 => .e4m3
  | 5 => .e5m2
  | 6 => .e3m2
  | 7 => .e2m3
  | 8 => .e2m1
  | 9 => .int 8 true
  | 10 => .half 8
  | 11 => .half 4
  | 12 => .e4m3
  | 13 => .e2m3
  | 14 => .e2m1
  | 15 => .int 4 false
  | 16 => .int 16 true
  | 17 => .int 32 true
  | 18 => .e2m1
  | 19 => .e4m3
  | 20 => .half 2
  | _ => .e3m4

/-- The format of a type code of R117: format codes, and integers from 16 up. -/
def fmtOfType (ty : Nat) : Fmt :=
  if ty < 12 then fmtOfCode ty
  else
    match ty with
    | 16 => .int 16 true
    | 17 => .int 32 true
    | 18 => .int 64 true
    | 19 => .int 8 false
    | 20 => .int 16 false
    | 21 => .int 32 false
    | _ => .int 64 false

/-- Bits of an element. -/
def Fmt.width : Fmt → Nat
  | .float eb mb _ _ => eb + mb + 1
  | .int w _ => w
  | .half w => w

/-- The format has neither an infinity nor a NaN (R67). -/
def Fmt.allFinite : Fmt → Bool
  | .float _ _ _ .finite => true
  | .float _ _ _ _ => false
  | _ => true

/-- The value of a code (R51, R54 to R57). -/
def Fmt.value (f : Fmt) (x : Nat) : FVal :=
  match f with
  | .int w s =>
    let v := toInteger w (!s) x
    .fin (decide (v < 0)) v.natAbs 0
  | .half w =>
    let v := 2 * toSigned w x + 1
    .fin (decide (v < 0)) v.natAbs (-1)
  | .float eb mb bias sp =>
    let neg := x.testBit (eb + mb)
    let e := bitsAt x mb eb
    let m := bitsAt x 0 mb
    let top := 2 ^ eb - 1
    if sp = .ieee ∧ e = top then
      if m = 0 then .inf neg
      else .nan (decide (eb + mb + 1 > 8) && !m.testBit (mb - 1))
    else if sp = .e4m3 ∧ e = top ∧ m = 2 ^ mb - 1 then .nan false
    else if e = 0 then .fin neg m (1 - (bias : Int) - mb)
    else .fin neg (2 ^ mb + m) ((e : Int) - bias - mb)

/-- The canonical NaN of a format (R52); code 0 where it has none (R67). -/
def Fmt.canonicalNaN : Fmt → Nat
  | .float eb mb _ .ieee => (2 ^ eb - 1) * 2 ^ mb + 2 ^ (mb - 1)
  | .float eb mb _ .e4m3 => 2 ^ (eb + mb) - 1
  | _ => 0

/-- The code of the largest finite magnitude of a float format. -/
def Fmt.maxCode : Fmt → Nat
  | .float eb mb _ .ieee => (2 ^ eb - 1) * 2 ^ mb - 1
  | .float eb mb _ .e4m3 => 2 ^ (eb + mb) - 2
  | .float eb mb _ .finite => 2 ^ (eb + mb) - 1
  | _ => 0

/-- The code of the end of the finite range on one side (R67). -/
def Fmt.endCode (f : Fmt) (neg : Bool) : Nat :=
  match f with
  | .float eb mb _ _ => f.maxCode + (if neg then 2 ^ (eb + mb) else 0)
  | .int w true => if neg then 2 ^ (w - 1) else 2 ^ (w - 1) - 1
  | .int w false => if neg then 0 else 2 ^ w - 1
  | .half w => if neg then 2 ^ (w - 1) else 2 ^ (w - 1) - 1

/-- Rounds the magnitude m * 2^e to a multiple q of 2^u, in a mode of R66 (RS with the upper 24
bits of a seed): q, and whether it was inexact. -/
def roundMag (md seed : Nat) (neg : Bool) (m : Nat) (e u : Int) : Nat × Bool :=
  if u ≤ e then (m * 2 ^ (e - u).toNat, false)
  else
    let d := (u - e).toNat
    let q := m / 2 ^ d
    let r := m % 2 ^ d
    if r = 0 then (q, false)
    else
      let up : Bool :=
        match md with
        | 0 => decide (2 ^ d < 2 * r) || (2 * r == 2 ^ d && q % 2 == 1)
        | 1 => false
        | 2 => !neg
        | 3 => neg
        | _ =>
          if neg then !decide (seed < (2 ^ d - r) * 2 ^ 24 / 2 ^ d)
          else decide (seed < r * 2 ^ 24 / 2 ^ d)
      (if up then q + 1 else q, true)

/-- The exponent of the leading bit of m * 2^e, for m not 0. -/
def leadExp (m : Nat) (e : Int) : Int := e + Nat.log2 m

/-- The code of the magnitude q * 2^u in a float format without a largest exponent. -/
def magCode (mb bias q : Nat) (u : Int) : Nat :=
  if q < 2 ^ mb then q
  else
    let k := Nat.log2 q
    (u + k + bias).toNat * 2 ^ mb + (q * 2 ^ mb / 2 ^ k - 2 ^ mb)

/-- The result of a conversion: its code, the exception bits it sets, and whether it clamped. -/
structure Conv where
  code : Nat
  flags : BitVec 32
  clamped : Bool
  deriving DecidableEq, Repr

/-- A finite non-zero value into a float format (R67 steps 3 to 6). With `ieee`, underflow is IEEE
754's, with tininess detected after rounding (R53). -/
def convertFloat (eb mb bias : Nat) (sp : Special) (ieee : Bool) (md seed : Nat) (sat : Bool)
    (neg : Bool) (m : Nat) (e : Int) : Conv :=
  let f : Fmt := .float eb mb bias sp
  let sign := if neg then 2 ^ (eb + mb) else 0
  let emin : Int := 1 - (bias : Int) - mb
  let lead := leadExp m e
  let u : Int := if emin ≤ lead - mb then lead - mb else emin
  let cut := roundMag 1 0 neg m e u
  let cutCode := magCode mb bias cut.1 u
  let beyond : Bool := decide (f.maxCode < cutCode) || (cutCode == f.maxCode && cut.2)
  let md := if md = 4 ∧ beyond then 0 else md
  let r := roundMag md seed neg m e u
  let code := magCode mb bias r.1 u
  if f.maxCode < code then
    if sat then ⟨f.maxCode + sign, fSat ||| fFnx, true⟩
    else
      let toInf : Bool :=
        match md with
        | 0 => true
        | 2 => !neg
        | 3 => neg
        | _ => false
      if !toInf then ⟨f.maxCode + sign, fFof ||| fFnx, false⟩
      else if sp = .ieee then ⟨(2 ^ eb - 1) * 2 ^ mb + sign, fFof ||| fFnx, false⟩
      else ⟨f.canonicalNaN, fFof ||| fFnx, false⟩
  else
    let tiny : Bool :=
      if ieee then
        let t := roundMag md seed neg m e (lead - mb)
        decide (leadExp t.1 (lead - mb) < 1 - (bias : Int))
      else r.1 != 0 && decide (code < 2 ^ mb)
    ⟨code + sign, flagIf r.2 fFnx ||| flagIf (r.2 && tiny) fFuf, false⟩

/-- A finite value into an integer format (R67). -/
def convertInt (w : Nat) (signed : Bool) (md seed : Nat) (neg : Bool) (m : Nat) (e : Int) : Conv :=
  let lo : Int := if signed then -((2 ^ (w - 1) : Nat) : Int) else 0
  let hi : Int := if signed then ((2 ^ (w - 1) : Nat) : Int) - 1 else ((2 ^ w : Nat) : Int) - 1
  let cut := roundMag 1 0 neg m e 0
  let v (q : Nat) : Int := if neg then -(q : Int) else q
  let beyond : Bool := decide (v cut.1 < lo) || decide (hi < v cut.1) ||
    ((v cut.1 == lo && neg || v cut.1 == hi && !neg) && cut.2)
  let md := if md = 4 ∧ beyond then 0 else md
  let r := roundMag md seed neg m e 0
  let y := v r.1
  if y < lo then ⟨wrapInt w lo, fSat ||| fFnx, true⟩
  else if hi < y then ⟨wrapInt w hi, fSat ||| fFnx, true⟩
  else ⟨wrapInt w y, flagIf r.2 fFnx, false⟩

/-- A finite value into a half-step grid (R67, R68, R69). -/
def convertHalf (w : Nat) (md seed : Nat) (neg : Bool) (m : Nat) (e : Int) : Conv :=
  let k : Nat := if 1 ≤ -e then (-e).toNat else 1
  let mag : Int := ((m * 2 ^ (e + k).toNat : Nat) : Int)
  let x : Int := if neg then -mag else mag
  let one : Int := ((2 ^ k : Nat) : Int)
  let t : Int := x - ((2 ^ (k - 1) : Nat) : Int)
  let n : Int := t / one
  let r : Int := t % one
  let lo : Int := -((2 ^ (w - 1) : Nat) : Int)
  let hi : Int := ((2 ^ (w - 1) : Nat) : Int) - 1
  let beyond : Bool := decide (n < lo) || decide (hi < n) || (n == hi && r != 0)
  let md := if md = 4 ∧ beyond then 0 else md
  let up : Bool :=
    if r = 0 then false
    else
      match md with
      | 0 => decide (one < 2 * r) || (2 * r == one && n % 2 != 0)
      | 1 => if n = -1 then !neg else neg
      | 2 => true
      | 3 => false
      | _ => decide ((seed : Int) < r * 16777216 / one)
  let y := if up then n + 1 else n
  if y < lo then ⟨wrapInt w lo, fSat ||| fFnx, true⟩
  else if hi < y then ⟨wrapInt w hi, fSat ||| fFnx, true⟩
  else ⟨wrapInt w y, flagIf (r != 0) fFnx, false⟩

/-- Converts a value to a format in a mode (R67, R68, R69). `seed` is the upper 24 bits of the
stepped seed. With `ieee` underflow is that of IEEE arithmetic. -/
def convertWith (ieee : Bool) (f : Fmt) (md seed : Nat) (sat : Bool) (x : FVal) : Conv :=
  let sat := sat || f.allFinite
  match x with
  | .nan s =>
    if f.allFinite then ⟨0, fFio, false⟩ else ⟨f.canonicalNaN, flagIf s fFio, false⟩
  | .inf neg =>
    if sat then ⟨f.endCode neg, fSat ||| fFnx, true⟩
    else
      match f with
      | .float eb mb _ .ieee => ⟨(2 ^ eb - 1) * 2 ^ mb + (if neg then 2 ^ (eb + mb) else 0), 0, false⟩
      | _ => ⟨f.canonicalNaN, fFio, false⟩
  | .fin neg m e =>
    match f with
    | .float eb mb bias sp =>
      if m = 0 then ⟨if neg then 2 ^ (eb + mb) else 0, 0, false⟩
      else convertFloat eb mb bias sp ieee md seed sat neg m e
    | .int w s => convertInt w s md seed neg m e
    | .half w => convertHalf w md seed neg m e

/-- A conversion of R67. -/
def convert (f : Fmt) (md seed : Nat) (sat : Bool) (x : FVal) : Conv := convertWith false f md seed sat x

/-- One step of a lane's seed (R69). -/
def stepSeed (s : Word) : Word :=
  let a : Word := if s = 0 then 0x9E3779B9 else s
  let b := a ^^^ (a <<< 13)
  let c := b ^^^ (b >>> 17)
  c ^^^ (c <<< 5)

/-! ### Exact arithmetic -/

def FVal.isNaN : FVal → Bool
  | .nan _ => true
  | _ => false
def FVal.isSignalling : FVal → Bool
  | .nan s => s
  | _ => false
def FVal.isZero : FVal → Bool
  | .fin _ m _ => m == 0
  | _ => false
def FVal.isInf : FVal → Bool
  | .inf _ => true
  | _ => false
def FVal.neg : FVal → FVal
  | .nan s => .nan s
  | .inf n => .inf (!n)
  | .fin n m e => .fin (!n) m e
def FVal.sign : FVal → Bool
  | .nan _ => false
  | .inf n => n
  | .fin n _ _ => n

/-- A signed integer times 2^e, with a sign for zero. -/
def FVal.ofInt (zeroNeg : Bool) (x e : Int) : FVal :=
  .fin (if x = 0 then zeroNeg else decide (x < 0)) x.natAbs e

/-- The signed mantissa at an exponent not above its own. -/
def mantissaAt (neg : Bool) (m : Nat) (e u : Int) : Int :=
  let v : Int := ((m * 2 ^ (e - u).toNat : Nat) : Int)
  if neg then -v else v

/-- The exact sum of two values and the exception it raises; an exact zero sum of opposite signs
is +0, and -0 in mode RD (R204). -/
def addVal (md : Nat) (a b : FVal) : FVal × BitVec 32 :=
  match a, b with
  | .nan s, y => (.nan false, flagIf (s || y.isSignalling) fFio)
  | _, .nan s => (.nan false, flagIf s fFio)
  | .inf n, .inf n' => if n = n' then (.inf n, 0) else (.nan false, fFio)
  | .inf n, _ => (.inf n, 0)
  | _, .inf n => (.inf n, 0)
  | .fin n m e, .fin n' m' e' =>
    let u := if e ≤ e' then e else e'
    let z := if n = n' then n else md == 3
    (FVal.ofInt z (mantissaAt n m e u + mantissaAt n' m' e' u) u, 0)

/-- The exact product of two values and the exception it raises. -/
def mulVal (a b : FVal) : FVal × BitVec 32 :=
  match a, b with
  | .nan s, y => (.nan false, flagIf (s || y.isSignalling) fFio)
  | _, .nan s => (.nan false, flagIf s fFio)
  | .inf n, y => if y.isZero then (.nan false, fFio) else (.inf (n != y.sign), 0)
  | x, .inf n => if x.isZero then (.nan false, fFio) else (.inf (n != x.sign), 0)
  | .fin n m e, .fin n' m' e' => (.fin (n != n') (m * m') (e + e'), 0)

/-- a * b + c, exact (R205). -/
def fmaVal (md : Nat) (a b c : FVal) : FVal × BitVec 32 :=
  let p := mulVal a b
  let r := addVal md p.1 c
  (r.1, p.2 ||| r.2)

/-- The magnitude n / d * 2^e for d not 0, with `bits` bits or more, its last bit set where it is
inexact. -/
def quotient (bits n d : Nat) (e : Int) : Nat × Int :=
  let k := bits + Nat.log2 d
  let q := n * 2 ^ k / d
  if n * 2 ^ k % d = 0 then (q, e - k) else (2 * q + 1, e - k - 1)

/-- a / b for finite a and finite non-zero b. -/
def divVal (a b : FVal) : FVal :=
  match a, b with
  | .fin n m e, .fin n' m' e' =>
    let q := quotient 200 m m' (e - e')
    .fin (n != n') q.1 q.2
  | _, _ => .nan false

/-- The integer square root, found bit by bit from bit `k - 1` down. -/
def isqrt (n : Nat) : Nat → Nat → Nat
  | 0, r => r
  | k + 1, r => if (r + 2 ^ k) * (r + 2 ^ k) ≤ n then isqrt n k (r + 2 ^ k) else isqrt n k r

/-- The square root of m * 2^e, its last bit set where it is inexact. -/
def sqrtMag (m : Nat) (e : Int) : Nat × Int :=
  let k : Nat := 200 + (if (e - 200) % 2 = 0 then 0 else 1)
  let n := m * 2 ^ k
  let r := isqrt n (Nat.log2 n / 2 + 1) 0
  if r * r = n then (r, (e - k) / 2) else (2 * r + 1, (e - k) / 2 - 1)

/-! ### Comparison -/

/-- The order of two values that are not NaN: negative, zero or positive. -/
def cmpVal (a b : FVal) : Int :=
  match a, b with
  | .inf n, .inf n' => if n = n' then 0 else if n then -1 else 1
  | .inf n, _ => if n then -1 else 1
  | _, .inf n => if n then 1 else -1
  | .fin n m e, .fin n' m' e' =>
    let u := if e ≤ e' then e else e'
    mantissaAt n m e u - mantissaAt n' m' e' u
  | _, _ => 0

/-- minimumNumber and maximumNumber, with -0 below +0 (R204): whether the second is taken. -/
def takesSecond (greater : Bool) (a b : FVal) : Bool :=
  if a.isNaN then true
  else if b.isNaN then false
  else
    let c := cmpVal a b
    if c = 0 then (if greater then a.sign && !b.sign else !a.sign && b.sign)
    else if greater then decide (c < 0) else decide (0 < c)

/-! ### Elementary functions to 640 bits (R206) -/

/-- Fixed-point fraction bits. -/
abbrev fixBits : Nat := 640
abbrev fixOne : Nat := 2 ^ fixBits

/-- The sum of `term / k` for odd or all k: atan-like and exp-like series are written out below.
e^t - 1 for a fixed-point t below 2. -/
def expm1Series (t : Nat) : Nat → Nat → Nat → Nat → Nat
  | 0, _, _, acc => acc
  | fuel + 1, k, term, acc =>
    let term := term * t / (fixOne * k)
    expm1Series t fuel (k + 1) term (acc + term)

/-- e^t - 1. -/
def expm1Fix (t : Nat) : Nat := expm1Series t 200 1 fixOne 0

/-- The sum of z^(2 k + 1) / (2 k + 1), with alternating signs where `alt`. -/
def oddSeries (alt : Bool) (zz : Nat) : Nat → Nat → Nat → Int → Int
  | 0, _, _, acc => acc
  | fuel + 1, k, pow, acc =>
    let t : Int := ((pow / (2 * k + 1) : Nat) : Int)
    oddSeries alt zz fuel (k + 1) (pow * zz / fixOne) (if alt && k % 2 == 1 then acc - t else acc + t)

/-- ln 2 = 2 atanh(1/3). -/
def ln2Fix : Nat := (2 * oddSeries false (fixOne / 9) 220 0 (fixOne / 3) 0).toNat
/-- 2 pi = 32 atan(1/5) - 8 atan(1/239). -/
def twoPiFix : Nat :=
  (32 * oddSeries true (fixOne / 25) 150 0 (fixOne / 5) 0 -
    8 * oddSeries true (fixOne / 57121) 50 0 (fixOne / 239) 0).toNat

/-- sin t for a fixed-point t below 1: the sum of (-1)^k t^(2k+1) / (2k+1)!. -/
def sinSeries (tt : Nat) : Nat → Nat → Nat → Int → Int
  | 0, _, _, acc => acc
  | fuel + 1, k, term, acc =>
    let acc := if k % 2 = 1 then acc - (term : Int) else acc + (term : Int)
    sinSeries tt fuel (k + 1) (term * tt / fixOne / ((2 * k + 2) * (2 * k + 3))) acc
def sinFix (t : Nat) : Nat := (sinSeries (t * t / fixOne) 60 0 t 0).toNat
/-- cos t: the sum of (-1)^k t^(2k) / (2k)!. -/
def cosSeries (tt : Nat) : Nat → Nat → Nat → Int → Int
  | 0, _, _, acc => acc
  | fuel + 1, k, term, acc =>
    let acc := if k % 2 = 1 then acc - (term : Int) else acc + (term : Int)
    cosSeries tt fuel (k + 1) (term * tt / fixOne / ((2 * k + 1) * (2 * k + 2))) acc
def cosFix (t : Nat) : Nat := (cosSeries (t * t / fixOne) 60 0 fixOne 0).toNat

/-- A fixed-point magnitude as an inexact value: its last 40 bits give way to one that is set. -/
def inexact (neg : Bool) (x : Nat) (e : Int) : FVal :=
  .fin neg (2 * (x / 2 ^ 40) + 1) (e - (fixBits : Int) + 39)

/-- exp2 of a finite value (R206). -/
def exp2Val (neg : Bool) (m : Nat) (e : Int) : FVal :=
  if 0 ≤ e ∨ m % 2 ^ (-e).toNat = 0 then
    let n : Int := if 0 ≤ e then ((m * 2 ^ e.toNat : Nat) : Int) else ((m / 2 ^ (-e).toNat : Nat) : Int)
    .fin false 1 (if neg then -n else n)
  else
    let d := (-e).toNat
    let n : Int := ((m / 2 ^ d : Nat) : Int)
    let f := m % 2 ^ d
    -- x = n + f / 2^d, or -(n + f / 2^d) = -(n + 1) + (2^d - f) / 2^d
    let f := if neg then 2 ^ d - f else f
    let n := if neg then -(n + 1) else n
    let t := f * ln2Fix / 2 ^ d
    inexact false (fixOne + expm1Fix t) n

/-- ln of a fixed-point y in [1, 2). -/
def lnFix (y : Nat) : Nat :=
  let z := (y - fixOne) * fixOne / (y + fixOne)
  (2 * oddSeries false (z * z / fixOne) 220 0 z 0).toNat

/-- log2 of a positive finite value (R206). -/
def log2Val (m : Nat) (e : Int) : FVal :=
  let k := Nat.log2 m
  let n : Int := e + k
  if m = 2 ^ k then .fin (decide (n < 0)) n.natAbs 0
  else
    let y := m * fixOne / 2 ^ k
    let l : Int := ((lnFix y * fixOne / ln2Fix : Nat) : Int)
    let v : Int := n * ((fixOne : Nat) : Int) + l
    inexact (decide (v < 0)) v.natAbs 0

/-- sin(2 pi x) for a finite x (R206). -/
def sinVal (neg : Bool) (m : Nat) (e : Int) : FVal :=
  let d := (-e).toNat
  if 0 ≤ e then .fin neg 0 0
  else
    let f := m % 2 ^ d
    -- in eighths of a turn, with what is left over
    let o := 8 * f / 2 ^ d
    let r := 8 * f % 2 ^ d
    if r = 0 ∧ o % 4 = 0 then .fin neg 0 0
    else if r = 0 ∧ o % 2 = 0 then .fin (neg != decide (4 ≤ o)) 1 0
    else
      let q := o % 4
      -- the angle within the half turn, folded to at most a quarter, then an eighth
      let a := if q = 0 ∨ q = 2 then r else 2 ^ d - r
      let t := a * twoPiFix / (8 * 2 ^ d)
      let v := if q = 0 ∨ q = 3 then sinFix t else cosFix t
      inexact (neg != decide (4 ≤ o)) v 0

/-- cos(2 pi x) = sin(2 pi (|x| + 1/4)); a zero result is +0 (R206). -/
def cosVal (m : Nat) (e : Int) : FVal :=
  let d := (-e).toNat
  if 0 ≤ e then .fin false 1 0
  else
    match sinVal false (4 * (m % 2 ^ d) + 2 ^ d) (e - 2) with
    | .fin n m' e' => .fin (n && m' != 0) m' e'
    | v => v

/-- tanh of a finite non-zero value (R206). -/
def tanhVal (neg : Bool) (m : Nat) (e : Int) : FVal :=
  if 4 ≤ leadExp m e then .fin neg (2 ^ 1000 - 1) (-1000)
  else
    -- t = 2 |x|, below 32
    let t := if 0 ≤ e then 2 * m * 2 ^ e.toNat * fixOne else 2 * m * fixOne / 2 ^ (-e).toNat
    let n := t / ln2Fix
    let p := expm1Fix (t % ln2Fix)
    let up := (2 ^ n - 1) * fixOne + 2 ^ n * p
    inexact neg (up * fixOne / (up + 2 * fixOne)) 0

end Sys2Proof.Machine
end

