-- ==== Sys2Proof/Machine/FloatOps.lean ====
section
/-! DEFINITION. The lane float operations on codes (R203 to R210, R212 to R218): each gives a code
and the exception bits it raises. -/

namespace Sys2Proof.Machine

/-- A code and the exception bits of its computation. -/
abbrev Res := Nat × BitVec 32

/-- Rounds an exact result once, with IEEE flags (R53). -/
def finishIeee (f : Fmt) (md : Nat) (r : FVal × BitVec 32) : Res :=
  let c := convertWith true f md 0 false r.1
  (c.code, r.2 ||| c.flags)

/-- Rounds an exact result once, with the flags of R67. -/
def finishConv (f : Fmt) (md : Nat) (r : FVal × BitVec 32) : Res :=
  let c := convert f md 0 false r.1
  (c.code, r.2 ||| c.flags)

def fAdd (f : Fmt) (md a b : Nat) : Res := finishIeee f md (addVal md (f.value a) (f.value b))
def fSub (f : Fmt) (md a b : Nat) : Res := finishIeee f md (addVal md (f.value a) (f.value b).neg)
def fMul (f : Fmt) (md a b : Nat) : Res := finishIeee f md (mulVal (f.value a) (f.value b))
def fFma (f : Fmt) (md a b c : Nat) : Res :=
  finishIeee f md (fmaVal md (f.value a) (f.value b) (f.value c))

/-- minimumNumber (`greater` false) and maximumNumber (R204). -/
def fMinMax (greater : Bool) (f : Fmt) (a b : Nat) : Res :=
  let x := f.value a
  let y := f.value b
  let fl := flagIf (x.isSignalling || y.isSignalling) fFio
  if x.isNaN && y.isNaN then (f.canonicalNaN, fl)
  else (if takesSecond greater x y then b else a, fl)

/-- A NaN operand gives the canonical NaN, FIO when it signals; another value goes on. -/
def onNumber (f : Fmt) (a : Nat) (g : FVal → Res) : Res :=
  match f.value a with
  | .nan s => (f.canonicalNaN, flagIf s fFio)
  | v => g v

/-- `abs` and `neg` (R204); a signalling NaN sets FIO (R52). (DEDUCED: log entry 22) -/
def fAbs (f : Fmt) (a : Nat) : Res :=
  onNumber f a (fun _ => (a % 2 ^ (f.width - 1), 0))
def fNeg (f : Fmt) (a : Nat) : Res :=
  onNumber f a (fun _ => (if a.testBit (f.width - 1) then a % 2 ^ (f.width - 1)
    else a % 2 ^ f.width + 2 ^ (f.width - 1), 0))

/-- A comparison by its code in M1 (R119, R203). -/
def fCmp (f : Fmt) (cc a b : Nat) : Bool × BitVec 32 :=
  let x := f.value a
  let y := f.value b
  let c := cmpVal x y
  let sig := flagIf (x.isSignalling || y.isSignalling) fFio
  if x.isNaN || y.isNaN then
    match cc with
    | 1 => (true, sig)
    | 7 => (true, sig)
    | 0 => (false, sig)
    | 6 => (false, sig)
    | _ => (false, fFio)
  else
    match cc with
    | 0 => (c == 0, 0)
    | 1 => (c != 0, 0)
    | 2 => (decide (c < 0), 0)
    | 3 => (decide (c ≤ 0), 0)
    | 4 => (decide (0 < c), 0)
    | 5 => (decide (0 ≤ c), 0)
    | 6 => (true, 0)
    | _ => (false, 0)

/-- A comparison of integers by its code. -/
def intCmp (cc : Nat) (a b : Int) : Bool :=
  match cc with
  | 0 => a == b
  | 1 => a != b
  | 2 => decide (a < b)
  | 3 => decide (a ≤ b)
  | 4 => decide (b < a)
  | _ => decide (b ≤ a)

def fInvalid (f : Fmt) : Res := (f.canonicalNaN, fFio)
def fInf (f : Fmt) (neg : Bool) (fl : BitVec 32) : Res := ((convert f 0 0 false (.inf neg)).code, fl)
def fZero (f : Fmt) (neg : Bool) : Res := ((convert f 0 0 false (.fin neg 0 0)).code, 0)

/-- The special functions (R206). (DEDUCED: log entry 10) -/
def fSqrt (f : Fmt) (md a : Nat) : Res := onNumber f a (fun v =>
  match v with
  | .inf neg => if neg then fInvalid f else fInf f false 0
  | .fin neg m e =>
    if m = 0 then fZero f neg
    else if neg then fInvalid f
    else
      let r := sqrtMag m e
      finishConv f md (.fin false r.1 r.2, 0)
  | _ => fInvalid f)
def fRcp (f : Fmt) (md a : Nat) : Res := onNumber f a (fun v =>
  match v with
  | .inf neg => fZero f neg
  | .fin neg m e =>
    if m = 0 then fInf f neg fFdz else finishConv f md (divVal (.fin false 1 0) (.fin neg m e), 0)
  | _ => fInvalid f)
def fRsq (f : Fmt) (md a : Nat) : Res := onNumber f a (fun v =>
  match v with
  | .inf neg => if neg then fInvalid f else fZero f false
  | .fin neg m e =>
    if m = 0 then fInf f neg fFdz
    else if neg then fInvalid f
    else
      -- an even power of two above 2^1000 * m, over m * 2^e
      let k : Nat := 1000 + (if (e % 2 = 0) then 0 else 1) + 2 * Nat.log2 m
      let n := 2 ^ k / m
      let r := isqrt n (Nat.log2 n / 2 + 1) 0
      let x : Int := (-(k : Int) - e) / 2
      if r * r * m = 2 ^ k then finishConv f md (.fin false r x, 0)
      else finishConv f md (.fin false (2 * r + 1) (x - 1), 0)
  | _ => fInvalid f)
def fExp2 (f : Fmt) (md a : Nat) : Res := onNumber f a (fun v =>
  match v with
  | .inf neg => if neg then fZero f false else fInf f false 0
  | .fin neg m e =>
    if m = 0 then finishConv f md (.fin false 1 0, 0)
    else if 14 ≤ leadExp m e then
      -- beyond every format: an inexact value past either end
      finishConv f md (.fin false 3 (if neg then -20000 else 20000), 0)
    else finishConv f md (exp2Val neg m e, 0)
  | _ => fInvalid f)
def fLog2 (f : Fmt) (md a : Nat) : Res := onNumber f a (fun v =>
  match v with
  | .inf neg => if neg then fInvalid f else fInf f false 0
  | .fin neg m e =>
    if m = 0 then fInf f true fFdz
    else if neg then fInvalid f
    else finishConv f md (log2Val m e, 0)
  | _ => fInvalid f)
def fSin (f : Fmt) (md a : Nat) : Res := onNumber f a (fun v =>
  match v with
  | .fin neg m e => finishConv f md (sinVal neg m e, 0)
  | _ => fInvalid f)
def fCos (f : Fmt) (md a : Nat) : Res := onNumber f a (fun v =>
  match v with
  | .fin _ m e => finishConv f md (cosVal m e, 0)
  | _ => fInvalid f)
def fTanh (f : Fmt) (md a : Nat) : Res := onNumber f a (fun v =>
  match v with
  | .inf neg => finishConv f md (.fin neg 1 0, 0)
  | .fin neg m e => if m = 0 then fZero f neg else finishConv f md (tanhVal neg m e, 0)
  | _ => fInvalid f)

/-- The special function of a lane OP (R206). -/
def special (op : Nat) (f : Fmt) (md a : Nat) : Res :=
  match op with
  | 0x041 => fSqrt f md a
  | 0x042 => fRcp f md a
  | 0x043 => fRsq f md a
  | 0x044 => fExp2 f md a
  | 0x045 => fLog2 f md a
  | 0x046 => fSin f md a
  | 0x047 => fCos f md a
  | _ => fTanh f md a

/-- The class bit of a value (R208). -/
def fClass (f : Fmt) (a : Nat) : Nat :=
  match f with
  | .float eb mb _ _ =>
    match f.value a with
    | .nan s => if s then 0 else 1
    | .inf neg => if neg then 2 else 9
    | .fin neg m _ =>
      if m = 0 then (if neg then 5 else 6)
      else if bitsAt a mb eb = 0 then (if neg then 4 else 7)
      else (if neg then 3 else 8)
  | _ => 0

/-- IEEE roundToIntegral, which never sets FNX (R209). -/
def fRnd (f : Fmt) (md a : Nat) : Res := onNumber f a (fun v =>
  match v with
  | .fin neg m e =>
    let r := roundMag md 0 neg m e 0
    finishIeee f 0 (.fin neg r.1 0, 0)
  | w => finishIeee f 0 (w, 0))

/-- a * 2^n (R210): flags by R67. Exponents far past every format stand for each other. (DEDUCED: log entry 22) -/
def fScl (f : Fmt) (md a : Nat) (n : Int) : Res := onNumber f a (fun v =>
  match v with
  | .fin neg m e =>
    let n := if n < -8000 then -8000 else if 8000 < n then 8000 else n
    finishConv f md (.fin neg m (e + n), 0)
  | w => finishConv f md (w, 0))

/-- a times a scale, converted once (R215, R216). -/
def fScaled (f : Fmt) (md seed : Nat) (sat : Bool) (x y : FVal) : Conv :=
  let p := mulVal x y
  let c := convert f md seed sat p.1
  { c with flags := c.flags ||| p.2 }

/-- The entry of a codebook nearest to a value, the lower on a tie (R217). `x` is not NaN. -/
def nearestEntry (x : FVal) (cb : Nat → FVal) : Nat :=
  let better (j k : Nat) : Bool :=
    -- entry k beats entry j
    let y := cb j
    let z := cb k
    if z.isNaN then false
    else if y.isNaN then true
    else
      match x with
      | .inf neg => if neg then decide (cmpVal z y < 0) else decide (0 < cmpVal z y)
      | _ =>
        if z.isInf then false
        else if y.isInf then true
        else
          let d (w : FVal) : FVal :=
            match (addVal 0 x w.neg).1 with
            | .fin _ m e => .fin false m e
            | v => v
          decide (cmpVal (d z) (d y) < 0)
  let best := (List.range 16).foldl (fun j k => if better j k then k else j) 0
  if (cb best).isNaN then 0 else best

/-- The mapping of R217 of a value with a maximum: the code, and FIO for a NaN. -/
def mapToCode (md : Nat) (x y : FVal) (cb : Nat → FVal) : Res :=
  if x.isNaN || y.isNaN then (0, fFio)
  else
    let m : FVal := match y with
      | .inf _ => .inf false
      | .fin _ m e => .fin false m e
      | v => v
    let q : FVal :=
      if m.isZero || m.isInf then .fin false 0 0
      else
        match x with
        | .inf n => .inf n
        | v => Fmt.fp32.value (convert .fp32 md 0 false (divVal v m)).code
    (nearestEntry q cb, 0)

/-- `cbq` (R217). -/
def fCbq (md a b : Nat) (cb : Nat → FVal) : Res := mapToCode md (Fmt.fp32.value a) (Fmt.fp32.value b) cb

end Sys2Proof.Machine
end

