-- ==== Sys2Proof/Decode.lean ====
section
/-! DEFINITION. From parcels to instructions and back (R105, R107, R113, R120, R122, R124,
R125). Fields are packed least significant first; `decode` is total on any parcels and
rejects by name; `encode` writes the parcels of an instruction. -/

namespace Sys2Proof

/-! ### Bit fields -/

/-- Packs fields, each given as (width, value), the first in the lowest bits. -/
def packFields : List (Nat × Nat) → Nat
  | [] => 0
  | (w, v) :: rest => v % 2 ^ w + 2 ^ w * packFields rest

/-- Cuts a number into fields of the given widths, the first from the lowest bits. -/
def cutFields : List Nat → Nat → List Nat
  | [], _ => []
  | w :: ws, n => n % 2 ^ w :: cutFields ws (n / 2 ^ w)

def boolBit (b : Bool) : Nat := if b then 1 else 0
def bitBool (n : Nat) : Bool := n == 1

/-- Widths of a lane instruction from bit 0 up to KIND (R113). -/
def laneWidths : List Nat := [32, 2, 4, 1, 1, 1, 5, 1, 4, 8, 8, 8, 8, 9, 1, 1, 2]

/-- The 96 bits of a lane instruction (R113). -/
def laneBits (op : Nat) (f : LaneFields) : Nat :=
  packFields [(32, f.imm.toNat), (2, f.m2.toNat), (4, f.m1.toNat), (1, boolBit f.luc),
    (1, boolBit f.lub), (1, boolBit f.lua), (5, f.ty.toNat), (1, boolBit f.pn), (4, f.pg.toNat),
    (8, f.vc.toNat), (8, f.vb.toNat), (8, f.va.toNat), (8, f.vd.toNat), (9, op),
    (1, boolBit f.fs), (1, boolBit f.hop), (2, 1)]

/-- OP and fields of a lane instruction's 96 bits (R113). -/
def laneOfBits (w : Nat) : Option (Nat × LaneFields) :=
  match cutFields laneWidths w with
  | [imm, m2, m1, luc, lub, lua, ty, pn, pg, vc, vb, va, vd, op, fs, hop, _] =>
    some (op,
      { hop := bitBool hop, fs := bitBool fs, vd := BitVec.ofNat 8 vd, va := BitVec.ofNat 8 va,
        vb := BitVec.ofNat 8 vb, vc := BitVec.ofNat 8 vc, pg := BitVec.ofNat 4 pg,
        pn := bitBool pn, ty := BitVec.ofNat 5 ty, lua := bitBool lua, lub := bitBool lub,
        luc := bitBool luc, m1 := BitVec.ofNat 4 m1, m2 := BitVec.ofNat 2 m2,
        imm := BitVec.ofNat 32 imm })
  | _ => none

/-- The 32 bits of a register-layout scalar instruction (R120). -/
def regBits (op : Nat) (f : ScalarReg) : Nat :=
  packFields [(6, f.fn.toNat), (6, f.sb.toNat), (6, f.sa.toNat), (6, f.sd.toNat), (6, op), (2, 0)]

/-- The 32 bits of an immediate-layout scalar instruction (R120). -/
def immBits (op : Nat) (f : ScalarImm) : Nat :=
  packFields [(12, f.imm.toNat), (6, f.sa.toNat), (6, f.sd.toNat), (6, op), (2, 0)]

/-- The 64 bits of a two-parcel scalar instruction (R120). -/
def longBits (op : Nat) (f : ScalarLong) : Nat :=
  packFields [(32, f.imm.toNat), (12, f.x.toNat), (6, f.sa.toNat), (6, f.sd.toNat), (6, op), (2, 3)]

/-- The 32 bits of a clause header (R107). -/
def headerBits (h : ClauseHeader) : Nat :=
  packFields [(8, h.len.toNat), (1, 0), (1, boolBit h.rgn), (4, h.setb.toNat), (4, h.seta.toNat),
    (12, h.wait.toNat), (2, 2)]

def regOfBits (w : Nat) : ScalarReg :=
  match cutFields [6, 6, 6, 6] w with
  | [fn, sb, sa, sd] => ⟨BitVec.ofNat 6 sd, BitVec.ofNat 6 sa, BitVec.ofNat 6 sb, BitVec.ofNat 6 fn⟩
  | _ => ⟨0, 0, 0, 0⟩

def immOfBits (w : Nat) : ScalarImm :=
  match cutFields [12, 6, 6] w with
  | [imm, sa, sd] => ⟨BitVec.ofNat 6 sd, BitVec.ofNat 6 sa, BitVec.ofNat 12 imm⟩
  | _ => ⟨0, 0, 0⟩

def longOfBits (w : Nat) : ScalarLong :=
  match cutFields [32, 12, 6, 6] w with
  | [imm, x, sa, sd] => ⟨BitVec.ofNat 6 sd, BitVec.ofNat 6 sa, BitVec.ofNat 12 x, BitVec.ofNat 32 imm⟩
  | _ => ⟨0, 0, 0, 0⟩

/-- A clause header, and whether its reserved bit [8] is zero (R107). -/
def headerOfBits (w : Nat) : ClauseHeader × Bool :=
  match cutFields [8, 1, 1, 4, 4, 12] w with
  | [len, z, rgn, setb, seta, wait] =>
    (⟨BitVec.ofNat 12 wait, BitVec.ofNat 4 seta, BitVec.ofNat 4 setb, bitBool rgn,
      BitVec.ofNat 8 len⟩, z == 0)
  | _ => (⟨0, 0, 0, false, 0⟩, false)

/-! ### Opcodes (R122, R123, R124) -/

/-- `drain` by its destination in M1[2:0]; the codes 5 to 7 are refused by `wf` (R123). -/
def drainOf (f : LaneFields) : Instr :=
  match f.m1.toNat % 8 with
  | 1 => .drainPl f
  | 2 => .drainScr f
  | 3 => .drainSlot f
  | 4 => .drainGlb f
  | _ => .drainQ f

/-- `cpy` by its direction in M1[0] (R123). -/
def cpyOf (f : LaneFields) : Instr := if f.m1.getLsbD 0 then .cpyOut f else .cpyIn f

/-- `scrl` by its mode in M1[0] (R123). -/
def scrlOf (f : LaneFields) : Instr := if f.m1.getLsbD 0 then .scrlM f else .scrlF f

/-- The lane opcode map (R122): the first OP value of each run, and its mnemonics in order. -/
def laneMap : List (Nat × List (LaneFields → Instr)) := [
  (0x000, [.add, .sub, .mul, .mulh, .mulw, .mad, .addx, .subx,
    .div, .rem, .abs, .neg, .min, .max, .sad, .and,
    .or, .xor, .not, .shl, .shr, .sra, .rot, .clz,
    .popc, .brev, .bfe, .bfi, .sel, .cmp]),
  (0x040, [.fma, .sqrt, .rcp, .rsq, .exp2, .log2, .sin, .cos,
    .tanh, .classTest, .frnd, .fscl]),
  (0x080, [.cvt, .pack, .unpk, .qnt, .dqnt]),
  (0x0A0, [.shfl, .shfx, .shfd, .shfu, .qx, .vote, .lred, .scan,
    .bcst, .vext, .vins]),
  (0x0C0, [.mov, .movi, .movs, .pset, .pand, .por, .pxor, .pnot,
    .pmov, .lid, .pxy]),
  (0x0E0, [.ldp, .stp, .ldw, .stw, .lds, .sts, .ldg, .stg,
    .prefg]),
  (0x0F0, [.atomAdd, .atomMin, .atomMax, .atomAnd, .atomOr, .atomXor, .atomXchg, .atomCas]),
  (0x0F8, [.redAdd, .redMin, .redMax, .redAnd, .redOr, .redXor]),
  (0x100, [.atomsAdd, .atomsMin, .atomsMax, .atomsAnd, .atomsOr, .atomsXor, .atomsXchg, .atomsCas]),
  (0x108, [.fence, .ofence, .bara, .bars, .barw, .bari, .marm, .mwait,
    .rwr, .await, .arrc, .qtry, .qlen, .qcls, .qput]),
  (0x120, [.oclm, .orel, .mma, .azero, drainOf, .ald]),
  (0x128, [cpyOf, .cpyq]),
  (0x130, [scrlOf]),
  (0x138, [.wgath, .wpool]),
  (0x140, [.gnode, .gsig, .gflag]),
  (0x160, [.asco, .ascp, .ascl, .ascr, .ascf, .ascq]),
  (0x180, [.had32, .cbq, .cbld])]

/-- The lane instruction of an OP value, in the runs of the map. -/
def laneInstrIn : List (Nat × List (LaneFields → Instr)) → Nat → LaneFields → Option Instr
  | [], _, _ => none
  | (base, cs) :: rest, op, f =>
    if base ≤ op then
      match cs[op - base]? with
      | some c => some (c f)
      | none => laneInstrIn rest op f
    else none

/-- The lane instruction of an OP value; none where R122 assigns no mnemonic. -/
def laneInstr (op : Nat) (f : LaneFields) : Option Instr := laneInstrIn laneMap op f

/-- `sys` by its function (R179). -/
def sysOne (i : ScalarImm) : Option Instr :=
  match i.imm.toNat with
  | 0 => some (.sysLaunch i)
  | 1 => some (.sysLstat i)
  | 2 => some (.sysAbort i)
  | _ => none

def sysTwo (l : ScalarLong) : Option Instr :=
  match l.x.toNat with
  | 0 => some (.sysLaunchLong l)
  | 1 => some (.sysLstatLong l)
  | 2 => some (.sysAbortLong l)
  | _ => none

/-- The one-parcel scalar instruction of an OP6 value, with its fields in both layouts (R124). -/
def scalarOne (op : Nat) (r : ScalarReg) (i : ScalarImm) : Option Instr :=
  match op with
  | 0x00 => some (.sadd r)
  | 0x01 => some (.ssub r)
  | 0x02 => some (.smul r)
  | 0x03 => some (.smulh r)
  | 0x04 => some (.sdiv r)
  | 0x05 => some (.srem r)
  | 0x06 => some (.sand r)
  | 0x07 => some (.sor r)
  | 0x08 => some (.sxor r)
  | 0x09 => some (.snor r)
  | 0x0A => some (.sshl r)
  | 0x0B => some (.sshr r)
  | 0x0C => some (.ssra r)
  | 0x0D => some (.smin r)
  | 0x0E => some (.smax r)
  | 0x0F => some (.scmp r)
  | 0x10 => some (.ssel r)
  | 0x11 => some (.smov r)
  | 0x12 => some (.sli i)
  | 0x14 => some (.sclz r)
  | 0x15 => some (.spopc r)
  | 0x16 => some (.sbfe r)
  | 0x17 => some (.sbfi r)
  | 0x18 => some (.sld i)
  | 0x19 => some (.sst i)
  | 0x1A => some (.sldk i)
  | 0x1B => some (.br i)
  | 0x1C => some (.brs i)
  | 0x1E => if i.sd == 0 && i.sa == 0 && i.imm == 0 then some .regang else none
  | 0x1F => some (.call i)
  | 0x20 => some (.ret r)
  | 0x21 => some (.jmpr r)
  | 0x22 => some (.loop i)
  | 0x23 => if i.sd == 0 && i.sa == 0 && i.imm == 0 then some .exit else none
  | 0x24 => if i.sd == 0 && i.sa == 0 && i.imm == 0 then some .nop else none
  | 0x25 => some (.trap i)
  | 0x26 => if i.sd == 0 && i.sa == 0 && i.imm == 0 then some .tret else none
  | 0x27 => some (.brk i)
  | 0x28 => sysOne i
  | 0x29 => if i.sd == 0 && i.sa == 0 && i.imm == 0 then some .fsw else none
  | 0x2A => if i.sd == 0 && i.sa == 0 && i.imm == 0 then some .fbar else none
  | 0x2B => some (.fwait i)
  | 0x2C => some (.xacq i)
  | 0x2D => some (.xrel i)
  | 0x2E => some (.chkerr i)
  | 0x2F => some (.time i)
  | 0x30 => some (.mfs i)
  | 0x31 => some (.mts i)
  | 0x32 => some (.accsv i)
  | 0x33 => some (.accrs i)
  | 0x34 => some (.osv i)
  | 0x35 => some (.orst i)
  | _ => none

/-- The two-parcel scalar instruction of an OP6 value (R124). -/
def scalarTwo (op : Nat) (l : ScalarLong) : Option Instr :=
  match op with
  | 0x00 => some (.saddLong l)
  | 0x01 => some (.ssubLong l)
  | 0x02 => some (.smulLong l)
  | 0x03 => some (.smulhLong l)
  | 0x04 => some (.sdivLong l)
  | 0x05 => some (.sremLong l)
  | 0x06 => some (.sandLong l)
  | 0x07 => some (.sorLong l)
  | 0x08 => some (.sxorLong l)
  | 0x09 => some (.snorLong l)
  | 0x0A => some (.sshlLong l)
  | 0x0B => some (.sshrLong l)
  | 0x0C => some (.ssraLong l)
  | 0x0D => some (.sminLong l)
  | 0x0E => some (.smaxLong l)
  | 0x0F => some (.scmpLong l)
  | 0x10 => some (.sselLong l)
  | 0x12 => some (.sliLong l)
  | 0x13 => some (.slih l)
  | 0x16 => some (.sbfeLong l)
  | 0x17 => some (.sbfiLong l)
  | 0x18 => some (.sldLong l)
  | 0x19 => some (.sstLong l)
  | 0x1A => some (.sldkLong l)
  | 0x1B => some (.brLong l)
  | 0x1C => some (.brsLong l)
  | 0x1D => some (.brv l)
  | 0x1F => some (.callLong l)
  | 0x22 => some (.loopLong l)
  | 0x28 => sysTwo l
  | 0x32 => some (.accsvLong l)
  | 0x33 => some (.accrsLong l)
  | 0x34 => some (.osvLong l)
  | 0x35 => some (.orstLong l)
  | _ => none

/-! ### Decoding -/

/-- What a run of parcels is. -/
inductive Decoded where
  /-- A legal instruction or clause header. -/
  | instr (i : Instr)
  /-- Raises the illegal-encoding trap 0x01 (R125). -/
  | illegal
  /-- An unimplemented extension: 0x02, taken by the firmware (R125, R126). -/
  | extension
  /-- The instruction needs a parcel that is not there. -/
  | short
  deriving DecidableEq, Repr

/-- Accepts a well-formed instruction. -/
def checked (o : Option Instr) : Decoded :=
  match o with
  | some i => if i.wf then .instr i else .illegal
  | none => .illegal

/-- A lane instruction of 96 bits. -/
def decodeLane (w : Nat) : Decoded :=
  match laneOfBits w with
  | some (op, f) =>
    if 0x183 ≤ op ∧ op ≤ 0x1EF then .extension else checked (laneInstr op f)
  | none => .illegal

/-- A one-parcel scalar instruction. -/
def decodeOne (w : Nat) : Decoded :=
  let op := w / 2 ^ 24 % 64
  if 0x38 ≤ op ∧ op ≤ 0x3D then .extension
  else checked (scalarOne op (regOfBits w) (immOfBits w))

/-- A two-parcel scalar instruction. -/
def decodeTwo (w : Nat) : Decoded :=
  let op := w / 2 ^ 56 % 64
  if 0x38 ≤ op ∧ op ≤ 0x3D then .extension else checked (scalarTwo op (longOfBits w))

/-- A clause header. -/
def decodeHeader (w : Nat) : Decoded :=
  if (headerOfBits w).2 then checked (some (.clauseWaitTest (headerOfBits w).1)) else .illegal

/-- Parcels that an instruction with this first parcel has (R105). -/
def parcelCount (p0 : Word) : Nat :=
  match p0.toNat / 2 ^ 30 with
  | 1 => 3
  | 3 => 2
  | _ => 1

/-- Decodes the instruction at the head of a run of parcels, first parcel first (R105). Total:
every run is an instruction or is rejected by name. -/
def decode (ps : List Word) : Decoded :=
  match ps with
  | [] => .short
  | p0 :: rest =>
    match p0.toNat / 2 ^ 30, rest with
    | 0, _ => decodeOne p0.toNat
    | 1, p1 :: p2 :: _ => decodeLane ((p0.toNat * 2 ^ 32 + p1.toNat) * 2 ^ 32 + p2.toNat)
    | 2, _ => decodeHeader p0.toNat
    | 3, p1 :: _ => decodeTwo (p0.toNat * 2 ^ 32 + p1.toNat)
    | _, _ => .short

/-- A parcel from its bytes, little-endian (R9, R105). -/
def parcelOfBytes (b0 b1 b2 b3 : BitVec 8) : Word := b3 ++ b2 ++ b1 ++ b0

/-- Whole parcels of a run of bytes. -/
def parcelsOfBytes : List (BitVec 8) → List Word
  | b0 :: b1 :: b2 :: b3 :: rest => parcelOfBytes b0 b1 b2 b3 :: parcelsOfBytes rest
  | _ => []

/-- Decodes the instruction at the head of a run of bytes. -/
def decodeBytes (bs : List (BitVec 8)) : Decoded := decode (parcelsOfBytes bs)

/-- The bytes of a parcel, lowest address first. -/
def bytesOfParcel (p : Word) : List (BitVec 8) :=
  [p.extractLsb' 0 8, p.extractLsb' 8 8, p.extractLsb' 16 8, p.extractLsb' 24 8]

/-! ### Encoding -/

/-- The parcels of an instruction, first parcel first (R105). A device step has none. -/
def encode (i : Instr) : List Word :=
  match i.form with
  | .lane op f _ =>
    let w := laneBits op f
    [BitVec.ofNat 32 (w / 2 ^ 64), BitVec.ofNat 32 (w / 2 ^ 32), BitVec.ofNat 32 w]
  | .reg op f _ => [BitVec.ofNat 32 (regBits op f)]
  | .imm op f _ => [BitVec.ofNat 32 (immBits op f)]
  | .long op f _ =>
    let w := longBits op f
    [BitVec.ofNat 32 (w / 2 ^ 32), BitVec.ofNat 32 w]
  | .bare op => [BitVec.ofNat 32 (op * 2 ^ 24)]
  | .header h => [BitVec.ofNat 32 (headerBits h)]
  | .step => []

/-- The parcels of a word of the table of operations: bit 0 is bit 0 of the first parcel, and
each later parcel's bits count on from it; bits from `nbits` up are zero. -/
def tableParcels (nbits w : Nat) : List Word :=
  let v := w % 2 ^ nbits
  [BitVec.ofNat 32 v, BitVec.ofNat 32 (v / 2 ^ 32), BitVec.ofNat 32 (v / 2 ^ 64)]

/-- The instruction read from a word of the table of operations. -/
def decodeTableWord (nbits w : Nat) : Option Instr :=
  match decodeBytes ((tableParcels nbits w).flatMap bytesOfParcel) with
  | .instr i => some i
  | _ => none

end Sys2Proof
end

