-- ==== Sys2Proof/Machine/FibreState.lean ====
section
/-! DEFINITION. The state of one fibre (R78 to R98) and of its quads (R18 to R22, R106,
R111, R169). -/

namespace Sys2Proof.Machine

/-- A reconvergence record (R169): the regang point, the fall-through address, the quads that
diverged, the quad's lanes before the branch and its lanes still to run the fall-through path. -/
structure Recon where
  point : VAddr
  fall : VAddr
  members : QuadMask
  mask : LaneMask
  pend : LaneMask
  deriving DecidableEq, Repr

/-- The long waits of R31, and what each waits for. -/
inductive Wait where
  /-- Not waiting. -/
  | none
  /-- Arrived at the `regang` of the topmost record (R170). -/
  | regang
  /-- Issued `tret`, waiting for the handler's other quads (R178). -/
  | tret
  /-- Arrived at `fbar` (R183). -/
  | fbar
  /-- `bars` or `barw` on barrier `n`, until its phase differs from `phase` (R257). -/
  | barrier (n : Nat) (phase : Bool)
  /-- `mwait` into `sd`, issued at `since` with a timeout in ns (R262). -/
  | mwait (sd : Nat) (timeout since : Nat)
  /-- `await` for a count of arrivals (R265). -/
  | arrivals (n : Nat)
  /-- `fwait` or a clause header, until the flags of the mask are clear (R108, R184). -/
  | flags (mask : BitVec 12)
  /-- A blocking pop from a queue (R89). -/
  | pop (q : Nat)
  /-- A blocking push to a queue (R89). -/
  | push (q : Nat)
  /-- A blocked `xacq` (R186): its first unit, count and predicate, and when it blocked. -/
  | xacq (first count pred : Nat) (order : Nat)
  /-- A stalled instruction, issued again when it may proceed (R32). -/
  | stall
  /-- A held `exit` of a lead or trail (R459). -/
  | heldExit
  /-- Entered a handler; its first instruction has yet to issue (R351). -/
  | entering
  /-- Left a handler; the fibre has yet to resume (R178). -/
  | resuming
  /-- A copy of a pair at a region start, until it is known whether the pair takes a checkpoint
  there (R443). -/
  | checkpoint
  deriving DecidableEq, Repr

/-- A quad: the smallest unit that owns a program counter (R18). -/
structure Quad where
  pc : VAddr
  /-- Its active lanes, as bits of the fibre's 64. -/
  active : LaneMask
  /-- Region start: the last header with RGN = 1 that it issued (R111). -/
  region : VAddr
  /-- Its lanes at the region start, and its records there, for a restart. -/
  regionActive : LaneMask
  regionStack : List Recon
  stack : List Recon
  wait : Wait
  ended : Bool
  /-- It stands inside a clause whose header was at `header` and whose last parcel ends at
  `clauseEnd` (R106). -/
  inClause : Bool
  header : VAddr
  clauseEnd : VAddr
  seta : BitVec 4
  setb : BitVec 4
  /-- The next instruction is the clause's first (R110). -/
  first : Bool
  /-- A non-idempotent instruction has issued in this clause (R111). -/
  tail : Bool
  /-- The next header must have RGN = 1 (R111). -/
  mustRgn : Bool
  /-- Its long wait may end: the instruction that waited is tried again, before any scroll trap
  (R31, R146). -/
  again : Bool
  deriving DecidableEq, Repr

/-- A quad that is switched off or has ended. -/
def Quad.off : Quad :=
  { pc := 0, active := 0, region := 0, regionActive := 0, regionStack := [], stack := [],
    wait := .none, ended := true, inClause := false, header := 0, clauseEnd := 0, seta := 15,
    setb := 15, first := false, tail := false, mustRgn := false, again := false }

/-- A running user handler (R351): the cause, the quads it started with, their saved state. -/
structure Handler where
  cause : BitVec 8
  quads : QuadMask
  saved : Tab Quad
  /-- Where the fibre resumes (R178). -/
  resume : VAddr
  /-- The saved quads resume inside their clause. -/
  inClause : Bool
  deriving DecidableEq, Repr

/-- Whether a fibre issues. -/
inductive Run where
  | running
  /-- Frozen for a cause that firmware serves (R34, R377), or by a double fault (R354). -/
  | frozen (cause : BitVec 8)
  /-- Stopped for a debugger (R383). -/
  | stopped
  | exited
  deriving DecidableEq, Repr

/-- The monitor of a fibre (R261): the physical line, the scope, whether it triggered. -/
structure Monitor where
  line : Nat
  scope : Nat
  /-- A write to the line has been performed (R261). -/
  written : Bool
  triggered : Bool
  deriving DecidableEq, Repr

/-- A value for each lane, in ascending lane index; an empty list stands for zeros. (DEDUCED: log entry 25) -/
abbrev LaneVec := List PX

/-- A special-function entry of `q12` (R207): function OP, type, rounding mode, operands, the
participating lanes, and the flag that the push selected. -/
structure SfuEntry where
  op : Nat
  ty : Nat
  md : Nat
  args : LaneVec
  lanes : LaneMask
  flag : Option Nat
  deriving DecidableEq, Repr

/-- A special-function result of `q13`, with the exception bits of its computation (R207, R235). -/
structure SfuResult where
  vals : LaneVec
  /-- Lanes in which an exception arose, by `CHKI` bit 4 to 8. -/
  raised : List (LaneMask × BitVec 32)
  deriving DecidableEq, Repr

/-- An engine command (R274, R278): its fields, the scalar operands and the format word read at
issue, the flag it selected, its number and its node. -/
structure Command where
  op : Nat
  m1 : Nat
  vd : Nat
  va : Nat
  vb : Nat
  vc : Nat
  imm : Nat
  /-- The scalar operand or descriptor registers. -/
  desc : List DWord
  word : BitVec 32
  flag : Option Nat
  cseq : Nat
  node : Option Nat
  pc : VAddr
  /-- The slots of this `mma` hold rows that no `ofence` covered (R255). -/
  uncovered : Bool
  deriving DecidableEq, Repr

/-- A row of `q4` on its way to its slot (R284), with the `ofence` that covers it (R255). -/
structure FillRow where
  slot : Nat
  row : Nat
  vals : LaneVec
  deriving DecidableEq, Repr

/-- Why a flag is busy (R90): an access that has been performed and has yet to complete, or a
rip that lasts until its ascent is done or grounded (R314). -/
inductive PendingOp where
  | access (flag : Nat)
  | rip (flag : Nat) (ascent : BitVec 64)
  deriving DecidableEq, Repr

/-- The engine queues of a fibre: commands, completion records, records held back (R86, R277). -/
structure EngineQueues where
  cmds : Tab (List Command)
  recs : Tab (List DWord)
  /-- A record that waits for room, with the flag that stays busy until it has entered. -/
  held : Tab (List (DWord × Option Nat))
  cseq : Tab Nat
  /-- Commands of the fibre that have not ended, by engine. -/
  outstanding : Tab Nat
  deriving DecidableEq, Repr

/-- The lane queues of a fibre (R86). -/
structure LaneQueues where
  q4 : List FillRow
  q5 : List LaneVec
  q12 : List SfuEntry
  q13 : List SfuResult
  /-- A computed result that waits for room in `q13`, with its flag (R207). -/
  sfuHeld : Option (SfuResult × Option Nat)
  /-- The fill cursor (R284). -/
  cursor : Option (Nat × Nat)
  /-- Slots with pushed rows that no `ofence` of the fibre covers (R255). -/
  uncovered : List Nat
  deriving DecidableEq, Repr

/-- The special registers and marks of a fibre (R91 to R98). -/
structure FibreRegs where
  chki : BitVec 32
  satc : BitVec 32
  sprog : DWord
  arrivals : BitVec 16
  rseed : Tab Word
  trapCause : BitVec 8
  trapPc : VAddr
  trapLanes : LaneMask
  dead : LaneMask
  deriving DecidableEq, Repr

/-- Where a result that a pair's compare logic delivers goes (R442). -/
inductive OwedDest where
  | nothing
  | scalar (n : Nat)
  /-- The result of an `ascr`, whose flag lasts while the ascent rips (R314). -/
  | ripped (n : Nat) (ascent : BitVec 64)
  | reg (n : Nat) (pair : Bool)
  | queue (n : Nat)
  deriving DecidableEq, Repr

/-- A result that is owed to a copy of a pair (R442): the values known so far by lane, the lanes
whose values are to come, the flag that stays busy. -/
structure Owed where
  dest : OwedDest
  vals : List (Nat × PX)
  lanes : List Nat
  flag : Option Nat
  deriving DecidableEq, Repr

/-- The register files of a fibre (R78). -/
structure RegFile where
  /-- Scalar registers, by number. -/
  s : Tab PX
  /-- Lane registers: register r of lane i stands at 64 r + i. -/
  v : Tab PW
  /-- Predicates, by number. -/
  p : Tab LaneMask
  /-- Handler registers, as `v`. -/
  h : Tab PW
  /-- Held extended units (R81). -/
  units : BitVec 12
  deriving DecidableEq, Repr

/-- A scroll trap that waits for its stop point (R146): the `scrl` it names. -/
structure ScrollTrap where
  pc : VAddr
  deriving DecidableEq, Repr

/-- One fibre. -/
structure Fibre where
  /-- Block table entry of its block on the core. -/
  block : Nat
  /-- `SLOT` and `FIBRE` (R91). -/
  bslot : Nat
  index : Nat
  regs : RegFile
  sys : FibreRegs
  eq : EngineQueues
  lq : LaneQueues
  /-- Flag counts `f0` to `f11` (R90). -/
  flags : Tab Nat
  /-- Operations that have been performed and have yet to complete, oldest first. -/
  ops : List PendingOp
  quads : Tab Quad
  /-- Helper lanes, and every lane that executes at all (R25, R26). -/
  helpers : LaneMask
  present : LaneMask
  run : Run
  /-- The quads of the gang whose cause firmware serves (R379), and the second cause of a double
  fault (R354). -/
  frozenQuads : QuadMask
  second : BitVec 8
  handler : Option Handler
  /-- An error awaits the fibre's next lane addition or multiplication: its residue matches at the
  retry, or not (R434, R435). -/
  residue : Option Bool
  /-- A breakpoint is not checked at the next issue (R383). -/
  skipBreak : Bool
  /-- The fibre stops before its next issue, with this reason and number (R383); reason 2
  while a step is in progress, whose quads still to issue are `stepping` (R384). -/
  stopSoon : Option Nat
  stepping : QuadMask
  scrollTrap : Option ScrollTrap
  monitor : Option Monitor
  /-- Age (R398) and cycles stalled without `hop` (R31). -/
  age : Nat
  stall : Nat
  /-- The fibre has arrived at the slot barrier (R183). -/
  fbarArrived : Bool
  /-- In a pair: results that its compare logic owes the fibre, oldest first (R442); region
  starts passed (R443); the next region start is passed without a test (R443). -/
  owed : List Owed
  regions : Nat
  passStart : Bool
  deriving DecidableEq, Repr

def EngineQueues.empty : EngineQueues :=
  { cmds := [], recs := [], held := [], cseq := [], outstanding := [] }

def LaneQueues.empty : LaneQueues :=
  { q4 := [], q5 := [], q12 := [], q13 := [], sfuHeld := none, cursor := none, uncovered := [] }

def FibreRegs.start : FibreRegs :=
  { chki := 0, satc := 0, sprog := 0, arrivals := 0, rseed := [], trapCause := 0, trapPc := 0,
    trapLanes := 0, dead := 0 }

/-- Start values of R78; `p0`, `p15` and `s1` are set at placement. -/
def RegFile.start : RegFile := { s := [], v := [], p := [], h := [], units := 0 }

/-- No fibre: what an unlisted slot position holds. -/
def Fibre.absent : Fibre :=
  { block := 0, bslot := 0, index := 0, regs := RegFile.start, sys := FibreRegs.start,
    eq := EngineQueues.empty, lq := LaneQueues.empty, flags := [], ops := [], quads := [],
    helpers := 0, present := 0, run := .exited, frozenQuads := 0, second := 0, handler := .none, residue := .none, skipBreak := false,
    stopSoon := .none, stepping := 0, scrollTrap := .none, monitor := .none, age := 0, stall := 0,
    fbarArrived := false, owed := [], regions := 0, passStart := false }

end Sys2Proof.Machine
end

