-- ==== Sys2Proof/Machine/CoreState.lean ====
section
/-! DEFINITION. The state of one core site: slots, blocks, cells, operand slots, accumulator
tiles, engines and system registers (R31, R38, R281, R288, R376, R396). -/

namespace Sys2Proof.Machine

/-- Node states (R306). -/
inductive NodeState where
  | free | waiting | launched
  deriving DecidableEq, Repr

/-- A dependence-graph node (R305, R306): its state, predecessor count, successors, command with
its engine and fibre (engine 3 for `gnode`), and the flags bound to it (fibre, flag). -/
structure Node where
  state : NodeState
  count : Nat
  succ : List Nat
  cmd : Option (Nat × Nat × Command)
  bindings : List (Nat × Nat)
  deriving DecidableEq, Repr

def Node.free : Node := { state := .free, count := 0, succ := [], cmd := none, bindings := [] }

/-- STATE of a block table entry (R396). -/
inductive BlockStage where
  | empty | running | parking | parked | saving | saved | restoring
  deriving DecidableEq, Repr

/-- What kind of work a block does (R314, R315, R438). -/
inductive BlockRole where
  | ordinary
  | lead (pair : Nat)
  | trail (pair : Nat)
  /-- A compensation block: its ascent and entry, and the code of an `ascf` (R314, R315). -/
  | compensation (ascent : BitVec 64) (seq : DWord) (failed : Option (BitVec 16))
  /-- An owner block of an ascent (R365). -/
  | owner (ascent : BitVec 64)
  deriving DecidableEq, Repr

/-- A lead or a trail. -/
def BlockRole.paired : BlockRole → Bool
  | .lead _ => true
  | .trail _ => true
  | _ => false

/-- A resident block: its block table entry (R396), what its bind records hold for all its slots
(R395), and its nodes. -/
structure Block where
  stage : BlockStage
  busy : Bool
  part : Nat
  lid : BitVec 32
  bx : Nat
  by' : Nat
  cx : Nat
  cy : Nat
  snap : Nat
  save : Nat
  srows : Nat
  acc : Bool
  slot0 : Nat
  slots : Nat
  fibres : Nat
  rbase : Nat
  pdepth : Nat
  scrb : Nat
  /-- Shared-window units: first and count (R35). -/
  winBase : Nat
  winCnt : Nat
  role : BlockRole
  nodes : Tab Node
  /-- A migration or pre-emption that waits for handlers (R355, R409): cycles since the request. -/
  parkSince : Nat
  /-- It was parked by a pre-emption, and stays parked after a migration; a pre-emption that waits for
  the end of a migration (R408, R409). -/
  preempted : Bool
  preemptLater : Bool
  deriving DecidableEq, Repr

def Block.absent : Block :=
  { stage := .empty, busy := false, part := 0, lid := 0, bx := 0, by' := 0, cx := 0, cy := 0,
    snap := 0, save := 0, srows := 0, acc := false, slot0 := 0, slots := 0, fibres := 0,
    rbase := 0, pdepth := 0, scrb := 0, winBase := 0, winCnt := 0, role := .ordinary, nodes := [], parkSince := 0,
    preempted := false, preemptLater := false }

/-- One issue slot (R31): its current fibre, a switch that takes effect in the next cycle, its
shared queues and closed bits (R86, R268), its shared window registers (R35). -/
structure Slot where
  bound : Bool
  block : Nat
  current : Nat
  /-- Switches to this fibre in the cycle after the moment (R31). -/
  switchTo : Option Nat
  /-- The switch takes the present cycle: the slot does not issue in it (R31). -/
  switching : Bool
  queues : Tab (List LaneVec)
  closed : BitVec 4
  /-- Register r of lane i stands at 64 r + i, as in a fibre. -/
  window : Tab PW
  deriving DecidableEq, Repr

def Slot.absent : Slot :=
  { bound := false, block := 0, current := 0, switchTo := .none, switching := false, queues := [], closed := 0,
    window := [] }

/-- A command that an engine has accepted (R274, R289). -/
structure Accepted where
  /-- The order of acceptance on the core. -/
  seq : Nat
  fib : Nat
  cmd : Command
  /-- Entries that a `drain.q` has pushed. -/
  progress : Nat
  /-- Held for firmware: an emulated pair (R380) or a residue failure (R436). -/
  held : Bool
  /-- A sampled `mma` of the auditor (R446). -/
  sampled : Bool
  /-- Another command has the tile of this `drain` in flight (R289). -/
  undefinedRead : Bool
  /-- An injected error: the entry of the result, and the bits it flips (R458). -/
  alter : Option (Nat × BitVec 32) := none
  deriving DecidableEq, Repr

/-- The scroll that a fibre's part of the engine performs (R142). -/
structure ScrollRun where
  cmd : Command
  /-- Next row to perform. -/
  row : Nat
  /-- NREC as read from the spill header; none until it has been read (R143). -/
  nrec : Option Nat
  holes : Nat
  /-- A hole was met (R140). -/
  holeSeen : Bool
  /-- The physical spill buffer, as runs of (address, bytes); another agent has written it (R369). -/
  spill : List (Nat × Nat)
  dirty : Bool
  /-- The end status, once the scroll has ended. -/
  status : Option Nat
  deriving DecidableEq, Repr

/-- The carry store of a fibre (R145): the ticket, and the words kept, by plane position
(x, y, depth). -/
structure Carry where
  ticket : BitVec 32
  words : List ((Nat × Nat × Nat) × PW)
  deriving DecidableEq, Repr

/-- An event record that waits to enter the event queue (R377). -/
structure HeldEvent where
  cause : Nat
  unh : Bool
  fib : Nat
  slotIdx : Nat
  ctx : BitVec 16
  pc : VAddr
  lanes : LaneMask
  detail : DWord
  deriving DecidableEq, Repr

/-- The engines of a core (R274). -/
structure Engines where
  /-- Commands that the matrix engine has accepted, oldest first. -/
  matrix : List Accepted
  /-- Copies in flight (R297). -/
  copies : List Accepted
  /-- By fibre: the scroll being performed. -/
  scrolls : Tab (Option ScrollRun)
  /-- By fibre: the pooling command being performed. -/
  pools : Tab (Option Accepted)
  carry : Tab (Option Carry)
  /-- `mma` commands counted for sampling, by launch (R446). -/
  auditCount : Tab Nat
  /-- Commands accepted so far. -/
  nextSeq : Nat
  deriving DecidableEq, Repr

/-- The local memories of a core. -/
structure CoreMem where
  /-- Plane memory: word at depth d of cell i stands at 4096 i + d (R38, R39). -/
  cells : Tab PW
  /-- Operand slots: byte b of slot n stands at 4352 n + b (R281). -/
  slotBytes : Tab (BitVec 8)
  /-- Poisoned 32-byte granules of the slots, by byte address div 32 (R357). -/
  slotPoison : Tab Bool
  /-- Claims: block table entry + 1 of the owner of a slot, 0 for none (R281). -/
  claims : Tab Nat
  /-- Slots whose release is deferred (R283). -/
  releasing : List Nat
  /-- Accumulator tiles: entry (m, n) of tile t stands at 4096 t + 64 m + n; tiles 16 and 17 are
  the audit pair (R288). -/
  tiles : Tab PW
  /-- Quarter marks (R288). -/
  marks : BitVec 18
  /-- Codebooks: entry x of codebook c stands at 16 c + x (R64, R300). -/
  codebooks : Tab (BitVec 16)
  deriving DecidableEq, Repr

/-- The system register block of a core (R376, R382, R445, R452, R456, R458). -/
structure CoreRegs where
  corectl : DWord
  /-- `CORESTAT` bits: FACTERR, EVFULL, SUSPECT. -/
  facterr : Bool
  evfull : Bool
  suspect : Bool
  evqbase : DWord
  evqtail : DWord
  evqhead : DWord
  fxaddr : DWord
  fxbusy : Bool
  fxresult : BitVec 3
  dbgctl : DWord
  /-- `IBKA0` to `IBKA3`, `DWA0` to `DWA3`. -/
  ibka : Tab DWord
  dwa : Tab DWord
  engsel : DWord
  /-- The 64-bit word that `ENGDATA` reaches next: it starts at the index of `ENGSEL` (R376). -/
  engIndex : Nat
  /-- `SLOTBIND0` to `SLOTBIND15` (R395). -/
  slotbind : Tab DWord
  /-- 0x300 and 0x308 (R445), as fields. -/
  peer : BitVec 16
  role : BitVec 2
  matched : BitVec 32
  reruns : BitVec 16
  ckpts : BitVec 16
  /-- 0x500 and 0x508 (R458). -/
  inject : DWord
  injectMask : BitVec 32
  deriving DecidableEq, Repr

/-- The in-field scan of a core (R452): STATE, ABORTED and SIG. -/
structure Scan where
  state : BitVec 2
  aborted : Bool
  sig : BitVec 32
  deriving DecidableEq, Repr

/-- One core site. -/
structure CoreState where
  /-- The configuration record enables the site (R4); a removal clears it (R453). -/
  enabled : Bool
  /-- Hole lanes (R25). -/
  holes : LaneMask
  slots : Tab Slot
  fibres : Tab Fibre
  blocks : Tab Block
  mem : CoreMem
  eng : Engines
  regs : CoreRegs
  scan : Scan
  /-- Lifetime counters at 0x800 + 8 k (R456). -/
  life : Tab DWord
  /-- Idle counts of the nine target classes (R398). -/
  idle : Tab Nat
  /-- Events that wait for room in the queue, oldest first, and the next EVSEQ (R377). -/
  heldEvents : List HeldEvent
  evseq : BitVec 16
  /-- The order number that the next blocked `xacq` takes (R186). -/
  xacqOrder : Nat
  deriving DecidableEq, Repr

def Engines.empty : Engines :=
  { matrix := [], copies := [], scrolls := [], pools := [], carry := [], auditCount := [],
    nextSeq := 0 }

def CoreMem.empty : CoreMem :=
  { cells := [], slotBytes := [], slotPoison := [], claims := [], releasing := [], tiles := [],
    marks := 0, codebooks := [] }

def CoreRegs.reset : CoreRegs :=
  { corectl := 0, facterr := false, evfull := false, suspect := false, evqbase := 0, evqtail := 0,
    evqhead := 0, fxaddr := 0, fxbusy := false, fxresult := 0, dbgctl := 0, ibka := [], dwa := [],
    engsel := 0, engIndex := 0, slotbind := [], peer := 0, role := 0, matched := 0, reruns := 0, ckpts := 0, inject := 0,
    injectMask := 0 }

/-- A core site after reset. (DESIGN CHOICE: log entries 6, 81) -/
def CoreState.reset : CoreState :=
  { enabled := false, holes := 0, slots := [], fibres := [], blocks := [], mem := CoreMem.empty,
    eng := Engines.empty, regs := CoreRegs.reset, scan := ⟨0, false, 0⟩, life := [], idle := [],
    heldEvents := [], evseq := 0, xacqOrder := 0 }

end Sys2Proof.Machine
end

