-- ==== Sys2Proof/Machine/DeviceState.lean ====
section
/-! DEFINITION. The state of the device outside the cores: launches, partitions, translation,
ascents, pairs, auditor, links, power, boot and attestation (R310, R385 to R393, R399, R412 to
R430, R438 to R450, R464 to R474). -/

namespace Sys2Proof.Machine

/-- A launch parameter block: its sixteen words (R385). -/
abbrev ParamBlock := List DWord

/-- How a launch stands (R179, R393). -/
inductive LaunchStage where
  | queued | running | ended
  deriving DecidableEq, Repr

/-- How a launch ends (R393): END, ABCODE, and the fault fields. -/
structure EndInfo where
  endCode : Nat
  abcode : BitVec 16
  blockX : Nat
  blockY : Nat
  slot : Nat
  fibre : Nat
  cause : BitVec 8
  cause2 : BitVec 8
  pc : VAddr
  lanes : LaneMask
  deriving DecidableEq, Repr

/-- An accepted launch. -/
structure Launch where
  lid : BitVec 32
  part : Nat
  queue : Nat
  /-- The address it was submitted from (R180), and the context (R375). -/
  address : BitVec 64
  ctx : BitVec 16
  level1 : Bool
  params : ParamBlock
  prio : Nat
  stage : LaunchStage
  submitted : Nat
  /-- Priority steps gained by waiting (R391). -/
  aged : Nat
  /-- Blocks placed so far, in the order of R392; pairs used. -/
  placed : Nat
  ended : Nat
  chki : BitVec 32
  deadLanes : Nat
  tstart : DWord
  tend : DWord
  ending : Option EndInfo
  /-- The completion record has been written (R393). -/
  recorded : Bool
  /-- Tables read when the first block was placed (R388): buffer records by index, trap table
  entries by cause, fibre entries by 4 s + f. -/
  bufrecs : Tab (BitVec 320)
  traps : Tab DWord
  entries : Tab DWord
  /-- Words that the loader places in the plane: position, depth, value (R133). -/
  planeinit : List ((Nat × Nat × Nat) × Word)
  /-- Ascents it opened, and ascents into which it pushed (R318, R363). -/
  opened : List (BitVec 64)
  pushed : List (BitVec 64)
  deriving DecidableEq, Repr

/-- A launch queue (R389, R390): ids in order of acceptance, the count, the doorbell status. -/
structure LaunchQueue where
  ids : List (BitVec 32)
  count : Nat
  full : Bool
  rej : Bool
  code : BitVec 8
  last : BitVec 32
  deriving DecidableEq, Repr

def LaunchQueue.empty : LaunchQueue :=
  { ids := [], count := 0, full := false, rej := false, code := 0, last := 0 }

/-- A partition (R429): what firmware assigns to it. -/
structure Partition where
  clusters : List Nat
  /-- Memory: (die, first DOFS, bytes). -/
  memory : List (Nat × Nat × Nat)
  /-- Devices whose windows it has been granted (R430). -/
  devices : List Nat
  compPool : List Nat
  auditHosts : List Nat
  quota : Nat
  ageing : Nat
  lastServed : Nat
  queues : Tab LaunchQueue
  /-- Fault queue: records of 32 bytes, oldest first, and the next token (R420). -/
  faults : List (BitVec 256)
  nextToken : Nat
  auditLog : List Nat
  deriving DecidableEq, Repr

def Partition.absent : Partition :=
  { clusters := [], memory := [], devices := [], compPool := [], auditHosts := [], quota := 0,
    ageing := 100000000, lastServed := 63, queues := [], faults := [], nextToken := 0,
    auditLog := [] }

/-- A waiter on a failed page (R420, R421). -/
inductive FaultWaiter where
  | fibre (core fib : Nat)
  | engine (core fib : Nat)
  deriving DecidableEq, Repr

/-- An open translation fault: partition, token, context, page, reason, waiters (R420). -/
structure PageFault where
  part : Nat
  token : Nat
  asid : BitVec 16
  page : Nat
  reason : Nat
  waiters : List FaultWaiter
  deriving DecidableEq, Repr

/-- A TLB entry (R418): context, first page, log2 of its size, frame address, permission, poison
on read, home die. -/
structure TlbEntry where
  asid : BitVec 16
  base : Nat
  lsize : Nat
  frame : Nat
  w : Bool
  por : Bool
  home : Nat
  deriving DecidableEq, Repr

/-- An invalidation command in progress (R419). -/
structure Invalidation where
  kind : Nat
  asid : BitVec 16
  base : Nat
  lsize : Nat
  deriving DecidableEq, Repr

/-- Address translation: a TLB for each core and die, and the command in progress (R418, R419). -/
structure Translation where
  coreTlb : Tab (List TlbEntry)
  dieTlb : Tab (List TlbEntry)
  /-- Handle-cache entries: (context, index, the four words). -/
  handleCache : List (BitVec 16 × Nat × List DWord)
  inv : Option Invalidation
  faults : List PageFault
  /-- Replies to DMA requests, oldest first; none is a completer abort (R463). -/
  dmaReplies : List (Option (List (BitVec 8)))
  deriving DecidableEq, Repr

/-- Registers of one die (R419, R427, R450). -/
structure DieRegs where
  ctxbase : DWord
  invva : DWord
  invcmd : DWord
  audbase : DWord
  audsize : BitVec 16
  mismatch : BitVec 32
  sampled : BitVec 32
  /-- HBM5 error counts: (stack, channel) at 64 k + c, corrected and uncorrectable (R456). -/
  hbmCorrected : Tab DWord
  hbmBad : Tab DWord
  /-- Fabric clock in MHz, and a change that waits for a link (R410). -/
  fabricMhz : Nat
  pendingMhz : Option Nat
  powered : Bool
  deriving DecidableEq, Repr

def DieRegs.reset : DieRegs :=
  { ctxbase := 0, invva := 0, invcmd := 12, audbase := 0, audsize := 0, mismatch := 0,
    sampled := 0, hbmCorrected := [], hbmBad := [], fabricMhz := 0, pendingMhz := none,
    powered := false }

/-- A tether port or die-to-die link (R410, R464, R465). -/
structure Link where
  en : Bool
  wreq : BitVec 2
  role : BitVec 3
  state : BitVec 3
  width : BitVec 2
  peer : BitVec 11
  replays : BitVec 16
  crcerr : BitVec 32
  /-- Replays of the flit in front, failed retrainings, a width request that has not begun. -/
  flitReplays : Nat
  failures : Nat
  pending : Option (BitVec 2)
  deriving DecidableEq, Repr

def Link.reset : Link :=
  { en := false, wreq := 0, role := 0, state := 0, width := 0, peer := 0, replays := 0,
    crcerr := 0, flitReplays := 0, failures := 0, pending := none }

/-- A cluster: power registers (R399), class pool (R402), migration (R408). -/
structure Cluster where
  pacnt : BitVec 32
  refill : BitVec 16
  pacap : BitVec 32
  step : BitVec 16
  thi : BitVec 32
  wheld : BitVec 32
  cls : Nat
  moving : Option Nat
  /-- The cluster to which its blocks are being migrated (R408). -/
  migrating : Option Nat
  /-- The refill of the present cycle has been made. -/
  refilled : Bool
  deriving DecidableEq, Repr

def Cluster.reset : Cluster :=
  { pacnt := 0, refill := 0, pacap := 0, step := 1, thi := 0, wheld := 0, cls := 0,
    moving := none, migrating := none, refilled := false }

/-- States of an ascent (R311, R316). -/
inductive AscentStage where
  | opened | landed | ripping | grounded | done
  deriving DecidableEq, Repr

/-- A ballast entry (R313), with the launch whose tables it runs with. -/
structure BallastEntry where
  seq : DWord
  fn : DWord
  a0 : DWord
  a1 : DWord
  die : Nat
  part : Nat
  lid : BitVec 32
  deriving DecidableEq, Repr

/-- An entry of the ascent table (R310), newest ballast entry first. -/
structure Ascent where
  generation : Nat
  stage : AscentStage
  handler : DWord
  part : Nat
  /-- The launch that opened it. -/
  lid : BitVec 32
  stack : List BallastEntry
  /-- Order in which it closed, for reuse (R310). -/
  closed : Nat
  /-- Each `ascl` that waits for audits: (core, fib, destination) (R372). -/
  heldLands : List (Nat × Nat × Nat)
  deriving DecidableEq, Repr

def Ascent.absent : Ascent :=
  { generation := 0, stage := .landed, handler := 0, part := 0, lid := 0, stack := [],
    closed := 0, heldLands := [] }

/-- The ascent table and what runs for it. -/
structure Ascents where
  table : Tab Ascent
  nextSeq : DWord
  closeCount : Nat
  /-- The block of the compensation that runs: (core, entry of the block table) (R314). -/
  running : Option (Nat × Nat)
  deriving DecidableEq, Repr

/-- One run of bytes to be written at a physical address. Where `keep` is not empty, the bits it
sets in each byte keep their old value (R247). -/
structure Put where
  addr : Nat
  bytes : List (BitVec 8)
  keep : List (BitVec 8)
  poison : Bool
  deriving DecidableEq, Repr

/-- A release record of a 128-byte line (R253): core, die, device, slot, fibre, scope. -/
structure Release where
  core : Nat
  die : Nat
  device : Nat
  slot : Nat
  fibre : Nat
  scope : Nat
  deriving DecidableEq, Repr

/-- What a write does to the release records of its lines (R253). -/
inductive ReleaseAction where
  | keep
  | clear
  | mark (r : Release)
  deriving DecidableEq, Repr

/-- An atomic of one lane at a physical address (R251): operation, type code, operands; what it does
to the release record; the scope of a checked acquire. -/
structure AtomicOp where
  op : Nat
  ty : Nat
  addr : Nat
  /-- The page has poison-on-read set (R241). -/
  por : Bool
  b : Nat
  c : Nat
  action : ReleaseAction
  acquire : Option Nat
  deriving DecidableEq, Repr

/-- An operation that a pair performs once, when its two entries match (R442). -/
inductive OnceOp where
  | atomic (a : AtomicOp)
  | open' (handler : DWord)
  | push (id fn a0 a1 : DWord)
  | land (id : DWord)
  | ripAll (id : DWord)
  | launch (address : DWord) (queue : Nat)
  deriving DecidableEq, Repr

/-- A compare-buffer entry (R440, R460): the relative fibre that placed it, the signature, and what
its release does. -/
structure CompareEntry where
  fib : Nat
  sig : DWord
  puts : List Put
  action : ReleaseAction
  once : Option OnceOp
  deriving DecidableEq, Repr

/-- What a value on its way to the trail is for (R439): a value that an instruction or engine reads,
the result of an operation performed once, a completion record of an engine. -/
inductive ForwardKind where
  | value
  | engine (e : Nat)
  | once
  | record (e : Nat)
  deriving DecidableEq, Repr

/-- An entry of the load value queue (R439): the relative fibre and the values. -/
structure Forwarded where
  fib : Nat
  kind : ForwardKind
  vals : List PX
  deriving DecidableEq, Repr

/-- What a block save area holds beyond the bytes whose layout the spec gives (R406): the entry, the
scrolls, pooling commands and carries by relative fibre, and the words of cells and tiles for their
poison. -/
structure SavedBlock where
  block : Block
  scrolls : Tab (Option ScrollRun)
  pools : Tab (Option Accepted)
  carry : Tab (Option Carry)
  cells : Tab PW
  tiles : Tab PW
  window : Tab PW
  queues : List (Nat × Tab (List LaneVec))
  deriving DecidableEq, Repr

/-- One copy's checkpointed state (R443): fibres by relative fibre, scratch words by cell and depth from
the block's scratch, claimed slots with their bytes, tiles and marks, shared windows and queues of the
block's slots, nodes. -/
structure CopySnapshot where
  fibres : Tab Fibre
  cells : Tab PW
  claims : List Nat
  slotBytes : Tab (BitVec 8)
  slotPoison : Tab Bool
  tiles : Tab PW
  marks : BitVec 18
  slots : Tab Slot
  nodes : Tab Node
  deriving DecidableEq, Repr

/-- A lead and trail pair (R438 to R445). -/
structure Pair where
  lead : Nat × Nat
  trail : Nat × Nat
  leadBuf : List CompareEntry
  trailBuf : List CompareEntry
  /-- Entries matched since the last checkpoint, by relative fibre. -/
  index : Tab Nat
  /-- Load values on their way to the trail, oldest first, and those that have reached it (R439). -/
  lvq : List Forwarded
  ready : List Forwarded
  snap : List CopySnapshot
  lastCkpt : Nat
  forced : Bool
  /-- A checkpoint or restore is in progress (R461). -/
  busy : Bool
  restoring : Bool
  /-- The relative fibre and index that mismatched since the last checkpoint (R444). -/
  mismatched : Option (Nat × Nat)
  interval : Nat
  slack : Nat
  deriving DecidableEq, Repr

/-- A record of the audit log (R447). -/
structure AuditRecord where
  part : Nat
  core : Nat
  lid : BitVec 32
  word : BitVec 32
  /-- Bytes of the slots read, A then B, and the tile before. -/
  slotsA : List (BitVec 8 × Bool)
  slotsB : List (BitVec 8 × Bool)
  tile : List PW
  tile2 : List PW
  crc : DWord
  /-- Selects the free values that the product took (R286). -/
  free : Nat
  deriving DecidableEq, Repr

/-- Boot phases (R469, R470). -/
inductive BootPhase where
  | off | running | recovery
  deriving DecidableEq, Repr

/-- One copy of the configuration record (R470), as far as rules read it. -/
structure ConfigRecord where
  signatureOk : Bool
  /-- Disabled sites, and hole lanes by site. -/
  disabled : List Nat
  holes : List (Nat × LaneMask)
  endpoint : Bool
  diagnostics : Bool
  scanSig : BitVec 32
  /-- Width of the torus and `DEVICE` of this package (R466). -/
  torusW : Nat
  torusH : Nat
  device : Nat
  deriving DecidableEq, Repr

/-- Records of the life log (R457). -/
inductive LifeRecord where
  | counters (time : DWord) (boots : Nat) (cores : List (Nat × Tab DWord))
      (banks : List (Nat × Tab DWord × Tab DWord))
  | removal (site : Nat)
  | trip (time : DWord)
  deriving DecidableEq, Repr

/-- The serial flash and the measurement registers (R470, R471). -/
structure RootOfTrust where
  phase : BootPhase
  copy0 : ConfigRecord
  copy1 : ConfigRecord
  /-- By image index 1, 3, 4: whether its signature verifies, and its digest. -/
  images : List (Nat × Bool × BitVec 384)
  recordDigest : BitVec 384
  /-- Measurement registers written since the last cold boot. -/
  measured : List (Nat × BitVec 384)
  lifeLog : List LifeRecord
  boots : Nat
  /-- SPDM: requests answered and their responses, oldest first (R472). -/
  version : Bool
  capabilities : Bool
  algorithms : Bool
  responses : List (Nat × Bool × List (Nat × BitVec 384))
  deriving DecidableEq, Repr

/-- A warm reset (R454): requested, in progress, with the contexts it touched. -/
structure WarmReset where
  requested : Bool
  active : Bool
  touched : List (BitVec 16)
  /-- Contexts and ascents of the last report (R455). -/
  reportContexts : List (BitVec 16)
  reportAscents : List (BitVec 64)
  deriving DecidableEq, Repr

/-- Physical memory of the domain (R412) and what travels with it. -/
structure Memory where
  /-- Bytes by physical address, in canonical form. -/
  cells : List Host.Cell
  /-- Poisoned 32-byte granules, by address div 32 (R241). -/
  poison : Tab Bool
  /-- Release records, by address div 128 (R253). -/
  releases : Tab (Option Release)
  deriving DecidableEq, Repr

end Sys2Proof.Machine
end

