-- ==== Sys2Proof/Machine/State.lean ====
section
/-! DEFINITION. The whole state of the device, the reasons a step can stop, and the state after
reset. -/

namespace Sys2Proof.Machine

/-- Why the machine stops. -/
inductive Fault where
  /-- A hart of the application cores, a PCIe requester or another device names a physical
  address that the map of R412 never populates, and the spec gives no answer. Raised by
  APPLICATION_CORE_ACCESS and TETHER_FLIT_DELIVERY. Safe: the hardware answers in some way and
  goes on, the model stops. -/
  | unpopulatedAddress (addr : Nat)
  deriving DecidableEq, Repr

/-- Why an instruction has no meaning. -/
inductive Refusal where
  /-- An arm of `exec` that has no meaning yet, by its mnemonic. Safe: the model stops. -/
  | notModelled (mnemonic : String)
  deriving DecidableEq, Repr

/-- Which gang issues: the core site, the fibre (4 * slot + index), its quads (R18). -/
structure Focus where
  core : Nat
  fib : Nat
  quads : QuadMask
  deriving DecidableEq, Repr

/-- A remote register write on its way (R264): its sender (core site and fibre); the target fibre by
partition, launch, logical core, slot and index; the register, the lanes and the values. -/
structure RemoteWrite where
  sender : Nat × Nat
  part : Nat
  lid : BitVec 32
  cx : Nat
  cy : Nat
  bslot : Nat
  index : Nat
  reg : Nat
  lanes : LaneMask
  vals : LaneVec
  deriving DecidableEq, Repr

/-- The device. Core site `c` is die * 196 + site; cluster `k` is die * 49 + 7 * (sy / 2) +
sx / 2. -/
structure State where
  cores : Tab CoreState
  dies : Tab DieRegs
  clusters : Tab Cluster
  links : Tab Link
  mem : Memory
  trans : Translation
  launches : List Launch
  partitions : Tab Partition
  asc : Ascents
  pairs : Tab Pair
  audit : List AuditRecord
  rot : RootOfTrust
  warm : WarmReset
  rwrs : List RemoteWrite
  /-- Context save areas that firmware owns, beyond the bytes whose layout the spec gives (R21, R381,
  R406): by the physical address of the record or area they extend. -/
  savedFibres : Tab (Option Fibre)
  savedBlocks : Tab (Option SavedBlock)
  /-- `TIME` (R5), and core cycles since power-on. -/
  time : DWord
  cycle : Nat
  /-- `DEVICE`, and the torus of R466. -/
  device : BitVec 11
  torusW : Nat
  torusH : Nat
  /-- The package power limit in watts (R473). -/
  powerLimit : Nat
  /-- The model's own fields. `schedule`: the device steps and inputs that come next, first to
  last. `granted`: the gangs that issue next in the current cycle. `focus`: the gang whose
  instruction executes. `choices`: how orders that the spec leaves unspecified fall. `fresh`:
  counts the free values taken. -/
  schedule : List Instr
  granted : List Focus
  focus : Focus
  choices : List Nat
  fresh : Nat
  deriving DecidableEq, Repr

/-- The reset values of `ORIENT` (R427). -/
def orientOf (die : Nat) : DWord :=
  match die with
  | 0 => 0xE400
  | 1 => 0xA3905
  | 2 => 0xF4E0A
  | _ => 0x5930F

/-- A flash configuration record with every site enabled and no holes. (DESIGN CHOICE: log entry 6) -/
def ConfigRecord.plain : ConfigRecord :=
  { signatureOk := true, disabled := [], holes := [], endpoint := false, diagnostics := true,
    scanSig := 0, torusW := 1, torusH := 1, device := 0 }

/-- The flash and measurement registers at power-on. (DESIGN CHOICE: log entry 6) -/
def RootOfTrust.reset : RootOfTrust :=
  { phase := .off, copy0 := ConfigRecord.plain, copy1 := ConfigRecord.plain,
    images := [(1, true, 0), (3, true, 0), (4, true, 0)], recordDigest := 0, measured := [],
    lifeLog := [], boots := 0, version := false, capabilities := false, algorithms := false,
    responses := [] }

/-- The machine at power-on: nothing placed, memory without contents, the compute dies held in
reset until COLD_BOOT (R469). (DESIGN CHOICE: log entries 2, 4, 6, 88) -/
def State.reset : State :=
  { cores := [], dies := [], clusters := [], links := [],
    mem := { cells := [], poison := [], releases := [] },
    trans := { coreTlb := [], dieTlb := [], handleCache := [], inv := none, faults := [],
               dmaReplies := [] },
    launches := [], partitions := [],
    asc := { table := [], nextSeq := 1, closeCount := 0, running := none },
    pairs := [], audit := [], rot := RootOfTrust.reset,
    warm := { requested := false, active := false, touched := [], reportContexts := [],
              reportAscents := [] },
    rwrs := [], savedFibres := [], savedBlocks := [], time := 0, cycle := 0, device := 0, torusW := 1, torusH := 1,
    powerLimit := 3200, schedule := [], granted := [], focus := ⟨0, 0, 0⟩, choices := [],
    fresh := 0 }

end Sys2Proof.Machine
end

