-- ==== Sys2Proof/Machine/Ops.lean ====
section
/-! DEFINITION. The named operations over the state: finding cores, fibres and launches;
reading and writing registers; physical memory; address translation; exception bits and dead
lanes; events; taking a trap and returning from one; retiring an instruction. -/

namespace Sys2Proof.Machine

/-! ### Finding things -/

def State.core (s : State) (c : Nat) : CoreState := Tab.get CoreState.reset s.cores c
def State.setCore (s : State) (c : Nat) (x : CoreState) : State :=
  { s with cores := Tab.set CoreState.reset s.cores c x }
def State.modCore (s : State) (c : Nat) (g : CoreState → CoreState) : State :=
  s.setCore c (g (s.core c))

def State.die (s : State) (d : Nat) : DieRegs := Tab.get DieRegs.reset s.dies d
def State.setDie (s : State) (d : Nat) (x : DieRegs) : State :=
  { s with dies := Tab.set DieRegs.reset s.dies d x }

def State.cluster (s : State) (k : Nat) : Cluster := Tab.get Cluster.reset s.clusters k
def State.setCluster (s : State) (k : Nat) (x : Cluster) : State :=
  { s with clusters := Tab.set Cluster.reset s.clusters k x }

def State.link (s : State) (n : Nat) : Link := Tab.get Link.reset s.links n
def State.setLink (s : State) (n : Nat) (x : Link) : State :=
  { s with links := Tab.set Link.reset s.links n x }

def State.partition (s : State) (n : Nat) : Partition := Tab.get Partition.absent s.partitions n
def State.setPartition (s : State) (n : Nat) (x : Partition) : State :=
  { s with partitions := Tab.set Partition.absent s.partitions n x }

def CoreState.fibre (k : CoreState) (f : Nat) : Fibre := Tab.get Fibre.absent k.fibres f
def CoreState.block (k : CoreState) (b : Nat) : Block := Tab.get Block.absent k.blocks b
def CoreState.slot (k : CoreState) (n : Nat) : Slot := Tab.get Slot.absent k.slots n
def CoreState.setFibre (k : CoreState) (f : Nat) (x : Fibre) : CoreState :=
  { k with fibres := Tab.set Fibre.absent k.fibres f x }
def CoreState.setBlock (k : CoreState) (b : Nat) (x : Block) : CoreState :=
  { k with blocks := Tab.set Block.absent k.blocks b x }
def CoreState.setSlot (k : CoreState) (n : Nat) (x : Slot) : CoreState :=
  { k with slots := Tab.set Slot.absent k.slots n x }

def State.fibre (s : State) (c f : Nat) : Fibre := (s.core c).fibre f
def State.setFibre (s : State) (c f : Nat) (x : Fibre) : State :=
  s.modCore c (fun k => k.setFibre f x)
def State.modFibre (s : State) (c f : Nat) (g : Fibre → Fibre) : State :=
  s.setFibre c f (g (s.fibre c f))
def State.block (s : State) (c b : Nat) : Block := (s.core c).block b
def State.setBlock (s : State) (c b : Nat) (x : Block) : State :=
  s.modCore c (fun k => k.setBlock b x)
def State.slot (s : State) (c n : Nat) : Slot := (s.core c).slot n
def State.setSlot (s : State) (c n : Nat) (x : Slot) : State :=
  s.modCore c (fun k => k.setSlot n x)

/-- Adds to a lifetime counter, at 0x800 + 8 n (R456); it saturates. -/
def CoreState.addLife (k : CoreState) (n amount : Nat) : CoreState :=
  let v : DWord := BitVec.ofNat 64 (min (2 ^ 64 - 1) ((Tab.get 0 k.life n).toNat + amount))
  { k with life := Tab.set 0 k.life n v }
def CoreState.count (k : CoreState) (n : Nat) : CoreState := k.addLife n 1

/-- The issuing fibre, its core and its block. -/
def State.cur (s : State) : Fibre := s.fibre s.focus.core s.focus.fib
def State.setCur (s : State) (x : Fibre) : State := s.setFibre s.focus.core s.focus.fib x
def State.modCur (s : State) (g : Fibre → Fibre) : State := s.setCur (g s.cur)
def State.curCore (s : State) : CoreState := s.core s.focus.core
def State.curBlock (s : State) : Block := s.block s.focus.core s.cur.block
def State.curSlotNo (s : State) : Nat := s.focus.fib / 4

/-- The die, the cluster and the position of a core site (R92, R428). -/
def dieOf (c : Nat) : Nat := c / 196
def siteOf (c : Nat) : Nat := c % 196
def clusterOf (c : Nat) : Nat :=
  49 * dieOf c + 7 * (siteOf c / 14 / 2) + siteOf c % 14 / 2
/-- The package position of a core site (R428). -/
def packagePos (c : Nat) : Nat × Nat :=
  let sx := siteOf c % 14
  let sy := siteOf c / 14
  match dieOf c with
  | 0 => (sx, sy)
  | 1 => (14 + (13 - sy), sx)
  | 2 => (14 + (13 - sx), 14 + (13 - sy))
  | _ => (sy, 14 + (13 - sx))
/-- The core site that stands at a package position (R428). -/
def siteAt (px py : Nat) : Nat :=
  if px < 14 ∧ py < 14 then 14 * py + px
  else if py < 14 then 196 + 14 * (13 - (px - 14)) + py
  else if 14 ≤ px then 2 * 196 + 14 * (13 - (py - 14)) + (13 - (px - 14))
  else 3 * 196 + 14 * px + (13 - (py - 14))

def State.launch? (s : State) (part : Nat) (lid : BitVec 32) : Option Launch :=
  s.launches.find? (fun l => l.part == part && l.lid == lid)
/-- Replaces a launch, found by its partition and id. -/
def State.setLaunch (s : State) (x : Launch) : State :=
  { s with launches := s.launches.map (fun l =>
      if l.part == x.part && l.lid == x.lid then x else l) }
def State.modLaunch (s : State) (part : Nat) (lid : BitVec 32) (g : Launch → Launch) : State :=
  match s.launch? part lid with
  | some l => s.setLaunch (g l)
  | none => s

/-! ### The launch parameter block (R385) -/

/-- Bits of word `k` of a parameter block. -/
def ParamBlock.fld (p : ParamBlock) (k lo n : Nat) : Nat := bitsAt (p.getD k 0).toNat lo n
def Launch.gridW (l : Launch) : Nat := l.params.fld 1 0 16
def Launch.gridH (l : Launch) : Nat := l.params.fld 1 16 16
def Launch.depth (l : Launch) : Nat := l.params.fld 1 32 13
def Launch.scratch (l : Launch) : Nat := l.params.fld 2 32 21
def Launch.slots (l : Launch) : Nat := l.params.fld 2 0 5
def Launch.fibres (l : Launch) : Nat := l.params.fld 2 5 2 + 1
def Launch.fpTrap (l : Launch) : Nat := l.params.fld 5 24 5
def Launch.idzTrap (l : Launch) : Bool := l.params.fld 5 23 1 == 1
def Launch.redund (l : Launch) : Bool := l.params.fld 5 36 1 == 1
def Launch.audited (l : Launch) : Bool := l.params.fld 5 35 1 == 1
/-- `.holes none` (R29). -/
def Launch.noHoles (l : Launch) : Bool := l.params.fld 1 47 1 == 1
def Launch.fixedGeometry (l : Launch) : Bool := l.params.fld 1 48 1 == 1
/-- A launch that spans a torus, so its plane is the torus (R467). -/
def State.torus (s : State) (l : Launch) : Bool :=
  l.fixedGeometry && decide (1 < s.torusW * s.torusH)
/-- `PLANEW` and `PLANEH` (R12, R467); 0 without a plane region. -/
def State.planeW (s : State) (l : Launch) : Nat :=
  if l.depth = 0 then 0 else if s.torus l then 224 * s.torusW else 8 * l.gridW
def State.planeH (s : State) (l : Launch) : Nat :=
  if l.depth = 0 then 0 else if s.torus l then 224 * s.torusH else 8 * l.gridH

/-- A launch as a compensation or owner block of it sees it: a user launch of a 1 × 1 grid with D = 0,
256 bytes of scratch, one fibre, no window (R364, R365, R374). -/
def Launch.solo (l : Launch) : Launch :=
  { l with params := l.params.zipIdx.map (fun e =>
             if e.2 = 1 then 0x10001 else if e.2 = 2 then 0x10000000001 else if e.2 = 9 then 0 else e.1),
           level1 := false }
/-- The launch of a block, as the block sees it. -/
def State.launchOf (s : State) (c b : Nat) : Option Launch :=
  let l := s.launch? (s.block c b).part (s.block c b).lid
  match (s.block c b).role with
  | .compensation _ _ _ => l.map Launch.solo
  | .owner _ => l.map Launch.solo
  | _ => l
def State.curLaunch (s : State) : Option Launch := s.launchOf s.focus.core s.cur.block
/-- The launch of the issuing fibre, read through a function; `d` where there is none. -/
def State.ofLaunch {α : Type} (s : State) (d : α) (g : Launch → α) : α :=
  match s.curLaunch with
  | some l => g l
  | none => d
/-- The issuing fibre's context (R375). -/
def State.ctxOf (s : State) (c b : Nat) : BitVec 16 :=
  match s.launchOf c b with
  | some l => l.ctx
  | none => 0
/-- Plane depth D of the issuing block's launch (R38). -/
def State.curDepth (s : State) : Nat := s.ofLaunch 0 Launch.depth
/-- The present cells of a core, in ascending lane index (R39). -/
def CoreState.presentCells (k : CoreState) : List Nat := lanesIn (~~~k.holes)
/-- Scratch rows of a launch on a core: whole rows of one word in each present cell, 256 bytes at least
(R39). (DEDUCED: log entry 26) -/
def CoreState.rowsFor (k : CoreState) (l : Launch) : Nat :=
  let n := k.presentCells.length
  (max 256 l.scratch + 4 * n - 1) / (4 * n)
/-- Scratch rows of a block. -/
def State.scratchRows (s : State) (c b : Nat) : Nat :=
  match s.launchOf c b with
  | some l => (s.core c).rowsFor l
  | none => 0
/-- Scratch size of the issuing block in bytes (R39). (DEDUCED: log entry 26) -/
def State.curScratch (s : State) : Nat :=
  4 * s.curCore.presentCells.length * s.scratchRows s.focus.core s.cur.block

/-! ### Register files (R78 to R84, R158) -/

def RegFile.scalar (r : RegFile) (n : Nat) : PX := if n = 0 then PX.zero else Tab.get PX.zero r.s n
/-- Writes a scalar register; a write to `s0` is discarded (R79). -/
def RegFile.setScalar (r : RegFile) (n : Nat) (x : PX) : RegFile :=
  if n = 0 then r else { r with s := Tab.set PX.zero r.s n x }

/-- `p0` reads true and `p15` false in helper lanes (R78, R79). -/
def Fibre.pred (x : Fibre) (n : Nat) : LaneMask :=
  if n = 0 then BitVec.allOnes 64
  else if n = 15 then ~~~x.helpers
  else Tab.get 0 x.regs.p n
/-- Writes a predicate in the lanes of a mask. -/
def Fibre.setPred (x : Fibre) (n : Nat) (m v : LaneMask) : Fibre :=
  { x with regs := { x.regs with p := Tab.set 0 x.regs.p n ((v &&& m) ||| (x.pred n &&& ~~~m)) } }

def Fibre.scalar (x : Fibre) (n : Nat) : PX := x.regs.scalar n
def Fibre.setScalar (x : Fibre) (n : Nat) (v : PX) : Fibre :=
  { x with regs := x.regs.setScalar n v }

/-- A register number that lies in the shared window of a block (R35). -/
def Block.inWindow (b : Block) (r : Nat) : Bool :=
  decide (48 + 16 * b.winBase ≤ r) && decide (r < 48 + 16 * (b.winBase + b.winCnt))

/-- A lane register of the issuing fibre: the handler bank while a handler runs (R83), the
slot's shared window (R35), or the fibre's own register. -/
def State.lane (s : State) (r i : Nat) : PW :=
  let x := s.cur
  if 224 ≤ r ∧ x.handler.isSome then Tab.get PW.zero x.regs.h (64 * (r - 224) + i)
  else if s.curBlock.inWindow r then
    Tab.get PW.zero (s.slot s.focus.core s.curSlotNo).window (64 * r + i)
  else Tab.get PW.zero x.regs.v (64 * r + i)

/-- An injection of a kind is armed on a core (R458). -/
def CoreRegs.armed (r : CoreRegs) (kind : Nat) : Bool :=
  r.inject.getLsbD 63 && bitsAt r.inject.toNat 60 3 == kind
/-- The injection has acted. -/
def CoreRegs.disarm (r : CoreRegs) : CoreRegs := { r with inject := r.inject &&& 0x7FFFFFFFFFFFFFFF }
/-- The lane of a register of a fibre that the armed injection alters (R458). -/
def CoreRegs.laneTarget (r : CoreRegs) (f reg : Nat) : Option Nat :=
  if r.armed 1 && bitsAt r.inject.toNat 28 4 == f / 4 && bitsAt r.inject.toNat 26 2 == f % 4 &&
      bitsAt r.inject.toNat 12 8 == reg then some (bitsAt r.inject.toNat 20 6)
  else none
/-- The values that a write of a lane register leaves, where an injection may alter one. -/
def CoreRegs.altered (r : CoreRegs) (f reg : Nat) (vs : List (Nat × PW)) : List (Nat × PW) :=
  match r.laneTarget f reg with
  | some i => vs.map (fun e => if e.1 = i then (e.1, ⟨e.2.bits ^^^ r.injectMask, e.2.poison⟩) else e)
  | none => vs
/-- The injection registers of a core after a write of a lane register. -/
def State.afterLanes (s : State) (c f reg : Nat) (vs : List (Nat × PW)) : State :=
  match (s.core c).regs.laneTarget f reg with
  | some i =>
    if vs.any (fun e => e.1 == i) then s.modCore c (fun k => { k with regs := k.regs.disarm }) else s
  | none => s

/-- Writes a lane register in some lanes, in the register file of a fibre or its slot's window. -/
def State.storeLanes (s : State) (c f r : Nat) (vs : List (Nat × PW)) : State :=
  let x := s.fibre c f
  let es := vs.map (fun e => (64 * r + e.1, e.2))
  if (s.block c x.block).inWindow r then
    let k := s.slot c (f / 4)
    s.setSlot c (f / 4) { k with window := Tab.setAll PW.zero k.window es }
  else
    s.setFibre c f { x with regs := { x.regs with v := Tab.setAll PW.zero x.regs.v es } }

/-- Writes a lane register of a fibre, as an armed injection leaves it. -/
def State.setLanesOf (s : State) (c f r : Nat) (vs : List (Nat × PW)) : State :=
  (s.storeLanes c f r ((s.core c).regs.altered f r vs)).afterLanes c f r vs

/-- Writes a register of the handler bank of the issuing fibre (R83). -/
def State.storeHandler (s : State) (r : Nat) (vs : List (Nat × PW)) : State :=
  let x := s.cur
  s.setCur { x with regs := { x.regs with
    h := Tab.setAll PW.zero x.regs.h (vs.map (fun e => (64 * (r - 224) + e.1, e.2))) } }
/-- Writes a lane register of the issuing fibre in some lanes: the handler bank while a handler
runs (R83). -/
def State.setLanes (s : State) (r : Nat) (vs : List (Nat × PW)) : State :=
  let c := s.focus.core
  let f := s.focus.fib
  if 224 ≤ r ∧ s.cur.handler.isSome then
    (s.storeHandler r ((s.core c).regs.altered f r vs)).afterLanes c f r vs
  else s.setLanesOf c f r vs

/-- A lane register that the issuing fibre may name (R82, R83). -/
def State.holds (s : State) (r : Nat) : Bool :=
  decide (r < 48) || (decide (224 ≤ r) && s.cur.handler.isSome) || s.curBlock.inWindow r ||
  s.cur.regs.units.getLsbD ((r - 48) / 16)

/-! ### Gangs and lanes (R18, R195) -/

def Fibre.quad (x : Fibre) (q : Nat) : Quad := Tab.get Quad.off x.quads q
def Fibre.setQuad (x : Fibre) (q : Nat) (y : Quad) : Fibre :=
  { x with quads := Tab.set Quad.off x.quads q y }
/-- Changes the quads of a mask. -/
def Fibre.modQuads (x : Fibre) (m : QuadMask) (g : Nat → Quad → Quad) : Fibre :=
  (quadsIn m).foldl (fun y q => y.setQuad q (g q (y.quad q))) x

/-- The lanes of some quads that execute: active and not dead (R169, R195). -/
def Fibre.activeIn (x : Fibre) (m : QuadMask) : LaneMask :=
  (quadsIn m).foldl (fun a q => a ||| (x.quad q).active) 0 &&& ~~~x.sys.dead
/-- Every live lane of the fibre (R158). -/
def Fibre.live (x : Fibre) : LaneMask := x.present &&& ~~~x.sys.dead
/-- The active lanes of the issuing gang. -/
def State.gangLanes (s : State) : LaneMask := s.cur.activeIn s.focus.quads
/-- The lowest quad of the issuing gang. -/
def State.leadQuad (s : State) : Quad := s.cur.quad ((quadsIn s.focus.quads).headD 0)
/-- The address of the instruction that issues. -/
def State.pc (s : State) : VAddr := s.leadQuad.pc
/-- The participating lanes under a guard (R195). -/
def State.participating (s : State) (pg : BitVec 4) (pn : Bool) : LaneMask :=
  let g := s.cur.pred pg.toNat
  s.gangLanes &&& (if pn then ~~~g else g)

/-! ### Exception bits and dead lanes (R93, R94, R358) -/

def Fibre.orChki (x : Fibre) (b : BitVec 32) : Fibre :=
  { x with sys := { x.sys with chki := x.sys.chki ||| b } }
def State.orChki (s : State) (b : BitVec 32) : State := s.modCur (fun x => x.orChki b)
/-- Lanes consume poison and die (R358). -/
def Fibre.kill (x : Fibre) (m : LaneMask) : Fibre :=
  if m = 0 then x
  else { x with sys := { x.sys with dead := x.sys.dead ||| m, chki := x.sys.chki ||| chkiPoison } }
/-- A scalar operand, consuming its poison: every live lane dies and 0 is used (R158). -/
def State.useScalar (s : State) (n : Nat) : DWord × State :=
  let v := s.cur.scalar n
  if v.poison then (0, s.modCur (fun x => x.kill x.live)) else (v.bits, s)
/-- Scalar operands in a row, as `useScalar`. -/
def State.useScalars (s : State) : List Nat → List DWord × State
  | [] => ([], s)
  | n :: rest =>
    let (v, s1) := s.useScalar n
    let (vs, s2) := s1.useScalars rest
    (v :: vs, s2)
/-- Adds to `SATC`, which stays at its greatest value (R95). -/
def Fibre.addSatc (x : Fibre) (n : Nat) : Fibre :=
  { x with sys := { x.sys with
      satc := BitVec.ofNat 32 (min 0xFFFFFFFF (x.sys.satc.toNat + n)) } }

/-! ### Completion flags (R90) -/

def Fibre.flag (x : Fibre) (n : Nat) : Nat := Tab.get 0 x.flags n
def Fibre.incFlag (x : Fibre) (n : Nat) : Fibre :=
  { x with flags := Tab.set 0 x.flags n (x.flag n + 1) }
def Fibre.decFlag (x : Fibre) (n : Nat) : Fibre :=
  { x with flags := Tab.set 0 x.flags n (x.flag n - 1) }
/-- Every flag of the mask is clear. -/
def Fibre.flagsClear (x : Fibre) (m : BitVec 12) : Bool :=
  (List.range 12).all (fun n => !m.getLsbD n || x.flag n == 0)
/-- The flag that the issuing clause names for FS (R109): none for 15. -/
def State.flagFor (s : State) (fs : Bool) : Option Nat :=
  let n := (if fs then s.leadQuad.setb else s.leadQuad.seta).toNat
  if n < 12 then some n else none
/-- The flag cannot count one more operation (R90). -/
def State.flagFull (s : State) (fs : Bool) : Bool :=
  match s.flagFor fs with
  | some n => decide (1024 ≤ s.cur.flag n)
  | none => false
/-- Selects the flag for an access that has been performed and completes later (R90, R109). (DEDUCED: log entry 9) -/
def State.selectFlag (s : State) (fs : Bool) : State :=
  match s.flagFor fs with
  | some n => s.modCur (fun x => { x.incFlag n with ops := x.ops ++ [.access n] })
  | none => s

/-! ### Scopes (R321) -/

/-- An agent that writes memory: a fibre, or something that is in no fibre's scope below `.sys`. -/
inductive Agent where
  | fibre (core fib : Nat)
  | device
  | outside
  deriving DecidableEq, Repr

/-- The agent lies inside the scope, counted from a fibre (R253, R321). Scope codes of R119. -/
def Agent.inside (a : Agent) (scope core fib : Nat) : Bool :=
  match a with
  | .fibre c f =>
    match scope with
    | 0 => c == core && f == fib
    | 1 => c == core
    | 2 => clusterOf c == clusterOf core
    | 3 => dieOf c == dieOf core
    | _ => true
  | .device => decide (4 ≤ scope)
  | .outside => decide (6 ≤ scope)

/-! ### Physical memory (R9, R241, R253, R412) -/

def Memory.byte (m : Memory) (a : Nat) : BitVec 8 := Tab.get 0 m.cells a
def Memory.poisoned (m : Memory) (a : Nat) : Bool := Tab.get false m.poison (a / 32)
def Memory.setByte (m : Memory) (a : Nat) (b : BitVec 8) : Memory :=
  { m with cells := Tab.set 0 m.cells a b }
/-- The canonical form of memory: addresses strictly rising, no zero byte listed. -/
def Memory.wf (m : Memory) : Bool := Tab.wf 0 m.cells

/-- The n bytes at a physical address. -/
def Memory.read (m : Memory) (a : Nat) : Nat → List (BitVec 8)
  | 0 => []
  | n + 1 => m.byte a :: m.read (a + 1) n
/-- The little-endian number of n bytes. -/
def Memory.num (m : Memory) (a n : Nat) : Nat := ofBytes (m.read a n)
/-- Some byte of a range lies in a poisoned granule. -/
def Memory.anyPoison (m : Memory) (a n : Nat) : Bool :=
  (List.range n).any (fun k => m.poisoned (a + k))
/-- Writes bytes at ascending addresses. -/
def Memory.putBytes (m : Memory) (a : Nat) : List (BitVec 8) → Memory
  | [] => m
  | b :: rest => (m.setByte a b).putBytes (a + 1) rest
/-- Poison marks after a write of n bytes (R241): poisoned data poison every granule they
touch, clean data clean a granule that they fill. (DEDUCED: log entry 12) -/
def Memory.markPoison (m : Memory) (a n : Nat) (poison : Bool) : Memory :=
  let gs := (List.range ((a + n + 31) / 32 - a / 32)).map (fun k => a / 32 + k)
  { m with poison := gs.foldl (fun t g =>
      if poison then Tab.set false t g true
      else if a ≤ 32 * g ∧ 32 * g + 32 ≤ a + n then Tab.set false t g false else t) m.poison }
def Memory.markRelease (m : Memory) (a n : Nat) (act : ReleaseAction) : Memory :=
  let lines := (List.range ((a + n + 127) / 128 - a / 128)).map (fun k => a / 128 + k)
  match act with
  | .keep => m
  | .clear => { m with releases := lines.foldl (fun t k => Tab.set Option.none t k Option.none) m.releases }
  | .mark r => { m with releases := lines.foldl (fun t k => Tab.set Option.none t k (some r)) m.releases }
/-- One write of memory: bytes, poison, release records. -/
def Memory.write (m : Memory) (a : Nat) (bs : List (BitVec 8)) (poison : Bool)
    (r : ReleaseAction) : Memory :=
  ((m.putBytes a bs).markPoison a bs.length poison).markRelease a bs.length r

/-- A write has been performed to a line: monitors armed on it inside their scope are marked
(R261). An outside writer may trigger; the model's outside writers do. (DEDUCED: log entry 31) -/
def Fibre.noteWrite (x : Fibre) (a n : Nat) : Fibre :=
  match x.monitor with
  | some mo =>
    if a / 128 ≤ mo.line ∧ mo.line ≤ (a + n - 1) / 128 then
      { x with monitor := some { mo with written := true } }
    else x
  | none => x
/-- A write to the spill buffer of a scroll in flight (R369). -/
def ScrollRun.noteWrite (r : ScrollRun) (a n : Nat) : ScrollRun :=
  if r.spill.any (fun e => decide (a < e.1 + e.2) && decide (e.1 < a + n)) then { r with dirty := true } else r
/-- Marks the monitors of every fibre of the device, and the spill buffers in use. -/
def State.noteWrite (s : State) (a n : Nat) : State :=
  { s with cores := s.cores.map (fun e =>
      (e.1, { e.2 with
        fibres := e.2.fibres.map (fun g => (g.1, g.2.noteWrite a n)),
        eng := { e.2.eng with
          scrolls := e.2.eng.scrolls.map (fun r => (r.1, r.2.map (fun x => x.noteWrite a n))) } })) }
/-- A write of physical memory by any agent (R241, R253, R261). (DESIGN CHOICE: log entry 3) -/
def State.writeMem (s : State) (a : Nat) (bs : List (BitVec 8)) (poison : Bool)
    (r : ReleaseAction) : State :=
  ({ s with mem := s.mem.write a bs poison r }).noteWrite a bs.length

/-- The physical address exists (R412). -/
def populated (a : Nat) : Bool :=
  decide (a < 2 ^ 52) && decide (a / 2 ^ 41 < 1152) && decide (a % 2 ^ 39 < 384 * 2 ^ 30)

/-! ### Address translation (R411 to R418, R422, R423) -/

/-- What an access needs of a page (R417). -/
inductive AccessKind where
  | fetch | load | store
  deriving DecidableEq, Repr

/-- A translated address: physical address, poison on read, home die. -/
structure Located where
  addr : Nat
  por : Bool
  home : Nat
  deriving DecidableEq, Repr

/-- The result of a walk: a TLB entry, or the reason of R417. -/
inductive Walk where
  | found (e : TlbEntry)
  | failed (reason : Nat)
  deriving DecidableEq, Repr

/-- The frame belongs to the memory of a partition, or to a device it has been granted
(R417 reason 3, R430). -/
def State.frameOk (s : State) (part : Nat) (a size : Nat) : Bool :=
  let p := s.partition part
  let ok (a : Nat) : Bool :=
    populated a &&
    (if a / 2 ^ 41 = s.device.toNat then
       p.memory.any (fun r => r.1 == a / 2 ^ 39 % 4 && decide (r.2.1 ≤ a % 2 ^ 39) &&
         decide (a % 2 ^ 39 < r.2.1 + r.2.2))
     else p.devices.contains (a / 2 ^ 41))
  ok a && ok (a + size - 1)

/-- Reserved bits of a page table entry, or CP = 3 (R415, R417 reason 2). -/
def badPte (e : Nat) : Bool :=
  bitsAt e 52 7 != 0 || bitsAt e 4 8 != 0 || bitsAt e 62 2 == 3
/-- In a table entry only V, LEAF and FRAME may be non-zero (R415). -/
def badTableEntry (e : Nat) : Bool := bitsAt e 52 12 != 0 || bitsAt e 2 10 != 0

/-- The 16 leaves of a 64 KiB group are equal but for FRAME[15:12] = j (R416). -/
def groupUniform (m : Memory) (tab idx : Nat) : Bool :=
  let e (j : Nat) : Nat := m.num (tab + 8 * (idx / 16 * 16 + j)) 8
  (List.range 16).all (fun j =>
    bitsAt (e j) 12 4 == j && putBits (e j) 12 4 0 == putBits (e 0) 12 4 0)

/-- A walk from a table at a level down (R414 to R417). `pick` names the entry that a mixed
64 KiB group is translated from (R416). -/
def walkFrom (m : Memory) (asid : BitVec 16) (va pick : Nat) : Nat → Nat → Walk
  | 0, _ => .failed 0
  | fuel + 1, tab =>
    let level := fuel
    let shift := 12 + 9 * level
    let idx := va / 2 ^ shift % 512
    let e0 := m.num (tab + 8 * idx) 8
    let e :=
      if level = 0 ∧ bitsAt e0 0 2 = 3 ∧ bitsAt e0 3 1 = 1 ∧ !groupUniform m tab idx then
        m.num (tab + 8 * (idx / 16 * 16 + pick % 16)) 8
      else e0
    if bitsAt e 0 1 = 0 then .failed 0
    else if bitsAt e 1 1 = 0 then
      if badTableEntry e || level == 0 then .failed 2
      else walkFrom m asid va pick fuel (bitsAt e 12 40 * 4096)
    else if badPte e || decide (3 ≤ level) ||
        bitsAt e 12 (shift - 12) != 0 then .failed 2
    else
      .found { asid := asid, base := va / 2 ^ shift * 2 ^ shift, lsize := shift,
               frame := bitsAt e 12 40 * 4096, w := bitsAt e 2 1 == 1,
               por := bitsAt e 59 1 == 1, home := bitsAt e 60 2 }

/-- Word `k` of the context table entry of an ASID (R413). -/
def State.ctxWord (s : State) (asid : BitVec 16) (k : Nat) : Nat :=
  s.mem.num (bitsAt (s.die 0).ctxbase.toNat 12 40 * 4096 + 32 * asid.toNat + 8 * k) 8
/-- The partition of a context (R413). -/
def State.partOfCtx (s : State) (asid : BitVec 16) : Nat := bitsAt (s.ctxWord asid 3) 0 3

/-- A whole walk for an access (R417). (DESIGN CHOICE: log entry 14) -/
def State.walk (s : State) (asid : BitVec 16) (va : Nat) (kind : AccessKind) : Walk :=
  if bitsAt (s.ctxWord asid 0) 63 1 = 0 then .failed 0
  else
    match walkFrom s.mem asid va (s.choices.headD 0) 5 (bitsAt (s.ctxWord asid 0) 12 40 * 4096) with
    | .failed r => .failed r
    | .found e =>
      if kind = .store ∧ !e.w then .failed 1
      else if !s.frameOk (s.partOfCtx asid) e.frame (2 ^ e.lsize) then .failed 3
      else .found e

/-- The TLB entry of an address in a list (R418). -/
def tlbFind (es : List TlbEntry) (asid : BitVec 16) (va : Nat) : Option TlbEntry :=
  es.find? (fun e => e.asid == asid && va / 2 ^ e.lsize * 2 ^ e.lsize == e.base)

/-- Translates one address for an access by a core: its TLB, its die's TLB, or a walk (R418). -/
def State.translate (s : State) (c : Nat) (asid : BitVec 16) (va : Nat) (kind : AccessKind) :
    Except Nat Located :=
  let use (e : TlbEntry) : Except Nat Located :=
    .ok { addr := e.frame + va % 2 ^ e.lsize, por := e.por, home := e.home }
  let walked : Except Nat Located :=
    match s.walk asid va kind with
    | .found e => use e
    | .failed r => .error r
  let hit := (tlbFind (Tab.get [] s.trans.coreTlb c) asid va).orElse
    (fun _ => tlbFind (Tab.get [] s.trans.dieTlb (dieOf c)) asid va)
  match hit with
  | some e => if kind = .store ∧ !e.w then walked else use e
  | none => walked

/-! ### Clause positions and retiring (R106, R110, R111) -/

/-- A non-idempotent instruction (R111, R279). -/
def nonIdempotent (i : Instr) : Bool :=
  match i with
  | .scrlF _ => true
  | .scrlM _ => true
  | .gnode _ => true
  | .gflag _ => true
  | .gsig _ => true
  | .mma _ => true
  | .drainQ _ => true
  | .qput _ => true
  | .qtry _ => true
  | .rwr _ => true
  | .bara _ => true
  | .bars _ => true
  | .barw _ => true
  | .marm _ => true
  | .mwait _ => true
  | i =>
    match i.form with
    | .lane op f sh =>
      if 0x120 ≤ op ∧ op ≤ 0x142 then f.m1.getLsbD 3 || f.imm.getLsbD 18
      else if (0x0F0 ≤ op ∧ op ≤ 0x107) ∨ (0x160 ≤ op ∧ op ≤ 0x165) then true
      else
        let q (k : Fld) (n : BitVec 8) : Bool :=
          match k with
          | .src _ => decide (240 ≤ n.toNat)
          | .dst _ => decide (240 ≤ n.toNat)
          | .sfu _ => decide (240 ≤ n.toNat)
          | _ => false
        q sh.vd f.vd || q sh.va f.va || (q sh.vb f.vb && !(sh.kind && f.m2 != 0)) || q sh.vc f.vc
    | _ => false

/-- Control transfers (R110). -/
def isTransfer (i : Instr) : Bool :=
  match i with
  | .br _ => true
  | .brLong _ => true
  | .brs _ => true
  | .brsLong _ => true
  | .brv _ => true
  | .call _ => true
  | .callLong _ => true
  | .ret _ => true
  | .jmpr _ => true
  | .loop _ => true
  | .loopLong _ => true
  | .exit => true
  | .tret => true
  | _ => false

/-- An address lies inside the clause that a quad stands in (R106). -/
def Quad.within (y : Quad) (a : VAddr) : Bool :=
  y.inClause && decide (0 < (y.clauseEnd - a).toNat) && decide ((y.clauseEnd - a).toNat ≤ 1020)

/-- A quad moves to an address inside or after its clause. -/
def Quad.advance (y : Quad) (next : VAddr) (mark : Bool) : Quad :=
  { y with pc := next, inClause := y.within next, first := false,
           tail := y.tail || mark, mustRgn := y.mustRgn || mark, again := false }

/-- A quad moves to a clause header. -/
def Quad.jump (y : Quad) (target : VAddr) : Quad :=
  { y with pc := target, inClause := false, first := false, again := false }

/-- The address after an instruction at `pc` (R156). -/
def nextPc (pc : VAddr) (parcels : Nat) : VAddr := pc + BitVec.ofNat 57 (4 * parcels)

/-- The instruction has had its effect: the gang moves past it, and a non-idempotent one leaves
its marks (R111). -/
def State.retire (s : State) (i : Instr) : State :=
  s.modCur (fun x => x.modQuads s.focus.quads
    (fun _ y => y.advance (nextPc y.pc i.parcels) (nonIdempotent i)))

/-- The gang waits: the instruction has not had its effect. A stalled gang that a debugger
steps still has its step to make (R384). -/
def State.wait (s : State) (w : Wait) : State :=
  s.modCur (fun x => { x.modQuads s.focus.quads (fun _ y => { y with wait := w }) with
    stepping := if w = .stall ∧ x.stopSoon = some 2 then x.stepping ||| s.focus.quads
                else x.stepping })

/-! ### Events for firmware (R377) -/

/-- The 32 bytes of an event record (R377). -/
def eventBits (c : Nat) (seq : BitVec 16) (e : HeldEvent) : Nat :=
  e.cause % 256 + 2 ^ 9 * (if e.unh then 1 else 0) + 2 ^ 10 * (e.fib % 4) +
  2 ^ 12 * (e.slotIdx % 16) + 2 ^ 16 * siteOf c + 2 ^ 24 * dieOf c + 2 ^ 32 * e.ctx.toNat +
  2 ^ 48 * seq.toNat + 2 ^ 64 * e.pc.toNat + 2 ^ 128 * e.lanes.toNat + 2 ^ 192 * e.detail.toNat

/-- Entries of a core's event queue (R376); 0 before firmware has set it up. -/
def CoreRegs.evSize (r : CoreRegs) : Nat :=
  let n := bitsAt r.evqbase.toNat 57 7
  if 4 ≤ n ∧ n ≤ 16 then 2 ^ n else 0

/-- Moves held events into the queue while it has room (R377). `fuel` bounds their number. -/
def State.releaseEvents (s : State) (c : Nat) : Nat → State
  | 0 => s
  | fuel + 1 =>
    let k := s.core c
    match k.heldEvents with
    | [] => s.setCore c { k with regs := { k.regs with evfull := false } }
    | e :: rest =>
      let size := k.regs.evSize
      let head := k.regs.evqhead.toNat
      let tail := k.regs.evqtail.toNat
      if tail - head < size then
        let a := bitsAt k.regs.evqbase.toNat 5 52 * 32 + 32 * (tail % size)
        let s1 := s.setCore c { k with
          heldEvents := rest, evseq := k.evseq + 1,
          regs := { k.regs with evqtail := k.regs.evqtail + 1 } }
        (s1.writeMem a (bytesOf 32 (eventBits c k.evseq e)) false .clear).releaseEvents c fuel
      else s.setCore c { k with regs := { k.regs with evfull := true } }

/-- Posts an event of a fibre to its core's queue (R377). -/
def State.postEvent (s : State) (c f : Nat) (cause : Nat) (unh : Bool) (pc : VAddr)
    (lanes : LaneMask) (detail : DWord) : State :=
  let x := s.fibre c f
  let e : HeldEvent := { cause := cause, unh := unh, fib := f % 4, slotIdx := f / 4,
                         ctx := s.ctxOf c x.block, pc := pc, lanes := lanes, detail := detail }
  let s1 := s.modCore c (fun k => { k with heldEvents := k.heldEvents ++ [e] })
  s1.releaseEvents c ((s1.core c).heldEvents.length + 1)

/-! ### Taking a trap and returning from one (R345 to R354, R178) -/

/-- A debugger is attached to the context of a fibre (R382). -/
def State.attached (s : State) (c f : Nat) : Bool :=
  let d := (s.core c).regs.dbgctl
  d.getLsbD 0 && d.extractLsb' 48 16 == s.ctxOf c (s.fibre c f).block

/-- The entry of the trap table that serves a user cause (R349, R350). -/
def Launch.handlerFor (l : Launch) (cause : Nat) : Option VAddr :=
  let e (n : Nat) : DWord := Tab.get 0 l.traps n
  if (e cause).getLsbD 63 then some ((e cause).extractLsb' 0 57)
  else if cause ≠ 0x11 ∧ (e 0).getLsbD 63 then some ((e 0).extractLsb' 0 57)
  else none

/-- Records the trap in `TRAPCAUSE`, `TRAPPC` and `TRAPLANES` (R92). -/
def Fibre.recordTrap (x : Fibre) (cause : BitVec 8) (pc : VAddr) (lanes : LaneMask) : Fibre :=
  { x with sys := { x.sys with trapCause := cause, trapPc := pc, trapLanes := lanes } }

/-- The quads of a mask with their states. -/
def Fibre.savedQuads (x : Fibre) (m : QuadMask) : Tab Quad := (quadsIn m).map (fun q => (q, x.quad q))

/-- Enters a user handler (R351): one gang of the trapping quads at the handler's header, the
gang's masks and records saved for `tret`. -/
def Fibre.enterHandler (x : Fibre) (cause : BitVec 8) (quads : QuadMask) (addr resume : VAddr)
    (inClause : Bool) : Fibre :=
  let saved := x.savedQuads quads
  let y := x.modQuads quads (fun _ q =>
    { Quad.off with pc := addr, active := q.active &&& ~~~x.sys.dead, region := addr,
                    regionActive := q.active, ended := false, mustRgn := true,
                    wait := .entering })
  { y with handler := some { cause := cause, quads := quads, saved := saved, resume := resume,
                             inClause := inClause } }

/-- Freezes a fibre for firmware and posts the event (R34, R377). (DEDUCED: log entry 17) -/
def State.freeze (s : State) (c f : Nat) (cause : Nat) (unh : Bool) (pc : VAddr)
    (lanes : LaneMask) (detail : DWord) : State :=
  (s.modFibre c f (fun x => { x with run := .frozen (BitVec.ofNat 8 cause) })).postEvent
    c f cause unh pc lanes detail

/-- A user trap of the quads of a fibre (R345 to R354). `resume` is where the fibre goes on after
the handler. (DEDUCED: log entries 17, 20) -/
def State.userTrap (s : State) (c f : Nat) (quads : QuadMask) (cause : BitVec 8) (pc : VAddr)
    (lanes : LaneMask) (resume : VAddr) (inClause : Bool) : State :=
  let x := s.fibre c f
  match x.handler with
  | some h =>
    let s1 := s.setFibre c f { x.recordTrap 0x13 pc lanes with second := cause }
    s1.freeze c f 0x13 false pc lanes (BitVec.ofNat 64 (h.cause.toNat + 256 * cause.toNat))
  | none =>
    let s1 := s.setFibre c f (x.recordTrap cause pc lanes)
    match (s.launchOf c x.block).bind (fun l => l.handlerFor cause.toNat) with
    | some addr => s1.modFibre c f (fun y => y.enterHandler cause quads addr resume inClause)
    | none =>
      if s.attached c f then
        (s1.modFibre c f (fun y => { y with run := .stopped })).postEvent
          c f cause.toNat true pc lanes 0
      else s1.freeze c f cause.toNat true pc lanes 0

/-- The trap that the issuing gang takes at the instruction at its pc, which has `parcels`
parcels (R345). -/
def State.takeTrap (s : State) (cause : BitVec 8) (lanes : LaneMask) (parcels : Nat) : State :=
  let pc := s.pc
  let resume := nextPc pc parcels
  s.userTrap s.focus.core s.focus.fib s.focus.quads cause pc lanes resume
    (s.leadQuad.within resume)

/-- A trap of an instruction, after which its gang resumes at the next one. (DEDUCED: log entry 16) -/
def State.trap (s : State) (cause : BitVec 8) (lanes : LaneMask) (i : Instr) : State :=
  s.takeTrap cause lanes i.parcels

/-- The issuing gang is the one whose cause firmware serves. -/
def State.markFrozen (s : State) : State := s.modCur (fun x => { x with frozenQuads := s.focus.quads })
/-- The unimplemented-extension trap goes to firmware (R126). (DEDUCED: log entry 17) -/
def State.trapExtension (s : State) (lanes : LaneMask) : State :=
  s.markFrozen.freeze s.focus.core s.focus.fib 0x02 false s.pc lanes 0

/-- The quads of the handler have all issued `tret` or ended (R178). -/
def Fibre.handlerDone (x : Fibre) (h : Handler) : Bool :=
  (quadsIn h.quads).all (fun q => (x.quad q).ended || (x.quad q).wait == .tret)

/-- Leaves the handler (R178): the saved gangs, masks and records are back, less lanes that died,
at the resume point. -/
def Fibre.leaveHandler (x : Fibre) (h : Handler) : Fibre :=
  let y := x.modQuads h.quads (fun q _ =>
    let old := Tab.get Quad.off h.saved q
    { old with active := old.active &&& ~~~x.sys.dead, pc := h.resume, inClause := h.inClause,
               first := old.first && old.pc == h.resume, wait := .resuming })
  { y with handler := none }

/-! ### Translation faults (R248, R420) -/

/-- Bits of a fault record (R420). -/
def faultBits (lid : BitVec 32) (asid : BitVec 16) (reason : Nat) (write engine fetch : Bool)
    (va token : Nat) : BitVec 256 :=
  let b (x : Bool) : Nat := if x then 1 else 0
  BitVec.ofNat 256 (2 ^ 5 * b fetch + 2 ^ 6 * b engine + 2 ^ 7 * b write + 2 ^ 8 * reason +
    2 ^ 16 * asid.toNat + 2 ^ 32 * lid.toNat + 2 ^ 64 * (va % 2 ^ 57) + 2 ^ 128 * (token % 2 ^ 16))

/-- A waiter joins the open fault of its page, or a new record is posted (R420). -/
def State.addFault (s : State) (asid : BitVec 16) (lid : BitVec 32) (va reason : Nat)
    (write engine fetch : Bool) (w : FaultWaiter) : State :=
  let part := s.partOfCtx asid
  let page := va / 4096
  let same (p : PageFault) : Bool := p.part == part && p.asid == asid && p.page == page
  if s.trans.faults.any same then
    { s with trans := { s.trans with faults := s.trans.faults.map (fun p =>
        if same p then { p with waiters := p.waiters ++ [w] } else p) } }
  else
    let p := s.partition part
    let tok := p.nextToken
    let s1 := s.setPartition part { p with
      nextToken := (tok + 1) % 65536,
      faults := p.faults ++ [faultBits lid asid reason write engine fetch va tok] }
    { s1 with trans := { s1.trans with faults := s1.trans.faults ++
        [{ part := part, token := tok, asid := asid, page := page, reason := reason,
           waiters := [w] }] } }

/-- The replayable fault of the issuing gang at a virtual address (R248, R377, R420): the fibre
is frozen and nothing else happens. (DEDUCED: log entry 17) -/
def State.pageFault (s : State) (va reason : Nat) (write fetch : Bool) (lanes : LaneMask) : State :=
  let b := s.curBlock
  let s1 := s.addFault (s.ctxOf s.focus.core s.cur.block) b.lid va reason write false fetch
    (.fibre s.focus.core s.focus.fib)
  let detail : DWord := BitVec.ofNat 64 (va % 2 ^ 57 + (if write then 2 ^ 63 else 0))
  s1.markFrozen.freeze s.focus.core s.focus.fib 0x06 false s.pc lanes detail

end Sys2Proof.Machine
end

