-- ==== Sys2Proof/Machine/Lifecycle.lean ====
section
/-! DEFINITION. How quads rejoin, how quads, fibres and launches end, how an ascent is ripped
(R37, R170, R171, R174, R178, R179, R311, R363). -/

namespace Sys2Proof.Machine

/-! ### Rejoining (R170, R171, R178) -/

/-- A quad of a record's member set has arrived at it, or has ended (R170). (DEDUCED: log entry 21) -/
def Quad.arrivedAt (y : Quad) (r : Recon) : Bool :=
  y.ended || (y.wait == .regang &&
    match y.stack with
    | t :: _ => t.point == r.point && t.fall == r.fall && t.members == r.members
    | [] => false)

/-- A quad that waits at the `regang` of its top record goes on past it (R170). -/
def Quad.rejoin (y : Quad) (dead : LaneMask) : Quad :=
  match y.stack with
  | r :: rest => { y.advance (nextPc y.pc 1) false with
      active := r.mask &&& ~~~dead, stack := rest, wait := .none }
  | [] => y

/-- Every quad whose member set has wholly arrived or ended goes on (R170). -/
def Fibre.settleRegang (x : Fibre) : Fibre :=
  x.modQuads (BitVec.allOnes 16) (fun _ y =>
    match y.stack with
    | r :: _ =>
      if y.wait == .regang && (quadsIn r.members).all (fun m => (x.quad m).arrivedAt r) then
        y.rejoin x.sys.dead
      else y
    | [] => y)

/-- The handler ends once each of its quads has issued `tret` or ended (R178). -/
def Fibre.settleTret (x : Fibre) : Fibre :=
  match x.handler with
  | some h => if x.handlerDone h then x.leaveHandler h else x
  | none => x

/-- Every quad of the fibre has ended (R174). -/
def Fibre.allEnded (x : Fibre) : Bool := x.quads.all (fun e => e.2.ended)

/-! ### The slot barrier (R37) -/

/-- A fibre that `fbar` waits for: resident and not ended. -/
def Fibre.resident (x : Fibre) : Bool := x.run != .exited
/-- A fibre that has arrived at `fbar` and is neither frozen, nor stopped, nor in a handler. -/
def Fibre.atFbar (x : Fibre) : Bool := x.fbarArrived && x.run == .running && x.handler.isNone
/-- The gangs of a fibre that wait at `fbar` go on. -/
def Fibre.passFbar (x : Fibre) : Fibre :=
  { x.modQuads (BitVec.allOnes 16) (fun _ y =>
      if y.wait == .fbar then { y.advance (nextPc y.pc 1) false with wait := .none } else y) with
    fbarArrived := false }
/-- Releases a slot whose fibres have all arrived (R37). -/
def CoreState.settleFbar (k : CoreState) (slot : Nat) : CoreState :=
  let fs := [4 * slot, 4 * slot + 1, 4 * slot + 2, 4 * slot + 3]
  if fs.all (fun f => !(k.fibre f).resident || (k.fibre f).atFbar) &&
      fs.any (fun f => (k.fibre f).resident) then
    fs.foldl (fun k f => if (k.fibre f).resident then k.setFibre f (k.fibre f).passFbar else k) k
  else k

/-! ### Ending quads and fibres (R174) -/

/-- The active lanes of a quad exit: lanes still to run, or parked at a regang point, go on; a
quad with no lane left ends (R20, R171, R174). `fuel` bounds the records. -/
def Quad.exitFrom : Nat → Quad → Quad
  | 0, y => { y with active := 0, ended := true, wait := .none }
  | fuel + 1, y =>
    match y.stack with
    | [] => { y with active := 0, ended := true, wait := .none }
    | r :: rest =>
      if r.pend ≠ 0 then
        { y.jump r.fall with active := r.pend, stack := { r with pend := 0 } :: rest }
      else if r.mask ≠ 0 then
        { y.jump r.point with active := 0, stack := r :: rest }
      else Quad.exitFrom fuel { y with stack := rest }

/-- `exit` of one quad (R174). -/
def Quad.exit (y : Quad) : Quad :=
  let e := y.active
  Quad.exitFrom (y.stack.length + 1)
    { y with stack := y.stack.map (fun r => { r with mask := r.mask &&& ~~~e }) }

/-- The fibre has ended: its units return to the pool, nothing of it waits (R174). -/
def Fibre.finish (x : Fibre) : Fibre :=
  { x with run := .exited, handler := Option.none, scrollTrap := Option.none,
           monitor := Option.none, stopSoon := Option.none, stepping := 0, fbarArrived := false,
           regs := { x.regs with units := 0 }, eq := { x.eq with held := [] },
           quads := x.quads.map (fun e => (e.1, { e.2 with ended := true, active := 0, wait := .none })) }

/-- Every fibre of a block has ended. -/
def CoreState.blockEnded (k : CoreState) (b : Nat) : Bool :=
  k.fibres.all (fun e => e.2.block != b || !e.2.resident)
/-- The waiting nodes of a block whose fibres have all ended are discarded (R309). -/
def CoreState.discardNodes (k : CoreState) (b : Nat) : CoreState :=
  if k.blockEnded b then
    k.setBlock b { k.block b with nodes := (k.block b).nodes.filter (fun e => e.2.state == .launched) }
  else k
/-- The end of a fibre, seen by its slot and block (R37, R174). -/
def State.endFibre (s : State) (c f : Nat) : State :=
  (s.modFibre c f Fibre.finish).modCore c (fun k =>
    (k.settleFbar (f / 4)).discardNodes (k.fibre f).block)

/-- After quads of a fibre have arrived or ended: rejoins, leaves a handler, ends the fibre. -/
def State.settle (s : State) (c f : Nat) : State :=
  let s1 := s.modFibre c f (fun x => x.settleRegang.settleTret)
  if (s1.fibre c f).allEnded then s1.endFibre c f else s1

/-! ### Ascents (R310 to R316, R363) -/

/-- The table entry of an ascent id, if the id names its present generation (R310). -/
def Ascents.find (a : Ascents) (id : DWord) : Option Ascent :=
  let e := Tab.get Ascent.absent a.table (id.toNat % 4096)
  if e.generation = id.toNat / 4096 ∧ e.generation ≠ 0 then some e else none
def Ascents.put (a : Ascents) (id : DWord) (e : Ascent) : Ascents :=
  { a with table := Tab.set Ascent.absent a.table (id.toNat % 4096) e }
/-- An ascent closes: it takes its place in the order of reuse (R310). -/
def Ascents.close (a : Ascents) (id : DWord) (e : Ascent) (st : AscentStage) : Ascents :=
  { (a.put id { e with stage := st, stack := [], closed := a.closeCount + 1 }) with
    closeCount := a.closeCount + 1 }
/-- A rip that the table performs (R311). -/
def Ascents.rip (a : Ascents) (id : DWord) (e : Ascent) : Ascents :=
  if e.stack.isEmpty then a.close id e .done else a.put id { e with stage := .ripping }
/-- Rips every ascent of a list that is still open (R318, R363). -/
def Ascents.ripOpen (a : Ascents) : List DWord → Ascents
  | [] => a
  | id :: rest =>
    match a.find id with
    | some e => if e.stage = .opened then (a.rip id e).ripOpen rest else a.ripOpen rest
    | none => a.ripOpen rest

/-! ### Ending launches (R179, R363, R393) -/

/-- A block that belongs to a launch and is not run for an ascent. -/
def Block.ofLaunch (b : Block) (part : Nat) (lid : BitVec 32) : Bool :=
  b.part == part && b.lid == lid &&
  match b.role with
  | .compensation _ _ _ => false
  | .owner _ => false
  | _ => true

/-- A fibre ends with its launch: its queued engine commands are cancelled (R179). -/
def Fibre.cancelled (x : Fibre) : Fibre :=
  { x.finish with eq := { x.eq with cmds := [], held := [], outstanding := [] },
                  lq := { x.lq with q4 := [] } }

/-- Every fibre of the launch on one core ends; commands held for emulation are discarded (R380),
waiting nodes too (R309). -/
def CoreState.endLaunch (k : CoreState) (part : Nat) (lid : BitVec 32) : CoreState :=
  let mine (b : Nat) : Bool := (k.block b).stage != .empty && (k.block b).ofLaunch part lid
  { k with
    fibres := k.fibres.map (fun e => (e.1, if mine e.2.block && e.2.resident then e.2.cancelled else e.2)),
    blocks := k.blocks.map (fun e =>
      (e.1, if e.2.stage != .empty && e.2.ofLaunch part lid then { e.2 with nodes := [] } else e.2)),
    eng := { k.eng with matrix := k.eng.matrix.filter (fun a => !(a.held && mine (k.fibre a.fib).block)) } }

/-- A launch ends other than by `exit`: its fibres end, and its open ascents are ripped (R179,
R363, R393). The first end that firmware handles stands. -/
def State.endLaunch (s : State) (part : Nat) (lid : BitVec 32) (info : EndInfo) (rip : Bool) : State :=
  match s.launch? part lid with
  | none => s
  | some l =>
    if l.ending.isSome || l.stage == .ended then s
    else
      let s1 := s.setLaunch { l with ending := some info, stage := .running, tend := s.time }
      { s1 with
        cores := s1.cores.map (fun e => (e.1, e.2.endLaunch part lid)),
        pairs := s1.pairs.map (fun e => (e.1, { e.2 with
          leadBuf := if (s.block e.2.lead.1 e.2.lead.2).ofLaunch part lid then [] else e.2.leadBuf,
          trailBuf := if (s.block e.2.lead.1 e.2.lead.2).ofLaunch part lid then [] else e.2.trailBuf })),
        asc := if rip then s1.asc.ripOpen l.opened else s1.asc }

/-- An end that reports no fault (END 1 or 4). -/
def EndInfo.plain (endCode : Nat) (code : BitVec 16) : EndInfo :=
  { endCode := endCode, abcode := code, blockX := 0, blockY := 0, slot := 0, fibre := 0, cause := 0,
    cause2 := 0, pc := 0, lanes := 0 }

/-- A compensation or owner block ends alone: an entry fails with 0xFFFF (R364, R365). (DEDUCED: log entry 24) -/
def State.endSpecial (s : State) (c f : Nat) : State :=
  let b := (s.fibre c f).block
  let k := s.block c b
  let s1 := match k.role with
    | .compensation a q _ => s.setBlock c b { k with role := .compensation a q (some 0xFFFF) }
    | _ => s
  s1.endFibre c f

/-- The work of a fibre ends by ABORT (R347, R354, R364, R379, R433): the launch, or the one block
that runs for an ascent. (DEDUCED: log entry 24) -/
def State.abortWork (s : State) (c f : Nat) (info : EndInfo) : State :=
  let k := s.block c (s.fibre c f).block
  match k.role with
  | .compensation _ _ _ => s.endSpecial c f
  | .owner _ => s.endSpecial c f
  | _ => s.endLaunch k.part k.lid info true

/-- Uncorrectable control state of a fibre: the event of CAUSE 0x80 with the row of R433 and its
ABCODE, and the end of the fibre's work. -/
def State.abortControl (s : State) (c f row : Nat) (code : BitVec 16) (pc : VAddr) : State :=
  (s.postEvent c f 0x80 false pc 0 (BitVec.ofNat 64 (row + 2 ^ 16 * code.toNat))).abortWork c f
    (EndInfo.plain 4 code)

end Sys2Proof.Machine
end

