-- ==== Sys2Proof/Machine/Operands.lean ====
section
/-! DEFINITION. Operands of lane instructions: register and queue sources, operand B, destinations,
last use, poison (R80 to R89, R114 to R116, R195, R198), and the one frame in which a lane instruction
runs. -/

namespace Sys2Proof.Machine

/-! ### Queues (R86 to R89, R268, R270, R284) -/

/-- Rows of 64 values. -/
def LaneVec.at (v : LaneVec) (i : Nat) : PX := v.getD i PX.zero

/-- The number of entries of a queue of the issuing fibre (R86, R267). -/
def State.queueLength (s : State) (q : Nat) : Nat :=
  let x := s.cur
  match q with
  | 4 => x.lq.q4.length
  | 5 => x.lq.q5.length
  | 12 => x.lq.q12.length
  | 13 => x.lq.q13.length
  | _ =>
    if q < 4 then (Tab.get [] x.eq.recs q).length
    else (Tab.get [] (s.slot s.focus.core s.curSlotNo).queues q).length

/-- The front entry of a queue, as values by lane (R87, R88). -/
def State.queueFront (s : State) (q : Nat) : LaneVec :=
  let x := s.cur
  match q with
  | 5 => x.lq.q5.headD []
  | 13 => (x.lq.q13.head?.map SfuResult.vals).getD []
  | _ =>
    if q < 4 then
      match Tab.get [] x.eq.recs q with
      | r :: _ => List.replicate 64 (PX.clean r)
      | [] => []
    else (Tab.get [] (s.slot s.focus.core s.curSlotNo).queues q).headD []

/-- Removes the front entry of a queue. (DEDUCED: log entry 25) -/
def State.popQueue (s : State) (q : Nat) : State :=
  let x := s.cur
  match q with
  | 5 => s.setCur { x with lq := { x.lq with q5 := x.lq.q5.drop 1 } }
  | 13 => s.setCur { x with lq := { x.lq with q13 := x.lq.q13.drop 1 } }
  | _ =>
    if q < 4 then
      s.setCur { x with eq := { x.eq with recs := Tab.set [] x.eq.recs q ((Tab.get [] x.eq.recs q).drop 1) } }
    else
      let k := s.slot s.focus.core s.curSlotNo
      s.setSlot s.focus.core s.curSlotNo
        { k with queues := Tab.set [] k.queues q ((Tab.get [] k.queues q).drop 1) }

/-- Slot `n` is claimed by the block of the issuing fibre (R281). -/
def State.claimed (s : State) (n : Nat) : Bool :=
  Tab.get 0 s.curCore.mem.claims n == s.cur.block + 1

/-- Appends an entry to `q4` (at the fill cursor) or to a queue of the slot (R284). (DEDUCED: log entry 25) -/
def State.pushQueue (s : State) (q : Nat) (v : LaneVec) : State :=
  if q = 4 then
    let x := s.cur
    match x.lq.cursor with
    | some (slot, row) =>
      s.setCur { x with lq := { x.lq with
        q4 := x.lq.q4 ++ [{ slot := slot, row := row, vals := v }],
        cursor := some (if row = 16 then (slot + 1, 0) else (slot, row + 1)),
        uncovered := if x.lq.uncovered.contains slot then x.lq.uncovered
                     else x.lq.uncovered ++ [slot] } }
    | none => s
  else
    let k := s.slot s.focus.core s.curSlotNo
    s.setSlot s.focus.core s.curSlotNo
      { k with queues := Tab.set [] k.queues q (Tab.get [] k.queues q ++ [v]) }

/-- A wait of R31 that is not a mere stall (R32). (DEDUCED: log entry 75) -/
def Wait.long : Wait → Bool
  | .none => false
  | .stall => false
  | .entering => false
  | .resuming => false
  | _ => true

/-- Every other fibre of the slot has exited or is frozen by a double fault, and every other gang of
the issuing fibre waits (R270). -/
def State.alone (s : State) : Bool :=
  let f := s.focus.fib
  let others := [4 * (f / 4), 4 * (f / 4) + 1, 4 * (f / 4) + 2, 4 * (f / 4) + 3].filter (· != f)
  others.all (fun g => !(s.curCore.fibre g).resident || (s.curCore.fibre g).run == .frozen 0x13) &&
  (List.range 16).all (fun q => s.focus.quads.getLsbD q || (s.cur.quad q).ended ||
    (s.cur.quad q).wait.long)

/-- No entry can ever reach an empty queue (R270). -/
def State.orphanPop (s : State) (q : Nat) : Bool :=
  let x := s.cur
  match q with
  | 5 => Tab.get 0 x.eq.outstanding 5 == 0
  | 13 => x.lq.q12.isEmpty && x.lq.sfuHeld.isNone
  | _ =>
    if q < 4 then Tab.get 0 x.eq.outstanding q == 0 && (Tab.get [] x.eq.held q).isEmpty
    else (s.slot s.focus.core s.curSlotNo).closed.getLsbD (q - 8) || s.alone

/-- Whether a queue operation may go on, waits, or traps. -/
inductive QueueCheck where
  | go
  | block (w : Wait)
  | trap (cause : BitVec 8)
  deriving DecidableEq, Repr

def State.checkPop (s : State) (q : Nat) : QueueCheck :=
  if s.queueLength q ≠ 0 then .go
  else if s.orphanPop q then .trap 0x09
  else .block (.pop q)

/-- A push, after `freed` entries of the same queue are popped (R87). -/
def State.checkPush (s : State) (q freed : Nat) : QueueCheck :=
  let full := decide (16 + freed ≤ s.queueLength q)
  if q = 4 then
    match s.cur.lq.cursor with
    | some (slot, _) => if !s.claimed slot then .trap 0x01 else if full then .block (.push 4) else .go
    | none => .trap 0x01
  else if q = 12 then (if full then .block (.push 12) else .go)
  else if (s.slot s.focus.core s.curSlotNo).closed.getLsbD (q - 8) then .trap 0x09
  else if full then (if s.alone then .trap 0x09 else .block (.push q))
  else .go

/-- The first check that does not let the instruction go on. -/
def QueueCheck.all : List QueueCheck → QueueCheck
  | [] => .go
  | .go :: rest => QueueCheck.all rest
  | c :: _ => c

/-! ### Fields -/

/-- The registers, as numbers, that a lane-register field covers. -/
def fldRegs (k : Fld) (n : Nat) : List Nat :=
  let ofPair (p : Bool) : List Nat := if 240 ≤ n then [] else if p then [n, n + 1] else [n]
  match k with
  | .src p => ofPair p
  | .dst p => ofPair p
  | .sfu p => ofPair p
  | _ => []

/-- The queue that a field names, as a source. -/
def fldPopped (k : Fld) (n : Nat) : List Nat :=
  match k with
  | .src _ => if 240 ≤ n then [n - 240] else []
  | _ => []
/-- The queue that a field names, as a destination. -/
def fldPushed (k : Fld) (n : Nat) : List Nat :=
  match k with
  | .dst _ => if 240 ≤ n then [n - 240] else []
  | .sfu _ => if 240 ≤ n then [n - 240] else []
  | _ => []

/-- VB as a field: no register where operand B is an immediate or a scalar (R115). -/
def vbFld (sh : Shape) (f : LaneFields) : Fld :=
  if sh.kind && f.m2 != 0 then .zero else sh.vb

/-- Every lane register that the instruction names is held (R82). -/
def State.holdsFields (s : State) (f : LaneFields) (sh : Shape) : Bool :=
  (fldRegs sh.vd f.vd.toNat ++ fldRegs sh.va f.va.toNat ++ fldRegs (vbFld sh f) f.vb.toNat ++
    fldRegs sh.vc f.vc.toNat).all s.holds

/-- The queues popped, each once (R87). -/
def popsOf (sh : Shape) (f : LaneFields) : List Nat :=
  (fldPopped sh.va f.va.toNat ++ fldPopped (vbFld sh f) f.vb.toNat ++ fldPopped sh.vc f.vc.toNat).eraseDups

/-- Queue checks of an instruction (R87, R89, R270). -/
def State.queueCheck (s : State) (f : LaneFields) (sh : Shape) : QueueCheck :=
  let pops := popsOf sh f
  QueueCheck.all (pops.map s.checkPop ++
    (fldPushed sh.vd f.vd.toNat).map (fun q => s.checkPush q (if pops.contains q then 1 else 0)))

/-! ### Source values -/

/-- A lane register or pair in a lane (R80). -/
def State.laneVal (s : State) (n : Nat) (pair : Bool) (i : Nat) : PX :=
  let lo := s.lane n i
  if pair then
    let hi := s.lane (n + 1) i
    ⟨hi.bits ++ lo.bits, lo.poison || hi.poison⟩
  else ⟨lo.bits.setWidth 64, lo.poison⟩

/-- A source field in a lane: register, pair or queue entry (R80, R88). (DEDUCED: log entry 25) -/
def State.sourceVal (s : State) (k : Fld) (n : Nat) (i : Nat) : PX :=
  match k with
  | .src p =>
    if 240 ≤ n then
      let e := (s.queueFront (n - 240)).at i
      if p then e else ⟨(e.bits.setWidth 32).setWidth 64, e.poison⟩
    else s.laneVal n p i
  | _ => PX.zero

/-- An immediate operand B (R115): sign-extended for 64-bit types, but zero-extended for `.n64` and
`.b64`; bits past the operand width are ignored by its use. -/
def immB (f : LaneFields) : DWord :=
  if f.ty = 22 ∨ f.ty = 24 ∨ !isWide f.ty.toNat then f.imm.setWidth 64 else f.imm.signExtend 64

/-- What a lane instruction reads: its lanes, those available as sources, its operands by lane. -/
structure LaneCtx where
  part : LaneMask
  avail : LaneMask
  a : Nat → PX
  b : Nat → PX
  c : Nat → PX
  /-- The destination's old value, where it is read. -/
  d : Nat → PX
  /-- Predicates named by VA, VB and VC. -/
  pa : LaneMask
  pb : LaneMask
  pc : LaneMask
  seed : Nat → Word

/-- What a lane receives: its value, its exception bits, its stepped seed. A lane that does not
participate receives nothing: it stands for a combination of cross-lane work computed there. -/
structure LaneOut where
  lane : Nat
  val : PX
  flags : BitVec 32
  seed : Option Word
  deriving DecidableEq, Repr

/-- A result without exception or poison. -/
def LaneOut.plain (i : Nat) (x : Nat) : LaneOut := ⟨i, PX.clean (BitVec.ofNat 64 x), 0, none⟩
/-- A result with exception bits. -/
def LaneOut.res (i : Nat) (r : Res) : LaneOut := ⟨i, PX.clean (BitVec.ofNat 64 r.1), r.2, none⟩

/-- How a lane instruction computes. -/
structure LaneSpec where
  /-- Its lane sources carry poison instead of consuming it (R198). -/
  carrier : Bool := false
  /-- It reads its destination register as a source. -/
  readsDest : Bool := false
  compute : LaneCtx → List LaneOut

/-- Sources consume their poison. -/
def consuming (g : LaneCtx → List LaneOut) : LaneSpec := { compute := g }
/-- Sources carry their poison. -/
def carrying (g : LaneCtx → List LaneOut) : LaneSpec := { carrier := true, compute := g }

/-! ### Destinations -/

/-- The value of a lane, or zero where the list has none. -/
def outAt (outs : List LaneOut) (i : Nat) : PX :=
  match outs.find? (fun o => o.lane == i) with
  | some o => o.val
  | none => PX.zero

/-- Writes results to the lanes of a register or pair, to a predicate, or pushes them (R87, R195). -/
def State.writeDest (s : State) (k : Fld) (n : Nat) (outs : List LaneOut) : State :=
  let reg (pair : Bool) : State :=
    if 240 ≤ n then s.pushQueue (n - 240) (allLanes.map (outAt outs))
    else
      let s1 := s.setLanes n (outs.map (fun o => (o.lane, ⟨o.val.bits.setWidth 32, o.val.poison⟩)))
      if pair then
        s1.setLanes (n + 1) (outs.map (fun o => (o.lane, ⟨o.val.bits.extractLsb' 32 32, o.val.poison⟩)))
      else s1
  match k with
  | .dst p => reg p
  | .sfu p => reg p
  | .predDst =>
    let m := maskOf (fun i => outs.any (fun o => o.lane == i))
    let v := maskOf (fun i => outs.any (fun o => o.lane == i && o.val.bits.getLsbD 0))
    s.modCur (fun x => x.setPred n m v)
  | _ => s

/-- Registers that last use leaves undefined: not the destination, not a queue, not a shared-window
register (R116). -/
def State.lastUsed (s : State) (f : LaneFields) (sh : Shape) : List Nat :=
  let dest := fldRegs sh.vd f.vd.toNat
  ((if f.lua then fldRegs sh.va f.va.toNat else []) ++
   (if f.lub then fldRegs (vbFld sh f) f.vb.toNat else []) ++
   (if f.luc then fldRegs sh.vc f.vc.toNat else [])).filter
    (fun r => !dest.contains r && (!s.curBlock.inWindow r || (decide (224 ≤ r) && s.cur.handler.isSome)))

/-- Predicates under last use (R116). -/
def lastUsedPreds (f : LaneFields) (sh : Shape) : List Nat :=
  let p (b : Bool) (k : Fld) (n : Nat) : List Nat :=
    match k with
    | .pred => if b && n != 0 && n != 15 then [n] else []
    | .predOpt => if b && n != 0 then [n] else []
    | _ => []
  (p f.lua sh.va f.va.toNat ++ p f.lub (vbFld sh f) f.vb.toNat ++ p f.luc sh.vc f.vc.toNat).filter
    (fun n => !(sh.vd == .predDst && f.vd.toNat == n))

/-- Gives free values to the registers and predicates under last use, in the participating lanes
(R11, R116). -/
def State.dropLastUse (s : State) (f : LaneFields) (sh : Shape) (part : LaneMask) : State :=
  let regs := s.lastUsed f sh
  let preds := lastUsedPreds f sh
  if regs.isEmpty && preds.isEmpty then s
  else
    let n := s.fresh
    let s1 := regs.foldl (fun s r =>
      s.setLanes r ((lanesIn part).map (fun i => (i, PW.clean (Config.free32 n (64 * r + i)))))) s
    let s2 := preds.foldl (fun s p =>
      s.modCur (fun x => x.setPred p part (maskOf (fun i => Config.freeBool n (64 * p + i))))) s1
    { s2 with fresh := s2.fresh + 1 }

/-! ### The frame of a lane instruction -/

/-- The context in which an instruction computes, before any lane dies. -/
def State.laneCtx (s : State) (f : LaneFields) (sh : Shape) (bScalar : DWord) (part : LaneMask) :
    LaneCtx :=
  { part := part, avail := s.gangLanes,
    a := s.sourceVal sh.va f.va.toNat,
    b := if sh.kind && f.m2 == 1 then fun _ => PX.clean (immB f)
         else if sh.kind && f.m2 == 3 then fun _ => PX.clean bScalar
         else s.sourceVal sh.vb f.vb.toNat,
    c := s.sourceVal sh.vc f.vc.toNat,
    d := fun i =>
      match sh.vd with
      | .dst p => if 240 ≤ f.vd.toNat then PX.zero else s.laneVal f.vd.toNat p i
      | _ => PX.zero,
    pa := s.cur.pred (f.va.toNat % 16), pb := s.cur.pred (f.vb.toNat % 16),
    pc := s.cur.pred (f.vc.toNat % 16),
    seed := fun i => Tab.get 0 s.cur.sys.rseed i }

/-- Operand B where it is a scalar, consuming its poison (R80, R158). -/
def State.scalarB (s : State) (f : LaneFields) (sh : Shape) : DWord × State :=
  if sh.kind && f.m2 == 3 then s.useScalar (f.vb.toNat % 64) else (0, s)

/-- The lanes of `part` whose sources hold poison that the instruction consumes (R198). -/
def LaneSpec.dying (sp : LaneSpec) (x : LaneCtx) : LaneMask :=
  if sp.carrier then 0
  else maskOf (fun i => x.part.getLsbD i &&
    ((x.a i).poison || (x.b i).poison || (x.c i).poison || (sp.readsDest && (x.d i).poison)))

/-- Exceptions for which the launch enables a trap, as `CHKI` bits (R77, R235). -/
def State.enabledTraps (s : State) : BitVec 32 :=
  s.ofLaunch 0 (fun l => BitVec.ofNat 32 (l.fpTrap * 16) ||| (if l.idzTrap then 0xC else 0))

/-- Lanes with an exception of a set. -/
def lanesWith (outs : List LaneOut) (m : BitVec 32) : LaneMask :=
  maskOf (fun i => outs.any (fun o => o.lane == i && (o.flags &&& m) != 0))

/-- Every exception of a list of results. -/
def allFlags (outs : List LaneOut) : BitVec 32 := outs.foldl (fun a o => a ||| o.flags) 0

/-- An enabled exception in the entry of `q13` that the instruction would pop (R235). -/
def State.popTrap (s : State) (f : LaneFields) (sh : Shape) : LaneMask :=
  if (popsOf sh f).contains 13 then
    match s.cur.lq.q13 with
    | r :: _ => r.raised.foldl (fun a e => if e.2 &&& s.enabledTraps = 0 then a else a ||| e.1) 0
    | [] => 0
  else 0

/-- Results are written: queues popped, exceptions recorded, seeds stepped, the destination written
or pushed, last-use registers undefined. (DEDUCED: log entry 9) -/
def State.commitLanes (s : State) (f : LaneFields) (sh : Shape) (part : LaneMask)
    (outs : List LaneOut) : State :=
  let s1 := (popsOf sh f).foldl State.popQueue s
  let s2 := s1.orChki (allFlags outs)
  let seeds := outs.filterMap (fun o => o.seed.map (fun w => (o.lane, w)))
  let s3 := if seeds.isEmpty then s2 else
    s2.modCur (fun x => { x with sys := { x.sys with rseed := Tab.setAll 0 x.sys.rseed seeds } })
  (s3.dropLastUse f sh part).writeDest sh.vd f.vd.toNat (outs.filter (fun o => part.getLsbD o.lane))

/-- The frame of a lane instruction: `cont` receives the state with the dying lanes dead, the
participating lanes that are left and the results, once nothing stops the instruction. -/
def State.laneFrame (s : State) (i : Instr) (f : LaneFields) (sh : Shape) (sp : LaneSpec)
    (cont : State → LaneMask → List LaneOut → State) : State :=
  if !s.holdsFields f sh then s.trap 0x01 (s.participating f.pg f.pn) i
  else
    let (bv, s1) := s.scalarB f sh
    let part0 := s1.participating f.pg f.pn
    if part0 = 0 then s1.retire i
    else if sh.long && s1.flagFull f.fs then s1.wait .stall
    else
      match s1.queueCheck f sh with
      | .block w => s1.wait w
      | .trap c => s1.trap c part0 i
      | .go =>
        if s1.popTrap f sh ≠ 0 then s1.trap 0x0D (s1.popTrap f sh) i
        else
          let x := s1.laneCtx f sh bv part0
          let dying := sp.dying x
          let part := part0 &&& ~~~dying
          let outs := sp.compute { x with part := part, avail := x.avail &&& ~~~dying }
          let s2 := s1.modCur (fun y => y.kill dying)
          let raised := allFlags outs &&& s2.enabledTraps
          if raised ≠ 0 then
            (s2.orChki (allFlags outs)).trap (if raised &&& 0xC = 0 then 0x0D else 0x0C)
              (lanesWith outs s2.enabledTraps &&& s2.gangLanes) i
          else cont s2 part outs

/-- A lane instruction that writes its results. -/
def State.runLanes (s : State) (i : Instr) (f : LaneFields) (sh : Shape) (sp : LaneSpec) : State :=
  s.laneFrame i f sh sp (fun s2 part outs =>
    let s3 := s2.commitLanes f sh part outs
    (if sh.long then s3.selectFlag f.fs else s3).retire i)

/-- Results computed lane by lane. -/
def eachLane (g : LaneCtx → Nat → LaneOut) : LaneCtx → List LaneOut :=
  fun x => (lanesIn x.part).map (g x)

/-- A lane instruction whose lanes compute by themselves. -/
def State.runEach (s : State) (i : Instr) (f : LaneFields) (sh : Shape)
    (g : LaneCtx → Nat → LaneOut) : State :=
  s.runLanes i f sh { compute := eachLane g }

end Sys2Proof.Machine
end

