-- ==== Sys2Proof/Machine/Lanes.lean ====
section
/-! DEFINITION. Lane arithmetic (R200 to R210): integer and shared operations, floating point and the
special functions, with the special-function unit. -/

namespace Sys2Proof.Machine

/-- The outcome of a meaning. -/
abbrev Out := Host.Outcome State Fault Refusal

/-- The type code of a lane instruction is an unsigned integer type (R117). -/
def unsignedTy (ty : Nat) : Bool := decide (19 ≤ ty)
/-- A float type (R196). -/
def floatTy (ty : Nat) : Bool := decide (ty < 4)

/-- A result of the operand width as its register holds it: `.i8` and `.i16` are sign-extended to 32
bits, everything else is zero-extended (R196). -/
def place (ty x : Nat) : Nat :=
  if ty = 9 then wrapInt 32 (toSigned 8 x)
  else if ty = 16 then wrapInt 32 (toSigned 16 x)
  else x % 2 ^ tyWidth ty

/-- The operand bits of a value (R196). -/
def opBits (ty : Nat) (x : PX) : Nat := x.bits.toNat % 2 ^ tyWidth ty
/-- The integer an operand stands for (R200). -/
def opInt (ty : Nat) (x : PX) : Int := toInteger (tyWidth ty) (unsignedTy ty) (opBits ty x)
/-- Operand B of a shift or bit-field instruction: one 32-bit value (R200). -/
def opShift (x : PX) : Nat := x.bits.toNat % 2 ^ 32

/-- A lane's result in a type, from an integer. -/
def outInt (ty i : Nat) (v : Int) : LaneOut := LaneOut.plain i (place ty (wrapInt (tyWidth ty) v))
/-- A lane's result in a type, from a float operation. -/
def outRes (ty i : Nat) (r : Res) : LaneOut := LaneOut.res i (place ty r.1, r.2)

/-- An operation of two operands, integer or float by its type (R200, R204). -/
def binary (ty md : Nat) (int : Int → Int → Int) (flt : Fmt → Nat → Nat → Nat → Res)
    (x : LaneCtx) (i : Nat) : LaneOut :=
  if floatTy ty then outRes ty i (flt (fmtOfType ty) md (opBits ty (x.a i)) (opBits ty (x.b i)))
  else outInt ty i (int (opInt ty (x.a i)) (opInt ty (x.b i)))

/-- An operation of one operand. -/
def unaryOp (ty : Nat) (int : Int → Int) (flt : Fmt → Nat → Res) (x : LaneCtx) (i : Nat) : LaneOut :=
  if floatTy ty then outRes ty i (flt (fmtOfType ty) (opBits ty (x.a i)))
  else outInt ty i (int (opInt ty (x.a i)))

/-- A bitwise operation of W-bit values. -/
def bitwise (ty : Nat) (g : Nat → Nat → Nat → Nat) (x : LaneCtx) (i : Nat) : LaneOut :=
  LaneOut.plain i (place ty (g (tyWidth ty) (opBits ty (x.a i)) (opBits ty (x.b i))))

/-- A shift of a W-bit value by b mod W (R200). -/
def shifted (ty : Nat) (g : Nat → Nat → Nat → Nat) (x : LaneCtx) (i : Nat) : LaneOut :=
  let w := tyWidth ty
  LaneOut.plain i (place ty (g w (opBits ty (x.a i)) (opShift (x.b i) % w)))

def execAdd (f : LaneFields) (s : State) : Out :=
  .next (s.runEach (.add f) f (Shape.arithF f) (binary f.ty.toNat f.m1.toNat (· + ·) fAdd))
def execSub (f : LaneFields) (s : State) : Out :=
  .next (s.runEach (.sub f) f (Shape.arithF f) (binary f.ty.toNat f.m1.toNat (· - ·) fSub))
def execMul (f : LaneFields) (s : State) : Out :=
  .next (s.runEach (.mul f) f (Shape.arithF f) (binary f.ty.toNat f.m1.toNat (· * ·) fMul))

/-- High W bits of the exact product (R200). -/
def laneMulh (ty : Nat) (x : LaneCtx) (i : Nat) : LaneOut :=
  let w := tyWidth ty
  outInt ty i (opInt ty (x.a i) * opInt ty (x.b i) / ((2 ^ w : Nat) : Int))
def execMulh (f : LaneFields) (s : State) : Out :=
  .next (s.runEach (.mulh f) f (Shape.arith tysMulh false f) (laneMulh f.ty.toNat))

/-- The exact 2W-bit product (R200). -/
def laneMulw (ty : Nat) (x : LaneCtx) (i : Nat) : LaneOut :=
  LaneOut.plain i (wrapInt (2 * tyWidth ty) (opInt ty (x.a i) * opInt ty (x.b i)))
def execMulw (f : LaneFields) (s : State) : Out :=
  .next (s.runEach (.mulw f) f (Shape.mulw f) (laneMulw f.ty.toNat))

def laneMad (ty : Nat) (x : LaneCtx) (i : Nat) : LaneOut :=
  outInt ty i (opInt ty (x.a i) * opInt ty (x.b i) + opInt ty (x.c i))
def execMad (f : LaneFields) (s : State) : Out :=
  .next (s.runEach (.mad f) f (Shape.mad f) (laneMad f.ty.toNat))

/-- `addx` and `subx`: pC is the carry in and the carry out (R201). -/
def State.runCarry (s : State) (i : Instr) (f : LaneFields) (minus : Bool) : State :=
  let ty := f.ty.toNat
  let sum (x : LaneCtx) (n : Nat) : Nat × Bool :=
    carrySum minus ty (opBits ty (x.a n)) (opBits ty (x.b n)) (x.pc.getLsbD n)
  let sh := Shape.carry f
  s.laneFrame i f sh
    { compute := fun x => (lanesIn x.part).map (fun n =>
        ⟨n, PX.clean (BitVec.ofNat 64 (sum x n).1), 0, if (sum x n).2 then some 1 else some 0⟩) }
    (fun s2 part outs =>
      -- the carry out travels in the result's last field, which holds no seed here
      let carry := maskOf (fun n => outs.any (fun o => o.lane == n && o.seed == some 1))
      let s3 := s2.commitLanes f sh part (outs.map (fun o => { o with seed := none }))
      (s3.modCur (fun y => y.setPred (f.vc.toNat % 16) part carry)).retire i)
def execAddx (f : LaneFields) (s : State) : Out := .next (s.runCarry (.addx f) f false)
def execSubx (f : LaneFields) (s : State) : Out := .next (s.runCarry (.subx f) f true)

/-- Quotient and remainder with the `CHKI` bit of R76, from W-bit operands. -/
def divide (w : Nat) (u : Bool) (a b : Nat) : Nat × Nat × BitVec 32 :=
  let x := toInteger w u a
  let y := toInteger w u b
  if y = 0 then
    ((if u then 2 ^ w - 1 else if 0 ≤ x then 2 ^ (w - 1) - 1 else 2 ^ (w - 1)), a % 2 ^ w, chkiIdz)
  else if !u ∧ x = -((2 ^ (w - 1) : Nat) : Int) ∧ y = -1 then (a % 2 ^ w, 0, chkiIovf)
  else (wrapInt w (x.tdiv y), wrapInt w (x.tmod y), 0)

def laneDiv (rem : Bool) (ty : Nat) (x : LaneCtx) (i : Nat) : LaneOut :=
  let r := divide (tyWidth ty) (unsignedTy ty) (opBits ty (x.a i)) (opBits ty (x.b i))
  outRes ty i (if rem then r.2.1 else r.1, r.2.2)
def execDiv (f : LaneFields) (s : State) : Out :=
  .next (s.runEach (.div f) f (Shape.arith intTys true f) (laneDiv false f.ty.toNat))
def execRem (f : LaneFields) (s : State) : Out :=
  .next (s.runEach (.rem f) f (Shape.arith intTys true f) (laneDiv true f.ty.toNat))

def execAbs (f : LaneFields) (s : State) : Out :=
  .next (s.runEach (.abs f) f (Shape.unary intFloat f) (unaryOp f.ty.toNat (fun a => (a.natAbs : Int)) fAbs))
def execNeg (f : LaneFields) (s : State) : Out :=
  .next (s.runEach (.neg f) f (Shape.unary intFloat f) (unaryOp f.ty.toNat (fun a => -a) fNeg))
def execMin (f : LaneFields) (s : State) : Out :=
  .next (s.runEach (.min f) f (Shape.arith intFloat false f)
    (binary f.ty.toNat 0 (fun a b => if a ≤ b then a else b) (fun m _ a b => fMinMax false m a b)))
def execMax (f : LaneFields) (s : State) : Out :=
  .next (s.runEach (.max f) f (Shape.arith intFloat false f)
    (binary f.ty.toNat 0 (fun a b => if a ≤ b then b else a) (fun m _ a b => fMinMax true m a b)))

/-- |a - b| + c, modulo 2^32 (R200). -/
def laneSad (ty : Nat) (x : LaneCtx) (i : Nat) : LaneOut :=
  LaneOut.plain i (((opInt ty (x.a i) - opInt ty (x.b i)).natAbs + (x.c i).bits.toNat % 2 ^ 32) % 2 ^ 32)
def execSad (f : LaneFields) (s : State) : Out :=
  .next (s.runEach (.sad f) f (Shape.sad f) (laneSad f.ty.toNat))

def execAnd (f : LaneFields) (s : State) : Out :=
  .next (s.runEach (.and f) f (Shape.arith bitTys false f) (bitwise f.ty.toNat (fun _ a b => a &&& b)))
def execOr (f : LaneFields) (s : State) : Out :=
  .next (s.runEach (.or f) f (Shape.arith bitTys false f) (bitwise f.ty.toNat (fun _ a b => a ||| b)))
def execXor (f : LaneFields) (s : State) : Out :=
  .next (s.runEach (.xor f) f (Shape.arith bitTys false f) (bitwise f.ty.toNat (fun _ a b => a ^^^ b)))
def execNot (f : LaneFields) (s : State) : Out :=
  .next (s.runEach (.not f) f (Shape.unary bitTys f) (bitwise f.ty.toNat (fun w a _ => 2 ^ w - 1 - a)))
def execShl (f : LaneFields) (s : State) : Out :=
  .next (s.runEach (.shl f) f (Shape.shift bitTys f) (shifted f.ty.toNat (fun _ a n => a * 2 ^ n)))
def execShr (f : LaneFields) (s : State) : Out :=
  .next (s.runEach (.shr f) f (Shape.shift bitTys f) (shifted f.ty.toNat (fun _ a n => a / 2 ^ n)))
def execSra (f : LaneFields) (s : State) : Out :=
  .next (s.runEach (.sra f) f (Shape.shift [17, 18] f)
    (shifted f.ty.toNat (fun w a n => wrapInt w (toSigned w a / ((2 ^ n : Nat) : Int)))))
def execRot (f : LaneFields) (s : State) : Out :=
  .next (s.runEach (.rot f) f (Shape.shift bitTys f)
    (shifted f.ty.toNat (fun w a n => a * 2 ^ n % 2 ^ w + a / 2 ^ (w - n))))
def execClz (f : LaneFields) (s : State) : Out :=
  .next (s.runEach (.clz f) f (Shape.count f)
    (fun x i => LaneOut.plain i (leadingZeros (tyWidth f.ty.toNat) (opBits f.ty.toNat (x.a i)))))
def execPopc (f : LaneFields) (s : State) : Out :=
  .next (s.runEach (.popc f) f (Shape.count f)
    (fun x i => LaneOut.plain i (popCount (tyWidth f.ty.toNat) (opBits f.ty.toNat (x.a i)))))
def execBrev (f : LaneFields) (s : State) : Out :=
  .next (s.runEach (.brev f) f (Shape.unary bitTys f)
    (bitwise f.ty.toNat (fun w a _ => bitsBelow (fun j => a.testBit (w - 1 - j)) w)))

/-- Position, effective length and mask of a bit-field control value at width W (R163, R202). -/
def fieldOf (w c : Nat) : Nat × Nat × Nat :=
  let pos := c % 64
  let len := if c / 256 % 128 < w then c / 256 % 128 else w
  let eff := if w ≤ pos then 0 else if len < w - pos then len else w - pos
  (pos, eff, 2 ^ eff - 1)
/-- `bfe` at width W (R163, R202). -/
def bitExtract (w : Nat) (signed : Bool) (a c : Nat) : Nat :=
  let (pos, eff, _) := fieldOf w c
  let v := a / 2 ^ pos % 2 ^ eff
  if signed && decide (0 < eff) && decide (eff < w) then wrapInt w (toSigned eff v) else v
/-- `bfi` at width W: a's low bits put into d (R163, R202). -/
def bitInsert (w : Nat) (d a c : Nat) : Nat :=
  let (pos, eff, _) := fieldOf w c
  putBits d pos eff a % 2 ^ w

def execBfe (f : LaneFields) (s : State) : Out :=
  .next (s.runEach (.bfe f) f (Shape.shift tysMulh f) (fun x i =>
    LaneOut.plain i (place f.ty.toNat (bitExtract (tyWidth f.ty.toNat) (!unsignedTy f.ty.toNat)
      (opBits f.ty.toNat (x.a i)) (opShift (x.b i))))))
def execBfi (f : LaneFields) (s : State) : Out :=
  .next (s.runEach (.bfi f) f (Shape.bfi f) (fun x i =>
    LaneOut.plain i (place f.ty.toNat (bitInsert (tyWidth f.ty.toNat) (opBits f.ty.toNat (x.c i))
      (opBits f.ty.toNat (x.a i)) (opShift (x.b i))))))

/-- `sel` carries the poison of the operand that it selects (R198, R200). -/
def laneSel (ty : Nat) (x : LaneCtx) (i : Nat) : LaneOut :=
  let v := if x.pc.getLsbD i then x.a i else x.b i
  ⟨i, ⟨BitVec.ofNat 64 (place ty (opBits ty v)), v.poison⟩, 0, none⟩
def execSel (f : LaneFields) (s : State) : Out :=
  .next (s.runLanes (.sel f) f (Shape.sel f) { carrier := true, compute := eachLane (laneSel f.ty.toNat) })

/-- `cmp` (R203). -/
def laneCmp (ty cc : Nat) (x : LaneCtx) (i : Nat) : LaneOut :=
  if floatTy ty then
    let r := fCmp (fmtOfType ty) cc (opBits ty (x.a i)) (opBits ty (x.b i))
    LaneOut.res i (boolBit r.1, r.2)
  else LaneOut.plain i (boolBit (intCmp cc (opInt ty (x.a i)) (opInt ty (x.b i))))
def execCmp (f : LaneFields) (s : State) : Out :=
  .next (s.runEach (.cmp f) f (Shape.cmp f) (laneCmp f.ty.toNat f.m1.toNat))

/-! ### Floating point and special functions -/

def execFma (f : LaneFields) (s : State) : Out :=
  .next (s.runEach (.fma f) f (Shape.fma f) (fun x i =>
    let ty := f.ty.toNat
    outRes ty i (fFma (fmtOfType ty) f.m1.toNat (opBits ty (x.a i)) (opBits ty (x.b i)) (opBits ty (x.c i)))))

/-- A special function into a register, or its operand into `q12` with the flag it selects (R206,
R207). -/
def State.runSpecial (s : State) (i : Instr) (f : LaneFields) (tys : List Nat) (op : Nat) : State :=
  let ty := f.ty.toNat
  let sh := Shape.special tys f
  if f.vd = 252 then
    s.laneFrame i f sh { compute := eachLane (fun x n => LaneOut.plain n (opBits ty (x.a n))) }
      (fun s2 part outs =>
        let e : SfuEntry := { op := op, ty := ty, md := f.m1.toNat, args := allLanes.map (outAt outs),
                              lanes := part, flag := s2.flagFor f.fs }
        let s3 := ((popsOf sh f).foldl State.popQueue s2).dropLastUse f sh part
        let s4 := s3.modCur (fun y =>
          let y := { y with lq := { y.lq with q12 := y.lq.q12 ++ [e] } }
          match e.flag with
          | some n => y.incFlag n
          | none => y)
        s4.retire i)
  else
    s.runEach i f sh (fun x n =>
      outRes ty n (special op (fmtOfType ty) f.m1.toNat (opBits ty (x.a n))))

def execSqrt (f : LaneFields) (s : State) : Out := .next (s.runSpecial (.sqrt f) f floatTys 0x041)
def execRcp (f : LaneFields) (s : State) : Out := .next (s.runSpecial (.rcp f) f floatTys 0x042)
def execRsq (f : LaneFields) (s : State) : Out := .next (s.runSpecial (.rsq f) f [0, 1, 2] 0x043)
def execExp2 (f : LaneFields) (s : State) : Out := .next (s.runSpecial (.exp2 f) f [0, 1, 2] 0x044)
def execLog2 (f : LaneFields) (s : State) : Out := .next (s.runSpecial (.log2 f) f [0, 1, 2] 0x045)
def execSin (f : LaneFields) (s : State) : Out := .next (s.runSpecial (.sin f) f [0, 1, 2] 0x046)
def execCos (f : LaneFields) (s : State) : Out := .next (s.runSpecial (.cos f) f [0, 1, 2] 0x047)
def execTanh (f : LaneFields) (s : State) : Out := .next (s.runSpecial (.tanh f) f [0, 1, 2] 0x048)

/-- A computed result enters `q13`, or is held back while that is full; its flag clears when it has
entered (R207). -/
def Fibre.enterSfu (x : Fibre) (r : SfuResult) (flag : Option Nat) : Fibre :=
  if 16 ≤ x.lq.q13.length then { x with lq := { x.lq with sfuHeld := some (r, flag) } }
  else
    let y := { x with lq := { x.lq with q13 := x.lq.q13 ++ [r], sfuHeld := none } }
    match flag with
    | some n => y.decFlag n
    | none => y

/-- The special-function unit computes the front entry of `q12`, unless a result is held back (R207). -/
def Fibre.computeSfu (x : Fibre) : Fibre :=
  match x.lq.sfuHeld with
  | some (r, flag) => x.enterSfu r flag
  | none =>
    match x.lq.q12 with
    | [] => x
    | e :: rest =>
      let r (n : Nat) : Res := special e.op (fmtOfType e.ty) e.md (e.args.at n).bits.toNat
      let outs := (lanesIn e.lanes).map (fun n => outRes e.ty n (r n))
      let raised := [fFio, fFdz, fFof, fFuf, fFnx].map (fun b => (lanesWith outs b, b))
      let y := { x.orChki (allFlags outs) with lq := { x.lq with q12 := rest } }
      y.enterSfu { vals := allLanes.map (outAt outs), raised := raised.filter (fun p => p.1 != 0) } e.flag
def execSfuCompute (core fib : Nat) (s : State) : Out := .next (s.modFibre core fib Fibre.computeSfu)

def execClassTest (f : LaneFields) (s : State) : Out :=
  .next (s.runEach (.classTest f) f (Shape.classTest f) (fun x i =>
    let ty := f.ty.toNat
    LaneOut.plain i (boolBit ((opShift (x.b i)).testBit (fClass (fmtOfType ty) (opBits ty (x.a i)))))))
def execFrnd (f : LaneFields) (s : State) : Out :=
  .next (s.runEach (.frnd f) f (Shape.frnd f)
    (unaryOp f.ty.toNat id (fun m a => fRnd m f.m1.toNat a)))
def execFscl (f : LaneFields) (s : State) : Out :=
  .next (s.runEach (.fscl f) f (Shape.fscl f) (fun x i =>
    let ty := f.ty.toNat
    outRes ty i (fScl (fmtOfType ty) f.m1.toNat (opBits ty (x.a i)) (toSigned 32 (opShift (x.b i))))))

end Sys2Proof.Machine
end

