-- ==== Sys2Proof/Machine/Convert.lean ====
section
/-! DEFINITION. Conversion and quantisation in lanes, codebook codes and the Hadamard transform
(R69, R211 to R218). -/

namespace Sys2Proof.Machine

/-- The stepped seed where the mode is stochastic (R69). -/
def seedAfter (md : Nat) (w : Word) : Word := if md = 4 then stepSeed w else w
/-- The bits that decide a stochastic rounding (R69). -/
def seedTop (w : Word) : Nat := w.toNat / 256
/-- The stepped seed, to be written where the mode is stochastic. -/
def seedOut (md : Nat) (w : Word) : Option Word := if md = 4 then some w else none

/-- A conversion's result in a lane, placed by R196. -/
def outConv (ty md i : Nat) (w : Word) (c : Conv) : LaneOut :=
  ⟨i, PX.clean (BitVec.ofNat 64 (place ty c.code)), c.flags, seedOut md w⟩

/-- The value of an operand in a type (R212). -/
def opValue (ty : Nat) (x : PX) : FVal := (fmtOfType ty).value (opBits ty x)

def execCvt (f : LaneFields) (s : State) : Out :=
  .next (s.runEach (.cvt f) f (Shape.cvt f) (fun x i =>
    let md := f.m1.toNat
    let w := seedAfter md (x.seed i)
    outConv f.ty.toNat md i w
      (convert (fmtOfType f.ty.toNat) md (seedTop w) false (opValue f.vc.toNat (x.a i)))))

/-- `pack` (R213): two elements put into the destination word. -/
def lanePack (f : LaneFields) (x : LaneCtx) (i : Nat) : LaneOut :=
  let md := f.m1.toNat
  let ty := f.ty.toNat
  let e := tyWidth ty
  let at' := e * (2 * (f.imm.toNat % 4))
  let w1 := seedAfter md (x.seed i)
  let ya := convert (fmtOfType ty) md (seedTop w1) false (opValue f.vc.toNat (x.a i))
  let w2 := seedAfter md w1
  let yb := convert (fmtOfType ty) md (seedTop w2) false (opValue f.vc.toNat (x.b i))
  let old := (x.d i).bits.toNat % (if e = 6 then 2 ^ 24 else 2 ^ 32)
  let v := putBits (putBits old at' e ya.code) (at' + e) e yb.code
  ⟨i, PX.clean (BitVec.ofNat 64 v), ya.flags ||| yb.flags, seedOut md w2⟩
def execPack (f : LaneFields) (s : State) : Out :=
  .next (s.runLanes (.pack f) f (Shape.pack f) { readsDest := true, compute := eachLane (lanePack f) })

/-- `unpk` (R214): one element of a packed word, exactly. -/
def execUnpk (f : LaneFields) (s : State) : Out :=
  .next (s.runEach (.unpk f) f (Shape.unpk f) (fun x i =>
    let e := tyWidth f.vc.toNat
    let code := bitsAt (x.a i).bits.toNat (e * (f.imm.toNat % 8)) e
    outConv f.ty.toNat 0 i 0 (convert (fmtOfType f.ty.toNat) 0 0 false ((fmtOfType f.vc.toNat).value code))))

/-- `qnt` and `dqnt` (R215, R216). -/
def laneScaled (f : LaneFields) (sat : Bool) (x : LaneCtx) (i : Nat) : LaneOut :=
  let md := f.m1.toNat
  let w := seedAfter md (x.seed i)
  outConv f.ty.toNat md i w
    (fScaled (fmtOfType f.ty.toNat) md (seedTop w) sat (opValue f.vc.toNat (x.a i)) (opValue 0 (x.b i)))
def execQnt (f : LaneFields) (s : State) : Out :=
  .next (s.runEach (.qnt f) f (Shape.qnt f) (laneScaled f true))
def execDqnt (f : LaneFields) (s : State) : Out :=
  .next (s.runEach (.dqnt f) f (Shape.dqnt f) (laneScaled f false))

/-- Entry `x` of codebook `c` of a core (R64). -/
def CoreMem.codebook (m : CoreMem) (c x : Nat) : FVal :=
  Fmt.fp16.value (Tab.get 0 m.codebooks (16 * c + x)).toNat

def execCbq (f : LaneFields) (s : State) : Out :=
  .next (s.runEach (.cbq f) f (Shape.cbq f) (fun x i =>
    LaneOut.res i (fCbq f.m1.toNat (opBits 0 (x.a i)) (opBits 0 (x.b i))
      (s.curCore.mem.codebook (f.imm.toNat % 16)))))

/-! ### The Hadamard transform (R218) -/

/-- The values and exception bits of the lanes, by index. -/
abbrev HadRow := List Res

/-- One stage of the transform: sums and differences of partners that both take part. -/
def hadStage (part : LaneMask) (st : Nat) (x : HadRow) : HadRow :=
  allLanes.map (fun i =>
    let mine := x.getD i (0, 0)
    let low := i / 2 ^ st % 2 == 0
    let j := if low then i + 2 ^ st else i - 2 ^ st
    if part.getLsbD i && part.getLsbD j then
      let other := x.getD j (0, 0)
      let r := if low then fAdd .fp32 0 mine.1 other.1 else fSub .fp32 0 other.1 mine.1
      (r.1, mine.2 ||| r.2)
    else mine)

/-- The five stages and the final scaling. -/
def hadamard (part : LaneMask) (unscaled : Bool) (a : Nat → Nat) : HadRow :=
  let x := [0, 1, 2, 3, 4].foldl (fun x st => hadStage part st x) (allLanes.map (fun i => (a i, 0)))
  if unscaled then x
  else x.map (fun r =>
    let m := fMul .fp32 0 r.1 0x3E3504F3
    (m.1, r.2 ||| m.2))

def laneHad (unscaled : Bool) (x : LaneCtx) : List LaneOut :=
  let r := hadamard x.part unscaled (fun i => opBits 0 (x.a i))
  (lanesIn x.part).map (fun i => LaneOut.res i (r.getD i (0, 0)))
def execHad32 (f : LaneFields) (s : State) : Out :=
  .next (s.runLanes (.had32 f) f Shape.had32 { compute := laneHad (f.m1.getLsbD 0) })

end Sys2Proof.Machine
end

