-- ==== Sys2Proof/Machine/CrossLane.lean ====
section
/-! DEFINITION. Cross-lane instructions, moves, predicates and lane identity (R219 to R232). -/

namespace Sys2Proof.Machine

/-! ### Shuffles and exchange (R219 to R221) -/

/-- Each participating lane reads lane `src i`, where that lane is available; the value carries
poison (R198, R219). -/
def gather (ty : Nat) (src : Nat → Option Nat) (x : LaneCtx) : List LaneOut :=
  (lanesIn x.part).filterMap (fun i =>
    match src i with
    | some j =>
      if decide (j < 64) && x.avail.getLsbD j then
        some ⟨i, ⟨BitVec.ofNat 64 (opBits ty (x.a j)), (x.a j).poison⟩, 0, none⟩
      else none
    | none => none)

/-- A gathering instruction: its lane sources carry poison. -/
def State.runGather (s : State) (i : Instr) (f : LaneFields) (sh : Shape)
    (src : LaneCtx → Nat → Option Nat) : State :=
  s.runLanes i f sh (carrying (fun x => gather f.ty.toNat (src x) x))

/-- The offset of `shfx`, `shfd` and `shfu` (R220). -/
def shuffleOffset (f : LaneFields) (x : LaneCtx) (i : Nat) : Nat :=
  if f.m2 = 1 then
    (if f.imm.getLsbD 31 then Config.width / 2 ^ (f.imm.toNat % 32) else f.imm.toNat % 2 ^ 31)
  else opShift (x.b i)

def execShfl (f : LaneFields) (s : State) : Out :=
  .next (s.runGather (.shfl f) f (Shape.shfl f) (fun x i => some (opShift (x.b i) % Config.width)))
def execShfx (f : LaneFields) (s : State) : Out :=
  .next (s.runGather (.shfx f) f (Shape.shuffle f) (fun x i => some (i ^^^ shuffleOffset f x i)))
def execShfd (f : LaneFields) (s : State) : Out :=
  .next (s.runGather (.shfd f) f (Shape.shuffle f) (fun x i => some (i + shuffleOffset f x i)))
def execShfu (f : LaneFields) (s : State) : Out :=
  .next (s.runGather (.shfu f) f (Shape.shuffle f) (fun x i =>
    if shuffleOffset f x i ≤ i then some (i - shuffleOffset f x i) else none))

/-- The partner of a lane in its quad: east-west, north-south or diagonal (R221). -/
def execQx (f : LaneFields) (s : State) : Out :=
  .next (s.runGather (.qx f) f (Shape.qx f) (fun _ i =>
    some (i ^^^ (if f.m1 = 0 then 1 else if f.m1 = 1 then 8 else 9))))

def execBcst (f : LaneFields) (s : State) : Out :=
  .next (s.runGather (.bcst f) f (Shape.unary bitTys f) (fun x _ => lowestLane x.part))

/-! ### Votes, reductions and scans (R222 to R224) -/

/-- The result of a vote over the members present: a truth value, or a mask (R222). -/
def voteResult (op : Nat) (present p : LaneMask) : Nat :=
  let yes := present &&& p
  match op with
  | 0 => boolBit (yes == present)
  | 1 => boolBit (yes != 0)
  | 2 => boolBit (yes == present || yes == 0)
  | _ => yes.toNat

def execVote (f : LaneFields) (s : State) : Out :=
  let sh := Shape.vote f
  let members (x : LaneCtx) : LaneMask := if f.m2 = 1 then f.imm.signExtend 64 else (x.b 0).bits
  let compute (x : LaneCtx) : List LaneOut :=
    let present := members x &&& x.part
    -- whether a member is absent travels in the last field, which holds no seed here
    let absent : Word := if members x &&& ~~~present = 0 then 0 else 1
    (lanesIn x.part).map (fun i =>
      ⟨i, PX.clean (BitVec.ofNat 64 (voteResult f.m1.toNat present x.pa)), 0, some absent⟩)
  .next (s.laneFrame (.vote f) f sh (consuming (compute)) (fun s2 part outs =>
    let absent := outs.any (fun o => o.seed == some 1)
    let s3 := s2.commitLanes f sh part (outs.map (fun o => { o with seed := none }))
    (if f.vc = 0 then s3
     else s3.modCur (fun y => y.setPred f.vc.toNat part (if absent then BitVec.allOnes 64 else 0))).retire
      (.vote f)))

/-- `comb` of R223 on W-bit values, with the exceptions of a float combination. -/
def comb (op ty a b : Nat) : Res :=
  let w := tyWidth ty
  match op with
  | 0 => if floatTy ty then fAdd (fmtOfType ty) 0 a b else ((a + b) % 2 ^ w, 0)
  | 1 =>
    if floatTy ty then fMinMax false (fmtOfType ty) a b
    else (if toInteger w (unsignedTy ty) a ≤ toInteger w (unsignedTy ty) b then a else b, 0)
  | 2 =>
    if floatTy ty then fMinMax true (fmtOfType ty) a b
    else (if toInteger w (unsignedTy ty) a ≤ toInteger w (unsignedTy ty) b then b else a, 0)
  | 3 => (a &&& b, 0)
  | 4 => (a ||| b, 0)
  | _ => (a ^^^ b, 0)

/-- A value that may be absent, and the exceptions met at its place. -/
abbrev Part := Option Nat × BitVec 32

/-- One level of the tree: place j combines with place j + h (R223). -/
def combLevel (op ty h : Nat) (v : List Part) : List Part :=
  (List.range 64).map (fun j =>
    let x := v.getD j (none, 0)
    if j < h then
      let y := v.getD (j + h) (none, 0)
      match x.1, y.1 with
      | some a, some b =>
        let r := comb op ty a b
        (some r.1, x.2 ||| r.2)
      | some a, none => (some a, x.2)
      | none, b => (b, x.2)
    else x)

def laneReduce (op ty : Nat) (x : LaneCtx) : List LaneOut :=
  let leaves : List Part := (List.range 64).map (fun j =>
    (if x.part.getLsbD j then some (opBits ty (x.a j)) else none, 0))
  let tree := [32, 16, 8, 4, 2, 1].foldl (fun v h => combLevel op ty h v) leaves
  let r := ((tree.getD 0 (none, 0)).1).getD 0
  allLanes.filterMap (fun i =>
    let fl := (tree.getD i (none, 0)).2
    if x.part.getLsbD i || fl != 0 then some (LaneOut.res i (r, fl)) else none)
def execLred (f : LaneFields) (s : State) : Out :=
  .next (s.runLanes (.lred f) f (Shape.reduce false f)
    (consuming (laneReduce (f.m1.toNat % 8) f.ty.toNat)))

/-- The identity of an exclusive scan (R224). -/
def scanIdentity (op ty : Nat) : Nat :=
  let w := tyWidth ty
  match op with
  | 1 => if floatTy ty then (convert (fmtOfType ty) 0 0 false (.inf false)).code
         else if unsignedTy ty then 2 ^ w - 1 else 2 ^ (w - 1) - 1
  | 2 => if floatTy ty then (convert (fmtOfType ty) 0 0 false (.inf true)).code
         else if unsignedTy ty then 0 else 2 ^ (w - 1)
  | 3 => 2 ^ w - 1
  | _ => 0

/-- The scan over the lanes that are left (R224). -/
def scanFrom (op ty : Nat) (excl : Bool) (a : Nat → Nat) : Option Nat → List Nat → List LaneOut
  | _, [] => []
  | none, j :: rest =>
    LaneOut.plain j (if excl then scanIdentity op ty else a j) ::
      scanFrom op ty excl a (some (a j)) rest
  | some acc, j :: rest =>
    let r := comb op ty acc (a j)
    LaneOut.res j (if excl then acc else r.1, r.2) :: scanFrom op ty excl a (some r.1) rest
def execScan (f : LaneFields) (s : State) : Out :=
  .next (s.runLanes (.scan f) f (Shape.reduce true f) (consuming (fun x =>
    scanFrom (f.m1.toNat % 8) f.ty.toNat (f.m1.getLsbD 3) (fun j => opBits f.ty.toNat (x.a j)) none
      (lanesIn x.part))))

/-! ### Between scalars and lanes (R226, R227) -/

/-- The lane that operand B names (R226). -/
def laneIndex (f : LaneFields) (x : LaneCtx) : Nat := opBits f.ty.toNat (x.b 0)

def execVext (f : LaneFields) (s : State) : Out :=
  let sh := Shape.vext f
  let compute (x : LaneCtx) : List LaneOut :=
    let j := laneIndex f x
    if decide (j < 64) && x.avail.getLsbD j then
      [⟨j, ⟨ext64 (tyWidth f.ty.toNat) (f.ty != 17) (opBits f.ty.toNat (x.a j)), (x.a j).poison⟩, 0, none⟩]
    else []
  .next (s.laneFrame (.vext f) f sh (carrying (compute)) (fun s2 part outs =>
    let s3 := s2.commitLanes f sh part []
    (match outs with
     | o :: _ => s3.modCur (fun y => y.setScalar (f.vd.toNat % 64) o.val)
     | [] => s3).retire (.vext f)))

def execVins (f : LaneFields) (s : State) : Out :=
  let sh := Shape.vins f
  if !s.holdsFields f sh then .next (s.trap 0x01 (s.participating f.pg f.pn) (.vins f))
  else
    let (v, s1) := s.useScalar (f.va.toNat % 64)
    .next (s1.runLanes (.vins f) f sh (consuming (fun x =>
      if decide (laneIndex f x < 64) && x.part.getLsbD (laneIndex f x) then
        [LaneOut.plain (laneIndex f x) (v.toNat % 2 ^ tyWidth f.ty.toNat)]
      else [])))

/-! ### Moves and predicates (R228 to R231) -/

def execMov (f : LaneFields) (s : State) : Out :=
  .next (s.runLanes (.mov f) f (Shape.mov f) (carrying (eachLane (fun x i =>
    ⟨i, ⟨BitVec.ofNat 64 (opBits f.ty.toNat (x.b i)), (x.b i).poison⟩, 0, none⟩))))

/-- `movi` (R229): the lower half stays, with its poison. -/
def execMovi (f : LaneFields) (s : State) : Out :=
  let sh := Shape.movi f
  let low (x : LaneCtx) (i : Nat) : LaneOut :=
    ⟨i, ⟨BitVec.ofNat 64 ((x.d i).bits.toNat % 2 ^ 16 + f.imm.toNat % 2 ^ 16 * 2 ^ 16), (x.d i).poison⟩, 0, none⟩
  let high (x : LaneCtx) (i : Nat) : LaneOut := LaneOut.plain i (f.imm.toNat * 2 ^ 32 + (x.d i).bits.toNat % 2 ^ 32)
  if f.ty = 24 then
    .next (s.laneFrame (.movi f) f sh (carrying (eachLane high)) (fun s2 part outs =>
      if f.vd.toNat < 240 then
        (s2.setLanes (f.vd.toNat + 1) ((lanesIn part).map (fun i => (i, PW.clean f.imm)))).retire (.movi f)
      else (s2.commitLanes f sh part outs).retire (.movi f)))
  else
    .next (s.runLanes (.movi f) f sh (carrying (eachLane low)))

/-- `movs` (R230). -/
def execMovs (f : LaneFields) (s : State) : Out :=
  .next (s.runEach (.movs f) f (Shape.movs f) (fun x i =>
    LaneOut.plain i
      (if f.imm = 0 then (x.seed i).toNat
       else if f.imm = 1 then boolBit (s.cur.sys.trapLanes.getLsbD i)
       else boolBit (s.cur.helpers.getLsbD i))))

def execPset (f : LaneFields) (s : State) : Out :=
  .next (s.runEach (.pset f) f (Shape.pset f) (fun x i =>
    LaneOut.plain i (boolBit ((x.a i).bits.toNat.testBit (opShift (x.b i) % 32)))))

/-- A predicate instruction (R231). -/
def predOp (g : Bool → Bool → Bool) (x : LaneCtx) (i : Nat) : LaneOut :=
  LaneOut.plain i (boolBit (g (x.pa.getLsbD i) (x.pb.getLsbD i)))
def execPand (f : LaneFields) (s : State) : Out :=
  .next (s.runEach (.pand f) f Shape.pred2 (predOp (fun a b => a && b)))
def execPor (f : LaneFields) (s : State) : Out :=
  .next (s.runEach (.por f) f Shape.pred2 (predOp (fun a b => a || b)))
def execPxor (f : LaneFields) (s : State) : Out :=
  .next (s.runEach (.pxor f) f Shape.pred2 (predOp (fun a b => a != b)))
def execPnot (f : LaneFields) (s : State) : Out :=
  .next (s.runEach (.pnot f) f Shape.pred1 (predOp (fun a _ => !a)))
def execPmov (f : LaneFields) (s : State) : Out :=
  .next (s.runEach (.pmov f) f Shape.pred1 (predOp (fun a _ => a)))

/-! ### Identity (R12, R13, R232) -/

def execLid (f : LaneFields) (s : State) : Out :=
  .next (s.runEach (.lid f) f Shape.ident (fun _ i => LaneOut.plain i i))

/-- The plane position of lane 0 of a block: its logical core, or its grid position where the launch
has no plane (R12, R232). -/
def State.originOf (s : State) (c b : Nat) : Nat × Nat :=
  let k := s.block c b
  match s.launchOf c b with
  | some l => if l.depth = 0 then (8 * k.bx, 8 * k.by') else (8 * k.cx, 8 * k.cy)
  | none => (8 * k.bx, 8 * k.by')

def execPxy (f : LaneFields) (s : State) : Out :=
  let o := s.originOf s.focus.core s.cur.block
  .next (s.runEach (.pxy f) f Shape.ident (fun _ i =>
    LaneOut.plain i ((o.2 + i / 8) % 2 ^ 16 * 2 ^ 16 + (o.1 + i % 8) % 2 ^ 16)))

end Sys2Proof.Machine
end

