-- ==== Sys2Proof/Machine/Ports.lean ====
section
/-! DEFINITION. Global memory as a fibre reaches it: translated ranges, reads and writes, release
records, watchpoints, and the ports through which lead and trail pairs read and write (R241, R253, R331,
R383, R411, R438 to R442, R460). -/

namespace Sys2Proof.Machine

/-! ### Ranges of virtual addresses -/

/-- A run of bytes within one page, translated; poison on read (R241). -/
structure Piece where
  addr : Nat
  len : Nat
  por : Bool
  deriving DecidableEq, Repr

/-- Translates a range page by page: the failing address with its reason, or its pieces (R411).
`fuel` bounds the pages. -/
def State.pieces (s : State) (c : Nat) (asid : BitVec 16) (kind : AccessKind) :
    Nat → Nat → Nat → Except (Nat × Nat) (List Piece)
  | 0, _, _ => .ok []
  | fuel + 1, va, n =>
    if n = 0 then .ok []
    else
      let m := min n (4096 - va % 4096)
      match s.translate c asid va kind with
      | .error r => .error (va, r)
      | .ok l =>
        match s.pieces c asid kind fuel (va + m) (n - m) with
        | .error e => .error e
        | .ok ps => .ok ({ addr := l.addr, len := m, por := l.por } :: ps)

/-- The pieces of a range of `n` bytes. -/
def State.range (s : State) (c : Nat) (asid : BitVec 16) (kind : AccessKind) (va n : Nat) :
    Except (Nat × Nat) (List Piece) := s.pieces c asid kind (n / 4096 + 2) va n

/-- The bytes of pieces. -/
def Memory.readPieces (m : Memory) (ps : List Piece) : List (BitVec 8) :=
  ps.flatMap (fun p => m.read p.addr p.len)
/-- Some byte of the pieces reads as poison (R241). -/
def Memory.piecesPoisoned (m : Memory) (ps : List Piece) : Bool :=
  ps.any (fun p => p.por || m.anyPoison p.addr p.len)
/-- The value that pieces hold, as a little-endian number with its poison. -/
def Memory.value (m : Memory) (ps : List Piece) : PX :=
  ⟨BitVec.ofNat 64 (ofBytes (m.readPieces ps)), m.piecesPoisoned ps⟩

/-! ### Writes -/

/-- Keeps the bits of a mask. -/
def keepBits (old new keep : BitVec 8) : BitVec 8 := (old &&& keep) ||| (new &&& ~~~keep)
/-- The bytes that a put writes over a memory. -/
def Put.bytesOver (p : Put) (m : Memory) : List (BitVec 8) :=
  if p.keep.isEmpty then p.bytes
  else (List.range p.bytes.length).map (fun k =>
    keepBits (m.byte (p.addr + k)) (p.bytes.getD k 0) (p.keep.getD k 0))
/-- One write of physical memory. -/
def State.put (s : State) (p : Put) (r : ReleaseAction) : State :=
  s.writeMem p.addr (p.bytesOver s.mem) p.poison r
def State.putAll (s : State) (ps : List Put) (r : ReleaseAction) : State :=
  ps.foldl (fun s p => s.put p r) s
/-- The same write, on a memory alone. -/
def Memory.apply (m : Memory) (p : Put) : Memory := m.write p.addr (p.bytesOver m) p.poison .keep

/-- The puts that write bytes to pieces, first to last. -/
def putsTo (poison : Bool) : List Piece → List (BitVec 8) → List (BitVec 8) → List Put
  | [], _, _ => []
  | p :: rest, bs, keep =>
    { addr := p.addr, bytes := bs.take p.len, keep := keep.take p.len, poison := poison } ::
      putsTo poison rest (bs.drop p.len) (keep.drop p.len)

/-! ### Release records (R253, R331) -/

/-- What a write does to the release record: `.rel` at a scope marks it, another write clears it. -/
def State.releaseOf (s : State) (c f : Nat) (release : Bool) (scope : Nat) : ReleaseAction :=
  if release then
    .mark { core := c, die := dieOf c, device := s.device.toNat, slot := f / 4, fibre := f % 4,
            scope := scope }
  else .clear

/-- The releaser G lies inside a scope counted from a fibre F, or F inside one counted from G. -/
def scopeHolds (scope c f device : Nat) (r : Release) : Bool :=
  if r.device = device then (Agent.fibre r.core (4 * r.slot + r.fibre)).inside scope c f
  else decide (5 ≤ scope)

/-- The record of a line drops the acquire of a fibre at a scope (R253). -/
def State.dropsAcquire (s : State) (c f scope addr : Nat) : Bool :=
  match Tab.get Option.none s.mem.releases (addr / 128) with
  | some r =>
    !(scopeHolds scope c f s.device.toNat r && scopeHolds r.scope c f s.device.toNat r)
  | Option.none => false

/-- A checked acquire of pieces drops its side effect. -/
def State.dropsAcquireOf (s : State) (c f scope : Nat) (ps : List Piece) : Bool :=
  ps.any (fun p => (List.range ((p.addr + p.len + 127) / 128 - p.addr / 128)).any (fun k =>
    s.dropsAcquire c f scope (p.addr / 128 * 128 + 128 * k)))

/-! ### Watchpoints (R382, R383) -/

/-- The enabled watch range that an access touches. -/
def CoreRegs.watchAt (r : CoreRegs) (va n : Nat) (load : Bool) : Option Nat :=
  (List.range 4).find? (fun k =>
    let w := Tab.get 0 r.dwa k
    let size := 2 ^ bitsAt w.toNat 57 5
    let base := bitsAt w.toNat 0 57 / size * size
    w.getLsbD 63 && (!load || w.getLsbD 62) && decide (va < base + size) && decide (base < va + n))

/-- The issuing fibre has made a global access: a watchpoint stops it before its next issue. -/
def State.watch (s : State) (va n : Nat) (load : Bool) : State :=
  if s.attached s.focus.core s.focus.fib && s.cur.stopSoon.isNone then
    match s.curCore.regs.watchAt va n load with
    | some k => s.modCur (fun x => { x with stopSoon := some (3 + 16 * k) })
    | none => s
  else s

/-! ### Pairs (R438 to R442, R460) -/

/-- A fibre within its block. -/
def Fibre.relative (x : Fibre) : Nat := 4 * x.bslot + x.index

/-- The part a fibre plays towards memory. -/
inductive Side where
  | alone
  | lead (p : Nat)
  | trail (p : Nat)
  deriving DecidableEq, Repr
def State.side (s : State) (c f : Nat) : Side :=
  match (s.block c (s.fibre c f).block).role with
  | .lead p => .lead p
  | .trail p => .trail p
  | _ => .alone

def Pair.absent : Pair :=
  { lead := (0, 0), trail := (0, 0), leadBuf := [], trailBuf := [], index := [], lvq := [],
    ready := [], snap := [], lastCkpt := 0, forced := false, busy := false, restoring := false,
    mismatched := Option.none, interval := 0, slack := 0 }
def State.pair (s : State) (p : Nat) : Pair := Tab.get Pair.absent s.pairs p
def State.setPair (s : State) (p : Nat) (x : Pair) : State :=
  { s with pairs := Tab.set Pair.absent s.pairs p x }

/-- Entries that wait in the load value queue (R439). (DEDUCED: log entry 32) -/
def Pair.queued (p : Pair) : Nat := p.lvq.length + p.ready.length
/-- Unmatched entries of a fibre of the lead (R441). (DEDUCED: log entry 32) -/
def Pair.unmatched (p : Pair) (f : Nat) : Nat := (p.leadBuf.filter (fun e => e.fib == f)).length

/-- The first forwarded entry of a fibre and kind, and the queue without it. -/
def takeForwarded (f : Nat) (kind : ForwardKind) : List Forwarded → Option (List PX × List Forwarded)
  | [] => none
  | e :: rest =>
    if e.fib = f ∧ e.kind = kind then some (e.vals, rest)
    else (takeForwarded f kind rest).map (fun r => (r.1, e :: r.2))

/-- A value from outside the block, as a fibre receives it (R439): read directly; read by a lead and
forwarded; taken by a trail. None where the fibre has to stall. (DEDUCED: log entries 36, 63) -/
def State.receive (s : State) (c f : Nat) (kind : ForwardKind) (g : State → List PX) :
    Option (List PX × State) :=
  let rel := (s.fibre c f).relative
  match s.side c f with
  | .alone => some (g s, s)
  | .lead p =>
    let q := s.pair p
    if 4096 ≤ q.queued then none
    else some (g s, s.setPair p { q with lvq := q.lvq ++ [{ fib := rel, kind := kind, vals := g s }] })
  | .trail p =>
    let q := s.pair p
    match takeForwarded rel kind q.ready with
    | some (vs, rest) => some (vs, s.setPair p { q with ready := rest })
    | none => none

/-- A checkpoint or a restore holds the pair of a fibre (R461). -/
def State.pairBusy (s : State) (c f : Nat) : Bool :=
  match s.side c f with
  | .lead p => (s.pair p).busy
  | .trail p => (s.pair p).busy
  | .alone => false
/-- A trail reads nothing outside its block (R439). -/
def State.isTrail (s : State) (c f : Nat) : Bool :=
  match s.side c f with
  | .trail _ => true
  | _ => false
/-- The fibre is not part of a pair. -/
def State.isAlone (s : State) (c f : Nat) : Bool :=
  match s.side c f with
  | .alone => true
  | _ => false

/-- Memory as a fibre reads it: a lead sees its own stores that have yet to match (R272). (DEDUCED: log entry 33) -/
def State.view (s : State) (c f : Nat) : Memory :=
  match s.side c f with
  | .lead p =>
    let rel := (s.fibre c f).relative
    ((s.pair p).leadBuf.filter (fun e => e.fib == rel)).foldl
      (fun m e => e.puts.foldl Memory.apply m) s.mem
  | _ => s.mem

/-- An atomic of the fibre that has yet to be performed touches pieces: the fibre's later loads wait
for it (R272, R442). (DEDUCED: log entry 33) -/
def State.onceAhead (s : State) (c f : Nat) (ps : List Piece) : Bool :=
  match s.side c f with
  | .lead p =>
    let rel := (s.fibre c f).relative
    (s.pair p).leadBuf.any (fun e => e.fib == rel &&
      (match e.once with
       | some (.atomic a) => ps.any (fun q => decide (q.addr < a.addr + 8) && decide (a.addr < q.addr + q.len))
       | _ => false))
  | _ => false

/-- The lead has reached SLACK (R441). (DEDUCED: log entry 64) -/
def State.slackFull (s : State) (c f : Nat) : Bool :=
  match s.side c f with
  | .lead p => decide ((s.pair p).slack ≤ (s.pair p).unmatched (s.fibre c f).relative)
  | _ => false

/-- Eight steps of the CRC-64 of ECMA-182 (R440). -/
def crcBits : Nat → Nat → Nat
  | 0, c => c
  | n + 1, c => crcBits n (if 2 ^ 63 ≤ c then (2 * c % 2 ^ 64) ^^^ 0x42F0E1EBA9EA3693 else 2 * c % 2 ^ 64)
/-- CRC-64, non-reflected, initial value 0, no final xor (R440). -/
def crc64 (bs : List (BitVec 8)) : DWord :=
  BitVec.ofNat 64 (bs.foldl (fun c b => crcBits 8 (c ^^^ (b.toNat * 2 ^ 56))) 0)
/-- The signature of an entry: address, operation and size, poison mask, data (R440, R460). (DEDUCED: log entry 62) -/
def entrySig (va opSize : Nat) (poison : Bool) (data : List (BitVec 8)) : DWord :=
  crc64 (bytesOf 8 va ++ [BitVec.ofNat 8 opSize, if poison then 1 else 0] ++ data)

/-- A global write of a fibre (R440): performed, or placed as an entry of its copy's buffer. -/
structure GlobalWrite where
  va : Nat
  opSize : Nat
  poison : Bool
  data : List (BitVec 8)
  puts : List Put
  action : ReleaseAction
  once : Option OnceOp
  deriving DecidableEq, Repr

def GlobalWrite.entry (w : GlobalWrite) (f : Nat) (lead : Bool) : CompareEntry :=
  { fib := f, sig := entrySig w.va w.opSize w.poison w.data, puts := if lead then w.puts else [],
    action := w.action, once := if lead then w.once else none }

/-- An armed injection makes the first granule that a core writes uncorrectable (R458). (DEDUCED: log entry 54) -/
def State.injectGlobal (s : State) (c : Nat) (addr : Option Nat) : State :=
  match addr with
  | some a =>
    if (s.core c).regs.armed 2 then
      { s.modCore c (fun k => { k with regs := k.regs.disarm }) with
        mem := s.mem.markPoison (a / 32 * 32) 32 true }
    else s
  | none => s
/-- A core's write of global memory. -/
def State.putFrom (s : State) (c : Nat) (ps : List Put) (r : ReleaseAction) : State :=
  (s.putAll ps r).injectGlobal c (ps.head?.map (fun p => p.addr))

/-- A global write of a fibre: performed, or placed as an entry of a copy's compare buffer. -/
def State.placeEntry (s : State) (c f : Nat) (w : GlobalWrite) : State :=
  let rel := (s.fibre c f).relative
  match s.side c f with
  | .alone => s.putFrom c w.puts w.action
  | .lead p =>
    let q := s.pair p
    s.setPair p { q with leadBuf := q.leadBuf ++ [w.entry rel true] }
  | .trail p =>
    let q := s.pair p
    s.setPair p { q with trailBuf := q.trailBuf ++ [w.entry rel false] }

/-- Results that the pair's compare logic will deliver (R442). (DEDUCED: log entry 34) -/
def State.owe (s : State) (c f : Nat) (o : Owed) : State :=
  s.modFibre c f (fun x => { x with owed := x.owed ++ [o] })

/-- The scalar and lane registers of an owed result that an instruction may touch. -/
def Owed.touches (o : Owed) (scalars lanes : List Nat) : Bool :=
  match o.dest with
  | .scalar n => scalars.contains n
  | .ripped n _ => scalars.contains n
  | .reg n p => lanes.contains n || (p && lanes.contains (n + 1))
  | .queue n => lanes.contains (240 + n)
  | .nothing => false

/-- Delivers the next value of an owed result of a fibre, and writes the whole result once it is
there (R439, R442). The first value goes to the lowest lane that waits; `scope` is the dropped
acquire of an atomic. (DEDUCED: log entry 36) -/
def State.deliverOwed (s : State) (c f : Nat) (v : PX) (scope : Bool) : State :=
  let x := s.fibre c f
  match x.owed with
  | [] => s
  | o :: rest =>
    let vals := o.vals ++ (o.lanes.take 1).map (fun i => (i, v))
    let s1 := if scope then s.modFibre c f (fun y => y.orChki chkiScope) else s
    if 1 < o.lanes.length then
      s1.modFibre c f (fun y => { y with owed := { o with vals := vals, lanes := o.lanes.drop 1 } :: rest })
    else
      let s2 := s1.modFibre c f (fun y =>
        let z := { y with owed := rest }
        match o.flag, o.dest with
        | some n, .ripped _ a =>
          if v.bits = 0 then z.decFlag n else { z with ops := z.ops ++ [.rip n a] }
        | some n, _ => z.decFlag n
        | none, _ => z)
      match o.dest with
      | .nothing => s2
      | .scalar n => s2.modFibre c f (fun y => y.setScalar n v)
      | .ripped n _ => s2.modFibre c f (fun y => y.setScalar n v)
      | .reg n p =>
        let s3 := s2.setLanesOf c f n (vals.map (fun e => (e.1, ⟨e.2.bits.setWidth 32, e.2.poison⟩)))
        if p then
          s3.setLanesOf c f (n + 1) (vals.map (fun e =>
            (e.1, ⟨e.2.bits.extractLsb' 32 32, e.2.poison⟩)))
        else s3
      | .queue n =>
        let row := allLanes.map (fun i =>
          match vals.find? (fun e => e.1 == i) with
          | some e => e.2
          | none => PX.zero)
        { (State.pushQueue { s2 with focus := ⟨c, f, 0⟩ } n row) with focus := s2.focus }

/-! ### Region starts of a pair (R443, R459) -/

/-- A checkpoint is to be taken at the next region start that passes the test: the first, a forced one,
or one whose interval has passed. `TIME` counts ns. -/
def Pair.due (q : Pair) (time : Nat) : Bool :=
  q.snap.isEmpty || q.forced || decide (1000 * q.interval ≤ time - q.lastCkpt)

/-- The pair of a fibre and the place of its other copy's block. -/
def State.otherCopy (s : State) (c f : Nat) : Option (Nat × Nat × Nat) :=
  match s.side c f with
  | .lead p => some (p, (s.pair p).trail)
  | .trail p => some (p, (s.pair p).lead)
  | .alone => none
/-- The twin of a fibre in the other copy. -/
def State.twin (s : State) (c f : Nat) : Option (Nat × Nat × Nat) :=
  match s.otherCopy c f with
  | some (p, c2, b2) =>
    ((s.core c2).fibres.find? (fun e => e.2.block == b2 && e.2.relative == (s.fibre c f).relative)).map
      (fun e => (p, c2, e.1))
  | none => none

/-- A fibre stands at a region start where the pair may take a checkpoint. (DEDUCED: log entry 63) -/
def Fibre.atStart (x : Fibre) : Bool := x.quads.any (fun e => e.2.wait == .checkpoint)
/-- A fibre that cannot reach another region start for now. -/
def Fibre.pastStarts (x : Fibre) : Bool :=
  !x.resident || x.quads.any (fun e => e.2.wait == .heldExit)
/-- The fibre passes the start at which it stands. -/
def Fibre.leaveStart (x : Fibre) : Fibre :=
  { x with passStart := true,
           quads := x.quads.map (fun e =>
             (e.1, if e.2.wait == .checkpoint then { e.2 with wait := .none } else e.2)) }
/-- No entry of a relative fibre waits for its twin. -/
def Pair.allMatched (q : Pair) (f : Nat) : Bool :=
  q.leadBuf.all (fun e => e.fib != f) && q.trailBuf.all (fun e => e.fib != f)

/-- What a gang does at a region start: it passes, in a state in which its twin may have been let
go, or it waits. -/
inductive StartTest where
  | pass (s : State)
  | hold
  deriving DecidableEq, Repr

/-- The test of R443, made when the later copy reaches the start. The copy that comes first waits
where a checkpoint is due. (DEDUCED: log entries 35, 63) -/
def State.startTest (s : State) (c f : Nat) : StartTest :=
  let x := s.fibre c f
  match s.twin c f with
  | none => .pass s
  | some (p, c2, f2) =>
    let q := s.pair p
    let y := s.fibre c2 f2
    if x.passStart || !q.due s.time.toNat || y.pastStarts || decide (x.regions < y.regions) then .pass s
    else if y.atStart && y.regions == x.regions && !q.allMatched x.relative then
      .pass (s.modFibre c2 f2 Fibre.leaveStart)
    else .hold
/-- A region start has been passed. -/
def Fibre.countStart (x : Fibre) : Fibre := { x with regions := x.regions + 1, passStart := false }

/-! ### Instructions that wait for an owed result -/

/-- The scalar registers that an instruction may name. -/
def namedScalars (i : Instr) : List Nat :=
  match i.form with
  | .reg _ f _ => [f.sd.toNat, f.sa.toNat, f.sb.toNat]
  | .imm _ f _ => [f.sd.toNat, f.sa.toNat]
  | .long _ f _ => [f.sd.toNat, f.sa.toNat]
  | .lane _ f sh =>
    let one (k : Fld) (n : Nat) : List Nat :=
      match k with
      | .sreg => [n % 64]
      | .desc => [n % 64, n % 64 + 1, n % 64 + 2, n % 64 + 3]
      | _ => []
    one sh.vd f.vd.toNat ++ one sh.va f.va.toNat ++ one sh.vb f.vb.toNat ++ one sh.vc f.vc.toNat ++
      (if sh.kind && f.m2 == 3 then [f.vb.toNat % 64] else [])
  | _ => []
/-- The lane registers and queues that an instruction may name, by field value. -/
def namedLanes (i : Instr) : List Nat :=
  match i.form with
  | .lane _ f sh =>
    let one (k : Fld) (n : Nat) : List Nat :=
      match k with
      | .src p => if p && n < 240 then [n, n + 1] else [n]
      | .dst p => if p && n < 240 then [n, n + 1] else [n]
      | .sfu p => if p && n < 240 then [n, n + 1] else [n]
      | .queue _ => [n]
      | _ => []
    one sh.vd f.vd.toNat ++ one sh.va f.va.toNat ++ one (vbFld sh f) f.vb.toNat ++
      one sh.vc f.vc.toNat
  | _ => []
/-- The issuing fibre waits for an owed result that the instruction names. -/
def State.awaits (s : State) (i : Instr) : Bool :=
  s.cur.owed.any (fun o => o.touches (namedScalars i) (namedLanes i))

end Sys2Proof.Machine
end

