-- ==== Sys2Proof/Machine/Access.lean ====
section
/-! DEFINITION. Where the lanes of a memory instruction reach: cells of the plane and the window,
scratch words, and global memory through buffer records (R38, R39, R43, R100 to R104, R138, R151, R242 to
R246). -/

namespace Sys2Proof.Machine

/-! ### Cells (R38, R39, R42) -/

/-- A word of a cell at a physical depth. -/
def CoreState.cell (k : CoreState) (i d : Nat) : PW := Tab.get PW.zero k.mem.cells (4096 * i + d)
def CoreState.setCell (k : CoreState) (i d : Nat) (w : PW) : CoreState :=
  { k with mem := { k.mem with cells := Tab.set PW.zero k.mem.cells (4096 * i + d) w } }

/-- Cell and depth of a scratch word (R39). (DEDUCED: log entry 26) -/
def CoreState.scratchAt (k : CoreState) (scrb w : Nat) : Nat × Nat :=
  let ps := k.presentCells
  (ps.getD (w % ps.length) 0, scrb + w / ps.length)
def CoreState.scratchWord (k : CoreState) (scrb w : Nat) : PW :=
  let p := k.scratchAt scrb w
  k.cell p.1 p.2
def CoreState.setScratchWord (k : CoreState) (scrb w : Nat) (v : PW) : CoreState :=
  let p := k.scratchAt scrb w
  k.setCell p.1 p.2 v

/-- `size` bytes of scratch at an aligned offset (R244). -/
def CoreState.scratchLoad (k : CoreState) (scrb o size : Nat) : PX :=
  let lo := k.scratchWord scrb (o / 4)
  if size = 8 then
    let hi := k.scratchWord scrb (o / 4 + 1)
    ⟨hi.bits ++ lo.bits, hi.poison || lo.poison⟩
  else ⟨BitVec.ofNat 64 (bitsAt lo.bits.toNat (8 * (o % 4)) (8 * size)), lo.poison⟩
/-- A write of bytes within a word: the granule is one word (R241). -/
def putWord (old : PW) (lo n v : Nat) (poison : Bool) : PW :=
  ⟨BitVec.ofNat 32 (putBits old.bits.toNat lo n v), poison || (old.poison && decide (n < 32))⟩
def CoreState.scratchStore (k : CoreState) (scrb o size : Nat) (v : PX) : CoreState :=
  if size = 8 then
    (k.setScratchWord scrb (o / 4) ⟨v.bits.setWidth 32, v.poison⟩).setScratchWord scrb (o / 4 + 1)
      ⟨v.bits.extractLsb' 32 32, v.poison⟩
  else
    k.setScratchWord scrb (o / 4)
      (putWord (k.scratchWord scrb (o / 4)) (8 * (o % 4)) (8 * size) v.bits.toNat v.poison)

/-! ### Named barriers (R256) -/

/-- A named barrier object. -/
structure Barrier where
  waiters : BitVec 64
  phase : Bool
  expect : Nat
  arrived : Nat
  deriving DecidableEq, Repr

/-- Reads barrier `n` of a block's scratch. -/
def CoreState.barrier (k : CoreState) (scrb n : Nat) : Barrier :=
  let w (j : Nat) : Word := (k.scratchWord scrb (4 * n + j)).bits
  { waiters := w 3 ++ w 2, phase := (w 0).getLsbD 31, expect := bitsAt (w 0).toNat 16 7,
    arrived := bitsAt (w 0).toNat 0 7 }
/-- A word of a barrier object is poisoned: control state is lost (R433). -/
def CoreState.barrierLost (k : CoreState) (scrb n : Nat) : Bool :=
  (List.range 4).any (fun j => (k.scratchWord scrb (4 * n + j)).poison)
/-- Its first word. -/
def Barrier.control (b : Barrier) : Word :=
  BitVec.ofNat 32 (b.arrived % 128 + 2 ^ 16 * (b.expect % 128) + (if b.phase then 2 ^ 31 else 0))
/-- Writes a barrier object: its reserved bits read 0. -/
def CoreState.setBarrier (k : CoreState) (scrb n : Nat) (b : Barrier) : CoreState :=
  (((k.setScratchWord scrb (4 * n) (PW.clean b.control)).setScratchWord scrb (4 * n + 1)
    PW.zero).setScratchWord scrb (4 * n + 2) (PW.clean (b.waiters.setWidth 32))).setScratchWord scrb
    (4 * n + 3) (PW.clean (b.waiters.extractLsb' 32 32))
/-- Arrived at, or waited for (R256). -/
def Barrier.armed (b : Barrier) : Bool := b.arrived != 0 || b.waiters != 0
/-- The barrier at reset, with its block's number of fibres (R256). -/
def Barrier.reset (fibres : Nat) : Barrier :=
  { waiters := 0, phase := false, expect := fibres, arrived := 0 }
/-- Bytes of scratch lie in an armed barrier object (R258). An aligned access touches one object. -/
def CoreState.clobbers (k : CoreState) (scrb o : Nat) : Bool :=
  decide (o < 256) && (k.barrier scrb (o / 16)).armed

/-! ### The window (R26, R43, R138, R151) -/

/-- The mirror helper (R138). -/
def mirrorAt (t : Int) (n : Nat) : Nat :=
  if n = 1 then 0
  else
    let period := 2 * (n - 1)
    let u := (t % (period : Int)).toNat
    if u < n then u else period - u

/-- A coordinate resolved by an edge mode. -/
inductive EdgeResult where
  | at (t : Nat)
  | zero
  | const
  deriving DecidableEq, Repr
/-- Edge modes: 0 zero, 1 constant, 2 mirror, 3 repeat, 4 wrap (R151). -/
def resolveEdge (edge : Nat) (t : Int) (n : Nat) : EdgeResult :=
  if 0 ≤ t ∧ t < n then .at t.toNat
  else
    match edge with
    | 0 => .zero
    | 1 => .const
    | 2 => .at (mirrorAt t n)
    | 3 => .at (if t < 0 then 0 else n - 1)
    | _ => .at (t % (n : Int)).toNat

/-- Where a plane position of a launch stands: the core site and the block table entry. -/
def State.planeCore (s : State) (part : Nat) (lid : BitVec 32) (cx cy : Nat) : Option (Nat × Nat) :=
  s.cores.findSome? (fun e => (e.2.blocks.find? (fun b =>
    b.2.stage != .empty && b.2.ofLaunch part lid && b.2.cx == cx && b.2.cy == cy)).map
      (fun b => (e.1, b.1)))

/-- Where a logical core of a plane stands (R17, R428, R467). -/
inductive PlaneSite where
  | block (core entry : Nat)
  /-- A core-sized hole at a core site. -/
  | hole (core : Nat)
  | otherDevice
  /-- Its block is not on any core: it is being moved. -/
  | away
  deriving DecidableEq, Repr

def State.planeSite (s : State) (l : Launch) (cx cy : Nat) : PlaneSite :=
  match s.planeCore l.part l.lid cx cy with
  | some (c, b) => .block c b
  | none =>
    if !l.fixedGeometry then .away
    else if s.torus l ∧ s.torusW * (cy / 28) + cx / 28 ≠ s.device.toNat then .otherDevice
    else
      let c := siteAt (cx % 28) (cy % 28)
      if (s.core c).enabled then .away else .hole c

/-- What a window access reaches (R43). -/
inductive WindowTarget where
  | cell (core lane depth0 : Nat)
  | hole
  | zero
  | const
  /-- Another die: nothing is reached. -/
  | far
  /-- The block that holds the cell is parked or moving (R407). -/
  | away
  deriving DecidableEq, Repr

/-- What a position of a launch's plane is, seen from a core (R43, R151): another die is reached by
nothing. -/
def State.cellAt (s : State) (l : Launch) (from' x y : Nat) : WindowTarget :=
  let j := 8 * (y % 8) + x % 8
  match s.planeSite l (x / 8) (y / 8) with
  | .otherDevice => .far
  | .away => .away
  | .hole c => if dieOf c ≠ dieOf from' then .far else .hole
  | .block c b =>
    if dieOf c ≠ dieOf from' then .far
    else if (s.block c b).stage ≠ .running then .away
    else if (s.core c).holes.getLsbD j then .hole
    else .cell c j (s.block c b).pdepth

/-- The target of a lane of the issuing fibre at a displacement. -/
def State.windowTarget (s : State) (edge : Nat) (i : Nat) (dx dy : Int) : WindowTarget :=
  match s.curLaunch with
  | none => .zero
  | some l =>
    let o := s.originOf s.focus.core s.cur.block
    let tx := (o.1 + i % 8 : Nat) + dx
    let ty := (o.2 + i / 8 : Nat) + dy
    match resolveEdge edge tx (s.planeW l), resolveEdge edge ty (s.planeH l) with
    | .zero, _ => .zero
    | .const, _ => .const
    | .at _, .zero => .zero
    | .at _, .const => .const
    | .at x, .at y => s.cellAt l s.focus.core x y

/-! ### Buffer records (R61, R100 to R102, R245, R246) -/

/-- A field of a buffer record. -/
def recFld (r : BitVec 320) (lo n : Nat) : Nat := bitsAt r.toNat lo n
abbrev recBase (r : BitVec 320) : Nat := recFld r 0 57
abbrev recWritable (r : BitVec 320) : Bool := recFld r 61 1 == 1
abbrev recHandle (r : BitVec 320) : Bool := recFld r 62 1 == 1
abbrev recValid (r : BitVec 320) : Bool := recFld r 63 1 == 1
abbrev recExtent (r : BitVec 320) : Nat := recFld r 64 48
abbrev recEnc (r : BitVec 320) : Nat := recFld r 112 5
abbrev recRegfmt (r : BitVec 320) : Nat := recFld r 117 5
abbrev recIlv (r : BitVec 320) : Nat := recFld r 122 4
abbrev recBlk (r : BitVec 320) : Nat := recFld r 126 4
abbrev recRnd (r : BitVec 320) : Nat := recFld r 130 2
abbrev recSat (r : BitVec 320) : Bool := recFld r 132 1 == 1
abbrev recCntsat (r : BitVec 320) : Bool := recFld r 133 1 == 1
abbrev recScm (r : BitVec 320) : Nat := recFld r 134 2
abbrev recScale (r : BitVec 320) : Nat := recFld r 136 64
abbrev recSstride (r : BitVec 320) : Nat := recFld r 200 32
abbrev recPitch (r : BitVec 320) : Nat := recFld r 232 32
abbrev recCbix (r : BitVec 320) : Nat := recFld r 272 16

/-- Record `n` of the issuing fibre's launch, as it was read at launch (R100). -/
def State.record (s : State) (n : Nat) : BitVec 320 := s.ofLaunch 0 (fun l => Tab.get 0 l.bufrecs n)

/-- Bits of an element of a format code. -/
def codeWidth (code : Nat) : Nat := (fmtOfCode code).width

/-- Uses that raise 0x04 (R102). -/
def recBadFormat (r : BitVec 320) : Bool :=
  let enc := recEnc r
  decide (22 ≤ enc) || decide (22 ≤ recRegfmt r) || decide (2 ≤ recIlv r) || recScm r == 3 ||
  (recScm r == 2 && (enc != 15 || decide (16 ≤ recCbix r))) ||
  ((enc == 12 || enc == 13 || enc == 15) && recBlk r != 5) || (enc == 14 && recBlk r != 3) ||
  (enc != recRegfmt r && recPitch r != 0 &&
    (if codeWidth enc = 6 then decide (recPitch r < 3) else decide (8 * recPitch r < codeWidth enc)))
/-- Uses by a lane that raise 0x08 (R102). -/
def recDenied (r : BitVec 320) (store : Bool) : Bool :=
  !recValid r || recHandle r || (store && !recWritable r) || decide (2 ^ 57 ≤ recScale r)

/-- One lane's access to global memory: its first byte and length; where the element stands in those
bytes; the address of its scale word and the field in it. -/
structure LaneAccess where
  va : Nat
  n : Nat
  lo : Nat
  w : Nat
  scale : Option (Nat × Nat)
  deriving DecidableEq, Repr

/-- An offset within a row, interleaved (R101). -/
def interleave (r : BitVec 320) (row o : Nat) : Nat :=
  if recIlv r = 1 then o ^^^ (16 * (row % 8)) else o
/-- The bytes lie within the record's extent, at a virtual address (R101, R248). -/
def inExtent (r : BitVec 320) (a : Int) (n : Nat) : Bool :=
  decide ((recBase r : Int) ≤ a) && decide (a + n ≤ recBase r + recExtent r) && decide (a + n ≤ 2 ^ 57)

/-- The raw access of a lane with index `x` (R245); a trap cause otherwise. -/
def rawAccess (r : BitVec 320) (size : Nat) (x : Int) : Except Nat LaneAccess :=
  if recPitch r ≠ 0 ∧ x < 0 then .error 0x08
  else
    let p : Int := recPitch r
    let row : Nat := if recPitch r = 0 then 0 else (x / p).toNat
    let o : Int := if recPitch r = 0 then x else x % p
    let a : Int := recBase r + row * p + (if 0 ≤ o then (interleave r row o.toNat : Int) else o)
    if !inExtent r a size then .error 0x08
    else if a.toNat % size ≠ 0 then .error 0x07
    else .ok { va := a.toNat, n := size, lo := 0, w := 8 * size, scale := none }

/-- Bytes and bits of element `k` of a packed row (R61): first byte, bytes, first bit, bits. -/
def packedAt (w k : Nat) : Nat × Nat × Nat × Nat :=
  if w = 6 then (3 * (k / 4), 3, 6 * (k % 4), 6)
  else if w = 4 then (k / 2, 1, 4 * (k % 2), 4)
  else if w = 2 then (k / 4, 1, 2 * (k % 4), 2)
  else (k * (w / 8), w / 8, 0, w)

/-- The elements of a row (R246). -/
def rowElements (r : BitVec 320) : Nat :=
  let n := 8 * recPitch r / codeWidth (recEnc r)
  if codeWidth (recEnc r) = 6 then n - n % 4 else n

/-- The converting access of a lane with index `x` (R246); a trap cause otherwise. -/
def convertAccess (r : BitVec 320) (x : Int) : Except Nat LaneAccess :=
  if x < 0 then .error 0x08
  else
    let w := codeWidth (recEnc r)
    let row := if recPitch r = 0 then 0 else x.toNat / rowElements r
    let k := if recPitch r = 0 then x.toNat else x.toNat % rowElements r
    let (b, n, lo, bits) := packedAt w k
    let a := recBase r + row * recPitch r + interleave r row b
    if !inExtent r a n then .error 0x08
    else if 16 ≤ w ∧ a % (w / 8) ≠ 0 then .error 0x07
    else
      let blk := k / 2 ^ recBlk r
      .ok { va := a, n := n, lo := lo, w := bits,
            scale := if recScm r = 1 then
              some (recScale r + row * recSstride r + 4 * (blk / 3), blk % 3) else none }

/-- The record's accesses are raw (R245). -/
def recRaw (r : BitVec 320) : Bool := recEnc r == recRegfmt r

/-- The cause that an access of a type through a record raises for the whole instruction (R102, R245,
R246). -/
def recordCause (r : BitVec 320) (ty : Nat) (store : Bool) : Option Nat :=
  let convertible (c : Nat) : Bool := decide (c ≤ 11) || c == 16 || c == 17
  if recRaw r && [6, 7, 8, 11].contains ty then some 0x01
  else if recBadFormat r then some 0x04
  else if recRaw r then
    if 12 ≤ recEnc r ∧ recEnc r ≤ 15 ∧ ty ≠ 23 ∧ ty ≠ 24 then some 0x04
    else if recDenied r store then some 0x08 else none
  else if !convertible (recEnc r) || !convertible (recRegfmt r) || ty != recRegfmt r ||
      (recIlv r == 1 && codeWidth (recEnc r) == 6) then some 0x04
  else if recDenied r store then some 0x08 else none

/-- BX and OFS of IMM (R118). -/
def immBx (f : LaneFields) : Nat := (f.imm.extractLsb' 26 6).toNat
def immOfs (f : LaneFields) : Int := (f.imm.extractLsb' 0 26).toInt
/-- The lane's index (R244, R245). -/
def laneIndexOf (f : LaneFields) (a : PX) : Int := ((a.bits.toNat % 2 ^ 32 : Nat) : Int) + immOfs f

/-- A lane's access through a record, or the cause it raises. -/
def globalAccess (r : BitVec 320) (f : LaneFields) (store : Bool) (a : PX) : Except Nat LaneAccess :=
  match recordCause r f.ty.toNat store with
  | some c => .error c
  | none =>
    if recRaw r then rawAccess r (tyWidth f.ty.toNat / 8) (laneIndexOf f a)
    else convertAccess r (laneIndexOf f a)

/-! ### Conversion (R58, R59, R246) -/

/-- The value of an S10 code (R58). -/
def s10Value (x : Nat) : FVal :=
  let e := bitsAt x 6 4
  let m := bitsAt x 0 6
  if e = 0 then .fin false m (-12) else .fin false (64 + m) ((e : Int) - 13)
/-- S10 field `j` of a scale word (R59). -/
def scaleField (w j : Nat) : FVal := s10Value (bitsAt w (10 * j) 10)

/-- An element times its scale: an infinity times 0 is a NaN (R63). -/
def scaleUp (x s : FVal) : FVal := if x.isNaN then x else (mulVal x s).1
/-- An element over its scale, with FDZ where a value other than 0 and NaN is divided by 0 (R246). (DEDUCED: log entry 64) -/
def scaleDown (x s : FVal) : FVal × BitVec 32 :=
  if x.isNaN then (x, 0)
  else if s.isNaN then (s, 0)
  else if s.isZero then (if x.isZero then (.nan false, 0) else (.inf (x.sign != s.sign), fFdz))
  else if s.isInf then (if x.isInf then (.nan false, 0) else (.fin (x.sign != s.sign) 0 0, 0))
  else if x.isInf then (.inf (x.sign != s.sign), 0)
  else (divVal x s, 0)

/-- A loaded element as a lane receives it. -/
def convertLoad (r : BitVec 320) (ty i : Nat) (elem scale : PX) (a : LaneAccess) : LaneOut :=
  let code := bitsAt elem.bits.toNat a.lo a.w
  if recRaw r then ⟨i, ⟨BitVec.ofNat 64 (place ty code), elem.poison⟩, 0, none⟩
  else
    let v := (fmtOfCode (recEnc r)).value code
    let x := match a.scale with
      | some (_, j) => scaleUp v (scaleField scale.bits.toNat j)
      | none => v
    let c := convert (fmtOfCode (recRegfmt r)) (recRnd r) 0 (recSat r) x
    let poison := elem.poison || (a.scale.isSome && scale.poison)
    ⟨i, ⟨BitVec.ofNat 64 (place ty c.code), poison⟩, if poison then 0 else c.flags, none⟩

/-- What a converting store writes: the code and its exception bits; a saturation counts (R70). (DEDUCED: log entry 28) -/
def convertStore (r : BitVec 320) (v scale : PX) (a : LaneAccess) : Nat × BitVec 32 :=
  let ty := recRegfmt r
  let x := (fmtOfCode ty).value (v.bits.toNat % 2 ^ codeWidth ty)
  let y := match a.scale with
    | some (_, j) => scaleDown x (scaleField scale.bits.toNat j)
    | none => (x, 0)
  let c := convert (fmtOfCode (recEnc r)) (recRnd r) 0 (recSat r) y.1
  (c.code, c.flags ||| y.2)

end Sys2Proof.Machine
end

