-- ==== Sys2Proof/Machine/Fetch.lean ====
section
/-! DEFINITION. Fetching an instruction, and what stands between it and its issue: whether the gang
may issue, breakpoints, clause positions, encodings (R33, R106, R110, R111, R112, R125, R383,
R411, R433). -/

namespace Sys2Proof.Machine

/-- What a fetch at an address gives: parcels, a translation fault, or a poisoned parcel. -/
inductive Fetched where
  | parcels (ps : List Word)
  | fault (va reason : Nat)
  | poisoned
  deriving DecidableEq, Repr

/-- Fetches `n` parcels from an address on (R105). -/
def State.fetchParcels (s : State) (c : Nat) (asid : BitVec 16) (pc : VAddr) : Nat → Fetched
  | 0 => .parcels []
  | n + 1 =>
    match s.translate c asid pc.toNat .fetch with
    | .error r => .fault pc.toNat r
    | .ok l =>
      if l.por || s.mem.anyPoison l.addr 4 then .poisoned
      else
        match s.fetchParcels c asid (pc + 4) n with
        | .parcels ps => .parcels (BitVec.ofNat 32 (s.mem.num l.addr 4) :: ps)
        | other => other

/-- The parcels of the instruction at an address (R105). -/
def State.fetchAt (s : State) (c : Nat) (asid : BitVec 16) (pc : VAddr) : Fetched :=
  match s.fetchParcels c asid pc 1 with
  | .parcels (p :: _) => s.fetchParcels c asid pc (parcelCount p)
  | other => other

/-- The parcel is a clause header (R105). -/
def isHeader (p : Word) : Bool := p.toNat / 2 ^ 30 == 2

/-- The issuing fibre's context. -/
def State.curCtx (s : State) : BitVec 16 := s.ctxOf s.focus.core s.cur.block

/-! ### Whether a gang may issue (R18, R33, R34, R348, R353) -/

/-- The lanes of the guard of a lane instruction, from its bits (R82, R125). -/
def State.lanesOfParcels (s : State) (ps : List Word) : LaneMask :=
  match ps with
  | [p0, p1, p2] =>
    match laneOfBits ((p0.toNat * 2 ^ 32 + p1.toNat) * 2 ^ 32 + p2.toNat) with
    | some (_, f) => s.participating f.pg f.pn
    | none => s.gangLanes
  | _ => 0

/-- Fibres of the block issue: it runs, or it parks and a handler has yet to return (R355, R404). -/
def Block.issues (b : Block) (handler : Bool) : Bool :=
  b.stage == .running || (b.stage == .parking && handler)
/-- The gang in focus may issue: its fibre runs in a running block, a handler leaves only its own
quads, and its quads stand at one address and wait for nothing. -/
def State.mayIssue (s : State) : Bool :=
  let x := s.cur
  let qs := quadsIn s.focus.quads
  !qs.isEmpty && !s.pairBusy s.focus.core s.focus.fib && s.curCore.enabled && x.run == .running && s.curBlock.issues x.handler.isSome &&
  (match x.handler with
   | some h => s.focus.quads &&& ~~~h.quads == 0
   | none => true) &&
  qs.all (fun q => !(x.quad q).ended && (x.quad q).wait == .none && (x.quad q).pc == s.pc &&
    (x.quad q).inClause == s.leadQuad.inClause)

/-! ### Breakpoints (R382, R383) -/

/-- The enabled breakpoint that an address matches. -/
def CoreRegs.breakAt (r : CoreRegs) (pc : VAddr) : Option Nat :=
  (List.range 4).find? (fun n =>
    let w := Tab.get 0 r.ibka n
    w.getLsbD 63 && w.extractLsb' 2 55 == pc.extractLsb' 2 55)

/-- Fibres in the stop reach of SMODE stop at their next issue boundary (R383). -/
def State.stopReach (s : State) (c f : Nat) : State :=
  let d := (s.core c).regs.dbgctl
  let b := (s.fibre c f).block
  let k := s.block c b
  let near (c2 : Nat) (f2 : Nat) (x : Fibre) : Bool :=
    !(c2 == c && f2 == f) && x.resident && x.run != .stopped &&
    (match bitsAt d.toNat 2 2 with
     | 1 => c2 == c && x.block == b
     | 2 => (s.block c2 x.block).part == k.part && (s.block c2 x.block).lid == k.lid
     | _ => false)
  { s with cores := s.cores.map (fun e => (e.1, { e.2 with fibres := e.2.fibres.map (fun g =>
      (g.1, if near e.1 g.1 g.2 then { g.2 with stopSoon := some 4 } else g.2)) })) }

/-- A fibre stops for the debugger with a reason and a number (R377, R383). -/
def State.stopFibre (s : State) (c f : Nat) (detail : Nat) (pc : VAddr) (lanes : LaneMask) : State :=
  let s1 := s.modFibre c f (fun x => { x with run := .stopped, stopSoon := Option.none, stepping := 0 })
  let s2 := s1.postEvent c f 0x11 false pc lanes (BitVec.ofNat 64 detail)
  if detail % 16 = 4 ∨ detail % 16 = 2 ∨ detail % 16 = 5 then s2 else s2.stopReach c f

/-! ### Issue -/

/-- What the focus does: an instruction to execute, or the state it leads to without one. -/
inductive Issue where
  | run (i : Instr) (s : State)
  | instead (s : State)
  deriving DecidableEq, Repr

/-- The issuing gang breaks a rule of encoding at its address (R125, R155). (DEDUCED: log entry 16) -/
def State.illegal (s : State) (lanes : LaneMask) (parcels : Nat) : Issue :=
  .instead (s.takeTrap 0x01 lanes parcels)

/-- A breakpoint is not checked again at this issue, and a step is made (R383, R384). -/
def State.beginIssue (s : State) : State :=
  s.modCur (fun x => { x with skipBreak := false, stepping := x.stepping &&& ~~~s.focus.quads })

/-- Instructions of the lane multipliers and adders (R434). -/
def addsOrMultiplies (i : Instr) : Bool :=
  match i with
  | .add _ => true
  | .sub _ => true
  | .mul _ => true
  | .mulh _ => true
  | .mulw _ => true
  | .mad _ => true
  | .addx _ => true
  | .subx _ => true
  | .fma _ => true
  | _ => false
/-- The OP of a lane instruction. -/
def opOf (i : Instr) : Nat :=
  match i.form with
  | .lane op _ _ => op
  | _ => 0
/-- A residue-checked instruction: a first mismatch is retried, a second freezes the fibre (R434,
R435). -/
def State.issueChecked (s : State) (i : Instr) : Issue :=
  let c := s.focus.core
  let f := s.focus.fib
  let s1 := s.modCur (fun x => { x with residue := .none })
  match s.cur.residue with
  | .none => .run i s.beginIssue
  | some true => .run i (s1.modCore c (fun k => k.count 24)).beginIssue
  | some false =>
    let s2 := (s1.modCore c (fun k =>
      { k.count 25 with regs := { (k.count 25).regs with suspect := true } })).markFrozen
    .instead (s2.freeze c f 0x81 false s.pc s.gangLanes (BitVec.ofNat 64 (opOf i % 512)))

/-- At a clause boundary: the parcel must be a legal header, with RGN = 1 where a region must
start (R106, R107, R111, R112, R351). (DEDUCED: log entry 21) -/
def State.issueHeader (s : State) (p : Word) : Issue :=
  match decode [p] with
  | .instr (.clauseWaitTest h) =>
    if !h.rgn && (quadsIn s.focus.quads).any (fun q => (s.cur.quad q).mustRgn) then
      s.illegal s.gangLanes 1
    else .run (.clauseWaitTest h) s
  | _ => s.illegal s.gangLanes 1

/-- Inside a clause: the instruction must fit, a control transfer must be last, `regang` first, and
only a control transfer may follow a non-idempotent instruction (R106, R110, R111, R125). -/
def State.issueBody (s : State) (ps : List Word) : Issue :=
  let y := s.leadQuad
  let n := ps.length
  let next := nextPc y.pc n
  let lanes := s.lanesOfParcels ps
  if isHeader (ps.headD 0) then s.illegal s.gangLanes 1
  else if !(y.within next || next == y.clauseEnd) then s.illegal lanes n
  else
    match decode ps with
    | .instr i =>
      if (isTransfer i && next != y.clauseEnd) || (i == .regang && !y.first) ||
          ((quadsIn s.focus.quads).any (fun q => (s.cur.quad q).tail) && !isTransfer i) then
        s.illegal lanes n
      else if s.awaits i then .instead (s.wait .stall)
      else if addsOrMultiplies i then s.issueChecked i
      else .run i s.beginIssue
    | .extension => .instead (s.trapExtension lanes)
    | _ => s.illegal lanes n

/-- The pending scroll trap of a fibre is taken by a gang of it, before the gang's next instruction
(R146). (DEDUCED: log entry 59) -/
def State.takeScrollTrap (s : State) (c f : Nat) (quads : QuadMask) : State :=
  let x := s.fibre c f
  match x.scrollTrap with
  | none => s
  | some t =>
    let y := x.quad ((quadsIn quads).headD 0)
    (s.setFibre c f { x with scrollTrap := none }).userTrap c f quads 0x0F t.pc 0 y.pc y.inClause

/-- Issue of the gang in focus. -/
def State.issue (s : State) : Issue :=
  if !s.mayIssue then .instead s
  else if s.cur.scrollTrap.isSome && !s.leadQuad.again then
    .instead (s.takeScrollTrap s.focus.core s.focus.fib s.focus.quads)
  else
    let x := s.cur
    let stepping := x.skipBreak || x.stopSoon == some 2
    match (if s.leadQuad.inClause && !stepping && s.attached s.focus.core s.focus.fib then
        s.curCore.regs.breakAt s.pc else none) with
    | some n => .instead (s.stopFibre s.focus.core s.focus.fib (1 + 16 * n) s.pc s.gangLanes)
    | none =>
      match (if s.leadQuad.inClause then s.fetchAt s.focus.core s.curCtx s.pc
          else s.fetchParcels s.focus.core s.curCtx s.pc 1) with
      | .fault va r => .instead (s.pageFault va r false true s.gangLanes)
      | .poisoned => .instead (s.abortControl s.focus.core s.focus.fib 1 0xE001 s.pc)
      | .parcels ps =>
        if s.leadQuad.inClause then s.issueBody ps
        else s.issueHeader (ps.headD 0)

end Sys2Proof.Machine
end

