-- ==== Sys2Proof/Machine/Scalar.lean ====
section
/-! DEFINITION. Scalar arithmetic (R158 to R163). -/

namespace Sys2Proof.Machine

/-- W of FN[1:0] (R120). -/
def scalarWidth (n : Nat) : Nat :=
  match n % 4 with
  | 0 => 64
  | 1 => 32
  | 2 => 16
  | _ => 8

/-- Writes a scalar register and retires. -/
def State.putScalar (s : State) (i : Instr) (sd : BitVec 6) (v : DWord) : State :=
  (s.modCur (fun x => x.setScalar sd.toNat (PX.clean v))).retire i

/-- A W-bit operation: operands truncated, the result extended by U (R159). -/
def arithmetic (fn : BitVec 6) (g : Nat → Bool → Nat → Nat → Nat) (a b : DWord) : DWord :=
  let w := scalarWidth fn.toNat
  ext64 w (fnU fn) (g w (fnU fn) (a.toNat % 2 ^ w) (b.toNat % 2 ^ w))

/-- Both scalar operands of a register-layout instruction (R120, R158). -/
def State.operandsReg (s : State) (f : ScalarReg) : DWord × DWord × State :=
  let (a, s1) := s.useScalar f.sa.toNat
  let (b, s2) := s1.useScalar f.sb.toNat
  (a, b, s2)

/-- FN of a two-parcel instruction (R159). -/
abbrev longFn (f : ScalarLong) : BitVec 6 := f.x.extractLsb' 0 6

def State.arithReg (s : State) (i : Instr) (f : ScalarReg) (g : Nat → Bool → Nat → Nat → Nat) : State :=
  let (a, b, s1) := s.operandsReg f
  s1.putScalar i f.sd (arithmetic f.fn g a b)
def State.arithLong (s : State) (i : Instr) (f : ScalarLong) (g : Nat → Bool → Nat → Nat → Nat) : State :=
  let (a, s1) := s.useScalar f.sa.toNat
  s1.putScalar i f.sd (arithmetic (longFn f) g a (f.imm.signExtend 64))

/-- High W bits of the 2W-bit product (R160). -/
def mulHigh (w : Nat) (u : Bool) (a b : Nat) : Nat :=
  wrapInt w (toInteger w u a * toInteger w u b / ((2 ^ w : Nat) : Int))
/-- Copies of a[W-1] enter (R160). -/
def shiftArith (w : Nat) (_ : Bool) (a b : Nat) : Nat :=
  wrapInt w (toSigned w a / ((2 ^ (b % w) : Nat) : Int))
def lesser (w : Nat) (u : Bool) (a b : Nat) : Nat := if toInteger w u a ≤ toInteger w u b then a else b
def greater (w : Nat) (u : Bool) (a b : Nat) : Nat := if toInteger w u a ≤ toInteger w u b then b else a

def execSadd (f : ScalarReg) (s : State) : Out :=
  .next (s.arithReg (.sadd f) f (fun _ _ a b => a + b))
def execSaddLong (f : ScalarLong) (s : State) : Out :=
  .next (s.arithLong (.saddLong f) f (fun _ _ a b => a + b))
def execSsub (f : ScalarReg) (s : State) : Out :=
  .next (s.arithReg (.ssub f) f (fun w _ a b => a + (2 ^ w - b)))
def execSsubLong (f : ScalarLong) (s : State) : Out :=
  .next (s.arithLong (.ssubLong f) f (fun w _ a b => a + (2 ^ w - b)))
def execSmul (f : ScalarReg) (s : State) : Out :=
  .next (s.arithReg (.smul f) f (fun _ _ a b => a * b))
def execSmulLong (f : ScalarLong) (s : State) : Out :=
  .next (s.arithLong (.smulLong f) f (fun _ _ a b => a * b))
def execSmulh (f : ScalarReg) (s : State) : Out :=
  .next (s.arithReg (.smulh f) f (mulHigh))
def execSmulhLong (f : ScalarLong) (s : State) : Out :=
  .next (s.arithLong (.smulhLong f) f (mulHigh))
def execSand (f : ScalarReg) (s : State) : Out :=
  .next (s.arithReg (.sand f) f (fun _ _ a b => a &&& b))
def execSandLong (f : ScalarLong) (s : State) : Out :=
  .next (s.arithLong (.sandLong f) f (fun _ _ a b => a &&& b))
def execSor (f : ScalarReg) (s : State) : Out :=
  .next (s.arithReg (.sor f) f (fun _ _ a b => a ||| b))
def execSorLong (f : ScalarLong) (s : State) : Out :=
  .next (s.arithLong (.sorLong f) f (fun _ _ a b => a ||| b))
def execSxor (f : ScalarReg) (s : State) : Out :=
  .next (s.arithReg (.sxor f) f (fun _ _ a b => a ^^^ b))
def execSxorLong (f : ScalarLong) (s : State) : Out :=
  .next (s.arithLong (.sxorLong f) f (fun _ _ a b => a ^^^ b))
def execSnor (f : ScalarReg) (s : State) : Out :=
  .next (s.arithReg (.snor f) f (fun w _ a b => 2 ^ w - 1 - (a ||| b)))
def execSnorLong (f : ScalarLong) (s : State) : Out :=
  .next (s.arithLong (.snorLong f) f (fun w _ a b => 2 ^ w - 1 - (a ||| b)))
def execSshl (f : ScalarReg) (s : State) : Out :=
  .next (s.arithReg (.sshl f) f (fun w _ a b => a * 2 ^ (b % w)))
def execSshlLong (f : ScalarLong) (s : State) : Out :=
  .next (s.arithLong (.sshlLong f) f (fun w _ a b => a * 2 ^ (b % w)))
def execSshr (f : ScalarReg) (s : State) : Out :=
  .next (s.arithReg (.sshr f) f (fun w _ a b => a / 2 ^ (b % w)))
def execSshrLong (f : ScalarLong) (s : State) : Out :=
  .next (s.arithLong (.sshrLong f) f (fun w _ a b => a / 2 ^ (b % w)))
def execSsra (f : ScalarReg) (s : State) : Out :=
  .next (s.arithReg (.ssra f) f (shiftArith))
def execSsraLong (f : ScalarLong) (s : State) : Out :=
  .next (s.arithLong (.ssraLong f) f (shiftArith))
def execSmin (f : ScalarReg) (s : State) : Out :=
  .next (s.arithReg (.smin f) f (lesser))
def execSminLong (f : ScalarLong) (s : State) : Out :=
  .next (s.arithLong (.sminLong f) f (lesser))
def execSmax (f : ScalarReg) (s : State) : Out :=
  .next (s.arithReg (.smax f) f (greater))
def execSmaxLong (f : ScalarLong) (s : State) : Out :=
  .next (s.arithLong (.smaxLong f) f (greater))

/-! ### Division (R76, R77) -/

/-- `sdiv` and `srem`: the quotient or remainder, its `CHKI` bit, and trap 0x0C where the launch
enables it. -/
def State.divideScalar (s : State) (i : Instr) (sd : BitVec 6) (fn : BitVec 6) (rem : Bool)
    (a b : DWord) : State :=
  let w := scalarWidth fn.toNat
  let r := divide w (fnU fn) (a.toNat % 2 ^ w) (b.toNat % 2 ^ w)
  let s1 := s.orChki r.2.2
  if r.2.2 &&& s.enabledTraps ≠ 0 then s1.trap 0x0C 0 i
  else s1.putScalar i sd (ext64 w (fnU fn) (if rem then r.2.1 else r.1))

def execSdiv (f : ScalarReg) (s : State) : Out :=
  let (a, b, s1) := s.operandsReg f
  .next (s1.divideScalar (.sdiv f) f.sd f.fn false a b)
def execSdivLong (f : ScalarLong) (s : State) : Out :=
  let (a, s1) := s.useScalar f.sa.toNat
  .next (s1.divideScalar (.sdivLong f) f.sd (longFn f) false a (f.imm.signExtend 64))
def execSrem (f : ScalarReg) (s : State) : Out :=
  let (a, b, s1) := s.operandsReg f
  .next (s1.divideScalar (.srem f) f.sd f.fn true a b)
def execSremLong (f : ScalarLong) (s : State) : Out :=
  let (a, s1) := s.useScalar f.sa.toNat
  .next (s1.divideScalar (.sremLong f) f.sd (longFn f) true a (f.imm.signExtend 64))

/-! ### Comparison, selection, moves (R160, R161) -/

/-- 1 if a COND b holds, else 0. -/
def compareScalar (fn : BitVec 6) (a b : DWord) : DWord :=
  let w := scalarWidth fn.toNat
  if intCmp (fnCond fn).toNat (toInteger w (fnU fn) a.toNat) (toInteger w (fnU fn) b.toNat) then 1 else 0
def execScmp (f : ScalarReg) (s : State) : Out :=
  let (a, b, s1) := s.operandsReg f
  .next (s1.putScalar (.scmp f) f.sd (compareScalar f.fn a b))
def execScmpLong (f : ScalarLong) (s : State) : Out :=
  let (a, s1) := s.useScalar f.sa.toNat
  .next (s1.putScalar (.scmpLong f) f.sd (compareScalar (longFn f) a (f.imm.signExtend 64)))

def execSsel (f : ScalarReg) (s : State) : Out :=
  let (d, s1) := s.useScalar f.sd.toNat
  let (a, b, s2) := s1.operandsReg f
  .next (s2.putScalar (.ssel f) f.sd (if d ≠ 0 then a else b))
def execSselLong (f : ScalarLong) (s : State) : Out :=
  let (d, s1) := s.useScalar f.sd.toNat
  let (a, s2) := s1.useScalar f.sa.toNat
  .next (s2.putScalar (.sselLong f) f.sd (if d ≠ 0 then a else f.imm.signExtend 64))

/-- `smov` carries poison (R158). -/
def execSmov (f : ScalarReg) (s : State) : Out :=
  .next ((s.modCur (fun x => x.setScalar f.sd.toNat (x.scalar f.sa.toNat))).retire (.smov f))
def execSli (f : ScalarImm) (s : State) : Out :=
  .next (s.putScalar (.sli f) f.sd (f.imm.signExtend 64))
def execSliLong (f : ScalarLong) (s : State) : Out :=
  .next (s.putScalar (.sliLong f) f.sd (f.imm.signExtend 64))
/-- `slih` keeps the lower half, and poison in it (R158, R161). -/
def execSlih (f : ScalarLong) (s : State) : Out :=
  .next ((s.modCur (fun x =>
    let old := x.scalar f.sd.toNat
    x.setScalar f.sd.toNat ⟨f.imm ++ old.bits.setWidth 32, old.poison⟩)).retire (.slih f))

/-! ### Counts and bit fields (R162, R163) -/

def execSclz (f : ScalarReg) (s : State) : Out :=
  let (a, s1) := s.useScalar f.sa.toNat
  let w := scalarWidth f.fn.toNat
  .next (s1.putScalar (.sclz f) f.sd (BitVec.ofNat 64 (leadingZeros w (a.toNat % 2 ^ w))))
def execSpopc (f : ScalarReg) (s : State) : Out :=
  let (a, s1) := s.useScalar f.sa.toNat
  let w := scalarWidth f.fn.toNat
  .next (s1.putScalar (.spopc f) f.sd (BitVec.ofNat 64 (popCount w (a.toNat % 2 ^ w))))

def execSbfe (f : ScalarReg) (s : State) : Out :=
  let (a, b, s1) := s.operandsReg f
  .next (s1.putScalar (.sbfe f) f.sd (BitVec.ofNat 64 (bitExtract 64 (!fnU f.fn) a.toNat b.toNat)))
def execSbfeLong (f : ScalarLong) (s : State) : Out :=
  let (a, s1) := s.useScalar f.sa.toNat
  .next (s1.putScalar (.sbfeLong f) f.sd
    (BitVec.ofNat 64 (bitExtract 64 (!fnU (longFn f)) a.toNat (f.imm.signExtend 64).toNat)))
def execSbfi (f : ScalarReg) (s : State) : Out :=
  let (d, s1) := s.useScalar f.sd.toNat
  let (a, b, s2) := s1.operandsReg f
  .next (s2.putScalar (.sbfi f) f.sd (BitVec.ofNat 64 (bitInsert 64 d.toNat a.toNat b.toNat)))
def execSbfiLong (f : ScalarLong) (s : State) : Out :=
  let (d, s1) := s.useScalar f.sd.toNat
  let (a, s2) := s1.useScalar f.sa.toNat
  .next (s2.putScalar (.sbfiLong f) f.sd
    (BitVec.ofNat 64 (bitInsert 64 d.toNat a.toNat (f.imm.signExtend 64).toNat)))

end Sys2Proof.Machine
end

