-- ==== Sys2Proof/Machine/Memory.lean ====
section
/-! DEFINITION. Loads, stores and atomics of lanes (R237 to R252) and the scalar loads and stores (R164
to R166). An access is performed when its instruction issues; its flag clears later. -/

namespace Sys2Proof.Machine

/-! ### The frame of a memory instruction (R195, R198, R237, R241) -/

/-- `cont` receives the context with the lanes left, once no encoding, queue or flag stops the
instruction; lanes whose consumed operands hold poison are dead. -/
def State.accessFrame (s : State) (i : Instr) (f : LaneFields) (sh : Shape)
    (consumed : LaneCtx → Nat → Bool) (cont : State → LaneCtx → State) : State :=
  let part0 := s.participating f.pg f.pn
  if !s.holdsFields f sh then s.trap 0x01 part0 i
  else if part0 = 0 then s.retire i
  else if sh.long && s.flagFull f.fs then s.wait .stall
  else
    match s.queueCheck f sh with
    | .block w => s.wait w
    | .trap c => s.trap c part0 i
    | .go =>
      if s.popTrap f sh ≠ 0 then s.trap 0x0D (s.popTrap f sh) i
      else
        let x := s.laneCtx f sh 0 part0
        let dying := maskOf (fun k => part0.getLsbD k && consumed x k)
        cont (s.modCur (fun y => y.kill dying))
          { x with part := part0 &&& ~~~dying, avail := x.avail &&& ~~~dying }

/-- The address register is consumed; data registers carry their poison (R241). -/
def addressOnly (x : LaneCtx) (i : Nat) : Bool := (x.a i).poison
/-- Address and operands are consumed. -/
def allOperands (x : LaneCtx) (i : Nat) : Bool := (x.a i).poison || (x.b i).poison || (x.c i).poison

/-- The results of a memory instruction are written, its flag selected. -/
def State.finishAccess (s : State) (i : Instr) (f : LaneFields) (sh : Shape) (part : LaneMask)
    (outs : List LaneOut) : State :=
  let s1 := s.commitLanes f sh part outs
  (if sh.long then s1.selectFlag f.fs else s1).retire i

/-- Lanes with the accesses that they make, and those that fail with a cause. -/
abbrev LaneChecks (α : Type) := List (Nat × Except Nat α)
def checkLanes {α : Type} (part : LaneMask) (g : Nat → Except Nat α) : LaneChecks α :=
  (lanesIn part).map (fun i => (i, g i))
/-- The lanes, helper lanes left out, that raise a cause. -/
def raisers {α : Type} (helpers : LaneMask) (cs : LaneChecks α) (cause : Nat) : LaneMask :=
  maskOf (fun i => !helpers.getLsbD i && cs.any (fun c => c.1 == i &&
    (match c.2 with
     | .error e => e == cause
     | .ok _ => false)))
/-- The cause that the instruction takes, with its lanes (R240). -/
def firstCause {α : Type} (helpers : LaneMask) (cs : LaneChecks α) : Option (Nat × LaneMask) :=
  [0x01, 0x04, 0x08, 0x07, 0x0A].findSome? (fun c =>
    if raisers helpers cs c = 0 then none else some (c, raisers helpers cs c))
/-- The lanes that pass, with their accesses. -/
def passing {α : Type} (cs : LaneChecks α) : List (Nat × α) :=
  cs.filterMap (fun c =>
    match c.2 with
    | .ok a => some (c.1, a)
    | .error _ => none)
/-- Lanes whose fault is not raised receive 0 (R237). -/
def zeroOuts (part : LaneMask) (outs : List LaneOut) : List LaneOut :=
  outs ++ ((lanesIn part).filter (fun i => outs.all (fun o => o.lane != i))).map (fun i => LaneOut.plain i 0)

/-- Lanes in the order in which they perform (R243, R272): drawn from the choices. -/
def State.inOrder {α : Type} (s : State) (xs : List α) : List α × State :=
  let r := orderBy xs.length xs s.choices
  (r.1, { s with choices := r.2 })

/-! ### Plane (R242) -/

/-- The depth of a plane access of `n` words. -/
def planeDepth (s : State) (f : LaneFields) (n : Nat) (a : PX) : Except Nat Nat :=
  let d := a.bits.toNat % 2 ^ 32 + f.imm.toNat % 4096
  if s.curDepth = 0 ∨ s.curDepth < d + n then .error 0x08 else .ok (s.curBlock.pdepth + d)

/-- The words at a physical depth, as one value. -/
def CoreState.planeLoad (k : CoreState) (i d n : Nat) : PX :=
  let lo := k.cell i d
  if n = 2 then
    let hi := k.cell i (d + 1)
    ⟨hi.bits ++ lo.bits, hi.poison || lo.poison⟩
  else ⟨lo.bits.setWidth 64, lo.poison⟩
def CoreState.planeStore (k : CoreState) (i d n : Nat) (v : PX) : CoreState :=
  let k1 := k.setCell i d ⟨v.bits.setWidth 32, v.poison⟩
  if n = 2 then k1.setCell i (d + 1) ⟨v.bits.extractLsb' 32 32, v.poison⟩ else k1

def execLdp (f : LaneFields) (s : State) : Out :=
  let i : Instr := .ldp f
  let sh := Shape.ldp f
  let n := tyWidth f.ty.toNat / 32
  .next (s.accessFrame i f sh addressOnly (fun s1 x =>
    let cs := checkLanes x.part (fun k => planeDepth s1 f n (x.a k))
    match firstCause s1.cur.helpers cs with
    | some (c, m) => s1.trap (BitVec.ofNat 8 c) m i
    | none =>
      let outs := (passing cs).map (fun e => (⟨e.1, s1.curCore.planeLoad e.1 e.2 n, 0, none⟩ : LaneOut))
      s1.finishAccess i f sh x.part (zeroOuts x.part outs)))

def execStp (f : LaneFields) (s : State) : Out :=
  let i : Instr := .stp f
  let sh := Shape.stp f
  let n := tyWidth f.ty.toNat / 32
  .next (s.accessFrame i f sh addressOnly (fun s1 x =>
    let cs := checkLanes x.part (fun k => planeDepth s1 f n (x.a k))
    match firstCause s1.cur.helpers cs with
    | some (c, m) => s1.trap (BitVec.ofNat 8 c) m i
    | none =>
      let live := (passing cs).filter (fun e => !s1.cur.helpers.getLsbD e.1)
      let s2 := live.foldl (fun t e =>
        t.modCore s.focus.core (fun k => k.planeStore e.1 e.2 n (x.b e.1))) s1
      s2.finishAccess i f sh x.part []))

/-! ### The window (R243) -/

/-- DX, DY and EDGE of IMM (R118). -/
def immDx (f : LaneFields) : Int := ((f.imm.extractLsb' 29 3).toNat : Int) - 2
def immDy (f : LaneFields) : Int := ((f.imm.extractLsb' 26 3).toNat : Int) - 2
def immEdge (f : LaneFields) : Nat := (f.imm.extractLsb' 23 3).toNat

/-- The window access of a lane: its depth and its target. -/
def State.windowAccess (s : State) (f : LaneFields) (i : Nat) (a : PX) :
    Except Nat (Nat × WindowTarget) :=
  let d := a.bits.toNat % 2 ^ 32 + f.imm.toNat % 4096
  if s.curDepth = 0 ∨ s.curDepth ≤ d then .error 0x08
  else .ok (d, s.windowTarget (immEdge f) i (immDx f) (immDy f))

/-- What a window read gives: `z` is the constant. -/
def State.windowRead (s : State) (edge : Nat) (d : Nat) (t : WindowTarget) (z : PX) : PX × BitVec 32 :=
  let k : PX := ⟨(z.bits.setWidth 32).setWidth 64, z.poison⟩
  match t with
  | .cell c i d0 =>
    let w := (s.core c).cell i (d0 + d)
    (⟨w.bits.setWidth 64, w.poison⟩, 0)
  | .hole => (if edge = 1 then k else PX.zero, chkiHole)
  | .zero => (PX.zero, 0)
  | .const => (k, 0)
  | .far => (if edge = 1 then k else PX.zero, 0)
  | .away => (PX.zero, 0)
/-- Some lane reaches a block that is parked or moving: the access stalls (R407). -/
def anyAway (cs : LaneChecks (Nat × WindowTarget)) : Bool := (passing cs).any (fun e => e.2.2 == .away)

def execLdw (f : LaneFields) (s : State) : Out :=
  let i : Instr := .ldw f
  let sh := Shape.ldw f
  .next (s.accessFrame i f sh addressOnly (fun s1 x =>
    let cs := checkLanes x.part (fun k => s1.windowAccess f k (x.a k))
    match firstCause s1.cur.helpers cs with
    | some (c, m) => s1.trap (BitVec.ofNat 8 c) m i
    | none =>
      if anyAway cs then s.wait .stall else
      let outs := (passing cs).map (fun e =>
        let r := s1.windowRead (immEdge f) e.2.1 e.2.2 (x.c e.1)
        (⟨e.1, r.1, r.2, none⟩ : LaneOut))
      s1.finishAccess i f sh x.part (zeroOuts x.part outs)))

/-- One lane writes through the window. -/
def State.windowWrite (s : State) (d : Nat) (t : WindowTarget) (v : PX) : State :=
  match t with
  | .cell c i d0 => s.modCore c (fun k => k.setCell i (d0 + d) ⟨v.bits.setWidth 32, v.poison⟩)
  | .hole => s.orChki chkiHole
  | _ => s

def execStw (f : LaneFields) (s : State) : Out :=
  let i : Instr := .stw f
  let sh := Shape.stw f
  .next (s.accessFrame i f sh addressOnly (fun s1 x =>
    let cs := checkLanes x.part (fun k => s1.windowAccess f k (x.a k))
    match firstCause s1.cur.helpers cs with
    | some (c, m) => s1.trap (BitVec.ofNat 8 c) m i
    | none =>
      if anyAway cs then s.wait .stall else
      let live := (passing cs).filter (fun e => !s1.cur.helpers.getLsbD e.1)
      let (order, s2) := s1.inOrder live
      let s3 := order.foldl (fun t e => t.windowWrite e.2.1 e.2.2 (x.b e.1)) s2
      s3.finishAccess i f sh x.part []))

/-! ### Scratch (R244, R250, R258) -/

/-- The scratch offset of a lane (R244); a write also respects armed barriers (R258). -/
def State.scratchOffset (s : State) (f : LaneFields) (size : Nat) (write : Bool) (a : PX) :
    Except Nat Nat :=
  let o := laneIndexOf f a
  if o < 0 ∨ (s.curScratch : Int) < o + size then .error 0x08
  else if o.toNat % size ≠ 0 then .error 0x07
  else if write && s.curCore.clobbers s.curBlock.scrb o.toNat then .error 0x0A
  else .ok o.toNat

def execLds (f : LaneFields) (s : State) : Out :=
  let i : Instr := .lds f
  let sh := Shape.lds f
  let size := tyWidth f.ty.toNat / 8
  .next (s.accessFrame i f sh addressOnly (fun s1 x =>
    let cs := checkLanes x.part (fun k => s1.scratchOffset f size false (x.a k))
    match firstCause s1.cur.helpers cs with
    | some (c, m) => s1.trap (BitVec.ofNat 8 c) m i
    | none =>
      let outs := (passing cs).map (fun e =>
        let v := s1.curCore.scratchLoad s1.curBlock.scrb e.2 size
        (⟨e.1, ⟨BitVec.ofNat 64 (place f.ty.toNat v.bits.toNat), v.poison⟩, 0, none⟩ : LaneOut))
      s1.finishAccess i f sh x.part (zeroOuts x.part outs)))

def execSts (f : LaneFields) (s : State) : Out :=
  let i : Instr := .sts f
  let sh := Shape.sts f
  let size := tyWidth f.ty.toNat / 8
  .next (s.accessFrame i f sh addressOnly (fun s1 x =>
    let cs := checkLanes x.part (fun k => s1.scratchOffset f size true (x.a k))
    match firstCause s1.cur.helpers cs with
    | some (c, m) => s1.trap (BitVec.ofNat 8 c) m i
    | none =>
      let live := (passing cs).filter (fun e => !s1.cur.helpers.getLsbD e.1)
      let (order, s2) := s1.inOrder live
      let scrb := s1.curBlock.scrb
      let s3 := order.foldl (fun t e =>
        t.modCore s.focus.core (fun k => k.scratchStore scrb e.2 size (x.b e.1))) s2
      s3.finishAccess i f sh x.part []))

/-! ### Atomic operations (R251) -/

/-- The new value of an atomic: operations 0 to 7 are add, min, max, and, or, xor, exchange and
compare-and-swap. -/
def atomicNew (op ty old b c : Nat) : Nat :=
  let w := tyWidth ty
  match op with
  | 0 => if floatTy ty then (fAdd (fmtOfType ty) 0 old b).1 else (old + b) % 2 ^ w
  | 1 => lesser w (unsignedTy ty) old b
  | 2 => greater w (unsignedTy ty) old b
  | 3 => old &&& b
  | 4 => old ||| b
  | 5 => old ^^^ b
  | 6 => b
  | _ => if old = b then c else old

/-- An atomic of scratch; one whose target is poisoned is not performed (R241). -/
def CoreState.scratchAtomic (k : CoreState) (scrb o op ty b c : Nat) : PX × CoreState :=
  let size := tyWidth ty / 8
  let old := k.scratchLoad scrb o size
  if old.poison then (⟨0, true⟩, k)
  else (old, k.scratchStore scrb o size (PX.clean (BitVec.ofNat 64 (atomicNew op ty old.bits.toNat b c))))

/-- The atomics of some lanes on scratch, one after the other. -/
def State.scratchAtomics (s : State) (f : LaneFields) (op : Nat) (x : LaneCtx) :
    List (Nat × Nat) → State × List LaneOut
  | [] => (s, [])
  | (i, o) :: rest =>
    let ty := f.ty.toNat
    let r := s.curCore.scratchAtomic s.curBlock.scrb o op ty (opBits ty (x.b i)) (opBits ty (x.c i))
    let (s1, outs) := (s.setCore s.focus.core r.2).scratchAtomics f op x rest
    (s1, ⟨i, r.1, 0, none⟩ :: outs)

def State.atomicScratch (s : State) (i : Instr) (f : LaneFields) (op : Nat) (sh : Shape) : State :=
  let size := tyWidth f.ty.toNat / 8
  s.accessFrame i f sh allOperands (fun s1 x =>
    let cs := checkLanes x.part (fun k => s1.scratchOffset f size true (x.a k))
    match firstCause s1.cur.helpers cs with
    | some (c, m) => s1.trap (BitVec.ofNat 8 c) m i
    | none =>
      let live := (passing cs).filter (fun e => !s1.cur.helpers.getLsbD e.1)
      let (order, s2) := s1.inOrder live
      let (s3, outs) := s2.scratchAtomics f op x order
      s3.finishAccess i f sh x.part (zeroOuts x.part outs))

def execAtomsAdd (f : LaneFields) (s : State) : Out :=
  .next (s.atomicScratch (.atomsAdd f) f 0 (Shape.atoms atomAddTys false f))
def execAtomsMin (f : LaneFields) (s : State) : Out :=
  .next (s.atomicScratch (.atomsMin f) f 1 (Shape.atoms tysMulh false f))
def execAtomsMax (f : LaneFields) (s : State) : Out :=
  .next (s.atomicScratch (.atomsMax f) f 2 (Shape.atoms tysMulh false f))
def execAtomsAnd (f : LaneFields) (s : State) : Out :=
  .next (s.atomicScratch (.atomsAnd f) f 3 (Shape.atoms bitTys false f))
def execAtomsOr (f : LaneFields) (s : State) : Out :=
  .next (s.atomicScratch (.atomsOr f) f 4 (Shape.atoms bitTys false f))
def execAtomsXor (f : LaneFields) (s : State) : Out :=
  .next (s.atomicScratch (.atomsXor f) f 5 (Shape.atoms bitTys false f))
def execAtomsXchg (f : LaneFields) (s : State) : Out :=
  .next (s.atomicScratch (.atomsXchg f) f 6 (Shape.atoms bitTys false f))
def execAtomsCas (f : LaneFields) (s : State) : Out :=
  .next (s.atomicScratch (.atomsCas f) f 7 (Shape.atoms bitTys true f))

/-! ### Global memory (R245 to R249) -/

/-- A lane's access with the pieces of its element and of its scale word. -/
structure Reached where
  lane : Nat
  acc : LaneAccess
  elem : List Piece
  scale : List Piece
  deriving DecidableEq, Repr

/-- A translation fault of a lane: address, reason, whether it is a write (R248). -/
abbrev LaneFault := Nat × Nat × Bool

/-- Translates one lane's access. -/
def State.reach (s : State) (kind : AccessKind) (i : Nat) (a : LaneAccess) : Except LaneFault Reached :=
  let c := s.focus.core
  let asid := s.ctxOf c s.cur.block
  match s.range c asid kind a.va a.n with
  | .error e => .error (e.1, e.2, kind == .store)
  | .ok ps =>
    match a.scale with
    | none => .ok { lane := i, acc := a, elem := ps, scale := [] }
    | some (sa, _) =>
      match s.range c asid .load sa 4 with
      | .error e => .error (e.1, e.2, false)
      | .ok qs => .ok { lane := i, acc := a, elem := ps, scale := qs }

/-- All lanes translated: the first fault that is raised with the lanes that fault, or what is
reached. -/
def State.reachAll (s : State) (kind : AccessKind) (as : List (Nat × LaneAccess)) :
    Except (LaneFault × LaneMask) (List Reached) :=
  let rs := as.map (fun e => (e.1, s.reach kind e.1 e.2))
  let bad := rs.filterMap (fun e =>
    match e.2 with
    | .error x => if s.cur.helpers.getLsbD e.1 then none else some (e.1, x)
    | .ok _ => none)
  match bad with
  | (_, x) :: _ => .error (x, maskOf (fun i => bad.any (fun e => e.1 == i)))
  | [] => .ok (rs.filterMap (fun e =>
      match e.2 with
      | .ok r => some r
      | .error _ => none))

/-- The value that a reached element or scale word holds for a lane. -/
def reachedValue (m : Memory) (rs : List Reached) (sel : Reached → List Piece) (i : Nat) : PX :=
  match rs.find? (fun r => r.lane == i) with
  | some r => m.value (sel r)
  | none => PX.zero

/-- What a load of lanes reads, in the order in which it is forwarded (R439): elements, scale words,
and 1 where a checked acquire was dropped. -/
def State.readLanes (s : State) (lanes : List Nat) (rs : List Reached) (acquire : Option Nat) : List PX :=
  let c := s.focus.core
  let m := s.view c s.focus.fib
  let drop := match acquire with
    | some scope => rs.any (fun r => s.dropsAcquireOf c s.focus.fib scope r.elem)
    | none => false
  lanes.map (reachedValue m rs Reached.elem) ++ lanes.map (reachedValue m rs Reached.scale) ++
    [PX.clean (if drop then 1 else 0)]

/-- Accesses that touch a watched range. -/
def State.watchAll (s : State) (load : Bool) (as : List (Nat × LaneAccess)) : State :=
  as.foldl (fun t e => t.watch e.2.va e.2.n load) s

/-- `ldg` (R245, R246). -/
def State.loadGlobal (s : State) (i : Instr) (f : LaneFields) (sh : Shape) : State :=
  let r := s.record (immBx f)
  let c := s.focus.core
  s.accessFrame i f sh addressOnly (fun s1 x =>
    let cs := checkLanes x.part (fun k => globalAccess r f false (x.a k))
    match firstCause s1.cur.helpers cs with
    | some (cause, m) => s1.trap (BitVec.ofNat 8 cause) m i
    | none =>
      let as := passing cs
      let lanes := as.map (fun e => e.1)
      match (if s1.isTrail c s.focus.fib then .ok [] else s1.reachAll .load as) with
      | .error (e, m) => s1.pageFault e.1 e.2.1 e.2.2 false m
      | .ok rs =>
        if rs.any (fun q => s1.onceAhead c s.focus.fib q.elem) then s.wait .stall
        else
          match s1.receive c s.focus.fib .value (fun t =>
              t.readLanes lanes rs (if f.m2 = 1 then some f.m1.toNat else none)) with
          | none => s.wait .stall
          | some (vs, s2) =>
            let n := lanes.length
            let outs := (List.range n).map (fun k =>
              let e := as.getD k (0, ⟨0, 0, 0, 0, none⟩)
              convertLoad r f.ty.toNat e.1 (vs.getD k PX.zero) (vs.getD (n + k) PX.zero) e.2)
            let s3 := if (vs.getD (2 * n) PX.zero).bits = 1 then s2.orChki chkiScope else s2
            (s3.watchAll true as).finishAccess i f sh x.part (zeroOuts x.part outs))
def execLdg (f : LaneFields) (s : State) : Out := .next (s.loadGlobal (.ldg f) f (Shape.ldg f))

/-- What a store writes for a lane: the bytes at its address, the bits it keeps, and the exception bits
of its conversion. -/
def storeBytes (r : BitVec 320) (v scale : PX) (a : LaneAccess) :
    List (BitVec 8) × List (BitVec 8) × BitVec 32 :=
  let (code, fl) :=
    if recRaw r then (v.bits.toNat % 2 ^ a.w, (0 : BitVec 32)) else convertStore r v scale a
  let bytes := bytesOf a.n (code * 2 ^ a.lo)
  let keep := if a.w = 8 * a.n then [] else bytesOf a.n (2 ^ (8 * a.n) - 1 - (2 ^ a.w - 1) * 2 ^ a.lo)
  (bytes, keep, fl)

/-- log2 of an element size in bytes, for a signature (R460). -/
def log2Size (n : Nat) : Nat := if n ≤ 1 then 0 else Nat.log2 n

/-- The write of one lane of a store. -/
def storeWrite (r : BitVec 320) (v scale : PX) (e : Nat × LaneAccess) (rs : List Reached)
    (action : ReleaseAction) : GlobalWrite × BitVec 32 :=
  let (bytes, keep, fl) := storeBytes r v scale e.2
  let poison := v.poison || scale.poison
  let ps := match rs.find? (fun q => q.lane == e.1) with
    | some q => putsTo poison q.elem bytes keep
    | none => []
  ({ va := e.2.va, opSize := log2Size e.2.n, poison := poison, data := bytes, puts := ps,
     action := action, once := none }, if poison then 0 else fl)

/-- The scale words that a converting store reads (R246). -/
def State.readScales (s : State) (lanes : List Nat) (rs : List Reached) : List PX :=
  lanes.map (reachedValue (s.view s.focus.core s.focus.fib) rs Reached.scale)

/-- The writes of a store, performed in an unspecified order or placed in ascending lane index (R272,
R460). -/
def State.performStores (s : State) (ws : List GlobalWrite) : State :=
  let c := s.focus.core
  let f := s.focus.fib
  if s.isAlone c f then
    let (order, s1) := s.inOrder ws
    order.foldl (fun t w => t.placeEntry c f w) s1
  else ws.foldl (fun t w => t.placeEntry c f w) s

/-- `stg` (R245 to R247). -/
def State.storeGlobal (s : State) (i : Instr) (f : LaneFields) (sh : Shape) : State :=
  let r := s.record (immBx f)
  let c := s.focus.core
  let fib := s.focus.fib
  s.accessFrame i f sh addressOnly (fun s1 x =>
    let cs := checkLanes x.part (fun k => globalAccess r f true (x.a k))
    match firstCause s1.cur.helpers cs with
    | some (cause, m) => s1.trap (BitVec.ofNat 8 cause) m i
    | none =>
      let as := (passing cs).filter (fun e => !s1.cur.helpers.getLsbD e.1)
      let lanes := as.map (fun e => e.1)
      match (if s1.isTrail c fib then .ok [] else s1.reachAll .store as) with
      | .error (e, m) => s1.pageFault e.1 e.2.1 e.2.2 false m
      | .ok rs =>
        if s1.slackFull c fib then s.wait .stall
        else
          let scaled := as.any (fun e => e.2.scale.isSome)
          match (if scaled then s1.receive c fib .value (fun t => t.readScales lanes rs)
              else some ([], s1)) with
          | none => s.wait .stall
          | some (vs, s2) =>
            let action := s2.releaseOf c fib (f.m2 == 2) f.m1.toNat
            let ws := (List.range as.length).map (fun k =>
              let e := as.getD k (0, ⟨0, 0, 0, 0, none⟩)
              storeWrite r (x.b e.1) (vs.getD k PX.zero) e rs action)
            let fl := ws.foldl (fun a w => a ||| w.2) 0
            let clamped := (ws.filter (fun w => w.2 &&& fSat != 0)).length
            let s3 := (s2.orChki fl).modCur (fun y => if recCntsat r then y.addSatc clamped else y)
            ((s3.performStores (ws.map (fun w => w.1))).watchAll false as).finishAccess i f sh x.part [])
def execStg (f : LaneFields) (s : State) : Out := .next (s.storeGlobal (.stg f) f (Shape.stg f))

/-- `prefg` changes no visible state (R249). -/
def execPrefg (f : LaneFields) (s : State) : Out :=
  let i : Instr := .prefg f
  .next (s.accessFrame i f Shape.prefg addressOnly (fun s1 x =>
    s1.finishAccess i f Shape.prefg x.part []))

/-! ### Global atomics (R250 to R253) -/

/-- Performs an atomic for a fibre: the old value, whether its acquire was dropped, and the state after
it. (DEDUCED: log entry 29) -/
def State.performAtomic (s : State) (c f : Nat) (a : AtomicOp) : PX × Bool × State :=
  let size := tyWidth a.ty / 8
  if a.por || s.mem.anyPoison a.addr size then (⟨0, true⟩, false, s)
  else
    let old := s.mem.num a.addr size
    let drop := match a.acquire with
      | some scope => s.dropsAcquire c f scope a.addr
      | none => false
    (PX.clean (BitVec.ofNat 64 old), drop,
      (s.writeMem a.addr (bytesOf size (atomicNew a.op a.ty old a.b a.c)) false a.action).injectGlobal c (some a.addr))

/-- The operation and size byte of an atomic or reduction (R460). -/
def atomicSig (op ty : Nat) (red : Bool) : Nat :=
  16 * (if red then 9 + op else 1 + op) + log2Size (tyWidth ty / 8)

/-- The atomic of one lane. -/
def State.atomicWrite (s : State) (f : LaneFields) (op : Nat) (red : Bool) (x : LaneCtx)
    (e : Nat × LaneAccess) (rs : List Reached) : GlobalWrite :=
  let ty := f.ty.toNat
  let b := opBits ty (x.b e.1)
  let cOp := opBits ty (x.c e.1)
  let size := tyWidth ty / 8
  let p := match rs.find? (fun q => q.lane == e.1) with
    | some q => q.elem.headD ⟨0, 0, false⟩
    | none => ⟨0, 0, false⟩
  let action := if f.m2.toNat = 2 ∨ f.m2.toNat = 3 then
      s.releaseOf s.focus.core s.focus.fib true f.m1.toNat else .keep
  { va := e.2.va, opSize := atomicSig op ty red, poison := false,
    data := bytesOf size b ++ (if op = 7 && !red then bytesOf size cOp else []), puts := [],
    action := action,
    once := some (.atomic { op := op, ty := ty, addr := p.addr, por := p.por, b := b, c := cOp,
                            action := action,
                            acquire := if f.m2.getLsbD 0 then some f.m1.toNat else none }) }

/-- The atomics of several lanes, one after the other. (DEDUCED: log entry 85) -/
def State.performAtomics (s : State) : List (Nat × GlobalWrite) → State × List LaneOut
  | [] => (s, [])
  | (i, w) :: rest =>
    match w.once with
    | some (.atomic a) =>
      let (old, drop, s1) := s.performAtomic s.focus.core s.focus.fib a
      let s2 := if drop then s1.orChki chkiScope else s1
      let (s3, outs) := s2.performAtomics rest
      (s3, ⟨i, ⟨BitVec.ofNat 64 (place a.ty old.bits.toNat), old.poison⟩, 0, none⟩ :: outs)
    | _ => s.performAtomics rest

/-- Where the result of an atomic of a pair goes. -/
def owedDest (red : Bool) (sh : Shape) (n : Nat) : OwedDest :=
  if red then .nothing
  else
    match sh.vd with
    | .dst p => if 240 ≤ n then .queue (n - 240) else .reg n p
    | _ => .nothing

/-- A copy of a pair places its atomics; their results are owed (R442). -/
def State.placeAtomics (s : State) (i : Instr) (f : LaneFields) (red : Bool) (sh : Shape)
    (part : LaneMask) (ws : List (Nat × GlobalWrite)) : State :=
  let c := s.focus.core
  let fib := s.focus.fib
  let s1 := ws.foldl (fun t w => t.placeEntry c fib w.2) s
  let lanes := ws.map (fun w => w.1)
  let others := zeroOuts part (lanes.map (fun l => LaneOut.plain l 0))
  let zeros := (others.filter (fun o => !lanes.contains o.lane)).map (fun o => (o.lane, PX.zero))
  let s2 := (popsOf sh f).foldl State.popQueue (s1.dropLastUse f sh part)
  let flag := s2.flagFor f.fs
  let s3 := s2.modCur (fun y =>
    match flag with
    | some n => y.incFlag n
    | none => y)
  (s3.owe c fib { dest := owedDest red sh f.vd.toNat, vals := zeros, lanes := lanes, flag := flag }).retire i

/-- `atom` and `red` (R250 to R252). -/
def State.atomicGlobal (s : State) (i : Instr) (f : LaneFields) (op : Nat) (red : Bool) (sh : Shape) :
    State :=
  let r := s.record (immBx f)
  let c := s.focus.core
  let fib := s.focus.fib
  s.accessFrame i f sh allOperands (fun s1 x =>
    let bad := !recRaw r || (decide (12 ≤ recEnc r) && decide (recEnc r ≤ 15)) || recBadFormat r
    let cs := checkLanes x.part (fun k =>
      if bad then .error 0x04
      else if recDenied r true then .error 0x08
      else rawAccess r (tyWidth f.ty.toNat / 8) (laneIndexOf f (x.a k)))
    match firstCause s1.cur.helpers cs with
    | some (cause, m) => s1.trap (BitVec.ofNat 8 cause) m i
    | none =>
      let as := (passing cs).filter (fun e => !s1.cur.helpers.getLsbD e.1)
      match (if s1.isTrail c fib then .ok [] else s1.reachAll .store as) with
      | .error (e, m) => s1.pageFault e.1 e.2.1 e.2.2 false m
      | .ok rs =>
        let ws := as.map (fun e => (e.1, s1.atomicWrite f op red x e rs))
        if s1.isAlone c fib then
          let (order, s2) := s1.inOrder ws
          let (s3, outs) := s2.performAtomics order
          (s3.watchAll false as).finishAccess i f sh x.part (zeroOuts x.part outs)
        else if s1.slackFull c fib then s.wait .stall
        else if ws.isEmpty then s1.finishAccess i f sh x.part (zeroOuts x.part [])
        else (s1.watchAll false as).placeAtomics i f red sh x.part ws)

def execAtomAdd (f : LaneFields) (s : State) : Out :=
  .next (s.atomicGlobal (.atomAdd f) f 0 false (Shape.atom atomAddTys false f))
def execAtomMin (f : LaneFields) (s : State) : Out :=
  .next (s.atomicGlobal (.atomMin f) f 1 false (Shape.atom tysMulh false f))
def execAtomMax (f : LaneFields) (s : State) : Out :=
  .next (s.atomicGlobal (.atomMax f) f 2 false (Shape.atom tysMulh false f))
def execAtomAnd (f : LaneFields) (s : State) : Out :=
  .next (s.atomicGlobal (.atomAnd f) f 3 false (Shape.atom bitTys false f))
def execAtomOr (f : LaneFields) (s : State) : Out :=
  .next (s.atomicGlobal (.atomOr f) f 4 false (Shape.atom bitTys false f))
def execAtomXor (f : LaneFields) (s : State) : Out :=
  .next (s.atomicGlobal (.atomXor f) f 5 false (Shape.atom bitTys false f))
def execAtomXchg (f : LaneFields) (s : State) : Out :=
  .next (s.atomicGlobal (.atomXchg f) f 6 false (Shape.atom bitTys false f))
def execAtomCas (f : LaneFields) (s : State) : Out :=
  .next (s.atomicGlobal (.atomCas f) f 7 false (Shape.atom bitTys true f))
def execRedAdd (f : LaneFields) (s : State) : Out :=
  .next (s.atomicGlobal (.redAdd f) f 0 true (Shape.red atomAddTys f))
def execRedMin (f : LaneFields) (s : State) : Out :=
  .next (s.atomicGlobal (.redMin f) f 1 true (Shape.red tysMulh f))
def execRedMax (f : LaneFields) (s : State) : Out :=
  .next (s.atomicGlobal (.redMax f) f 2 true (Shape.red tysMulh f))
def execRedAnd (f : LaneFields) (s : State) : Out :=
  .next (s.atomicGlobal (.redAnd f) f 3 true (Shape.red bitTys f))
def execRedOr (f : LaneFields) (s : State) : Out :=
  .next (s.atomicGlobal (.redOr f) f 4 true (Shape.red bitTys f))
def execRedXor (f : LaneFields) (s : State) : Out :=
  .next (s.atomicGlobal (.redXor f) f 5 true (Shape.red bitTys f))

/-! ### Scalar loads and stores (R164 to R166) -/

/-- A scalar memory address: traps 0x08, then 0x07 (R165). -/
def scalarCause (addr : DWord) (size : Nat) : Option (BitVec 8) :=
  if addr.extractLsb' 57 7 ≠ 0 then some 0x08
  else if addr.toNat % size ≠ 0 then some 0x07
  else none

/-- `sld` and `sldk` of a width, extended by U; a checked acquire at a scope. -/
def State.scalarLoad (s : State) (i : Instr) (sd sa : BitVec 6) (off : DWord) (w : Nat) (u : Bool)
    (acquire : Option Nat) : State :=
  let c := s.focus.core
  let fib := s.focus.fib
  let (a, s1) := s.useScalar sa.toNat
  let addr := a + off
  let size := w / 8
  match scalarCause addr size with
  | some cause => s1.trap cause 0 i
  | none =>
    if s1.flagFull false then s.wait .stall
    else
      match (if s1.isTrail c fib then .ok [] else s1.range c s1.curCtx .load addr.toNat size) with
      | .error e => s1.pageFault e.1 e.2 false false s1.gangLanes
      | .ok ps =>
        if s1.onceAhead c fib ps then s.wait .stall
        else
          let drop := match acquire with
            | some scope => s1.dropsAcquireOf c fib scope ps
            | none => false
          match s1.receive c fib .value (fun t =>
              [(t.view c fib).value ps, PX.clean (if drop then 1 else 0)]) with
          | none => s.wait .stall
          | some (vs, s2) =>
            let v := vs.getD 0 PX.zero
            let s3 := if (vs.getD 1 PX.zero).bits = 1 then s2.orChki chkiScope else s2
            let s4 := s3.modCur (fun x => x.setScalar sd.toNat ⟨ext64 w u v.bits.toNat, v.poison⟩)
            ((s4.watch addr.toNat size true).selectFlag false).retire i

/-- `sst` of a width (R165). The data register carries its poison (R158). -/
def State.scalarStore (s : State) (i : Instr) (sd sa : BitVec 6) (off : DWord) (w : Nat)
    (release : Option Nat) : State :=
  let c := s.focus.core
  let fib := s.focus.fib
  let (a, s1) := s.useScalar sa.toNat
  let addr := a + off
  let size := w / 8
  match scalarCause addr size with
  | some cause => s1.trap cause 0 i
  | none =>
    if s1.flagFull false || s1.slackFull c fib then s.wait .stall
    else
      match (if s1.isTrail c fib then .ok [] else s1.range c s1.curCtx .store addr.toNat size) with
      | .error e => s1.pageFault e.1 e.2 true false s1.gangLanes
      | .ok ps =>
        let v := s1.cur.scalar sd.toNat
        let bs := bytesOf size v.bits.toNat
        let w : GlobalWrite :=
          { va := addr.toNat, opSize := log2Size size, poison := v.poison, data := bs,
            puts := putsTo v.poison ps bs [],
            action := s1.releaseOf c fib release.isSome (release.getD 0), once := none }
        (((s1.placeEntry c fib w).watch addr.toNat size false).selectFlag false).retire i

/-- Order and scope of a two-parcel form (R164). -/
def longOrder (f : ScalarLong) : Nat := (f.x.extractLsb' 6 2).toNat
def longScope (f : ScalarLong) : Nat := (f.x.extractLsb' 3 3).toNat
def longWidth (f : ScalarLong) : Nat := scalarWidth (f.x.extractLsb' 1 2).toNat

def execSld (f : ScalarImm) (s : State) : Out :=
  .next (s.scalarLoad (.sld f) f.sd f.sa (f.imm.signExtend 64) 64 false none)
def execSldLong (f : ScalarLong) (s : State) : Out :=
  .next (s.scalarLoad (.sldLong f) f.sd f.sa (f.imm.signExtend 64) (longWidth f) (f.x.getLsbD 0)
    (if longOrder f = 1 then some (longScope f) else none))
def execSldk (f : ScalarImm) (s : State) : Out :=
  .next (s.scalarLoad (.sldk f) f.sd f.sa (f.imm.signExtend 64) 64 false none)
def execSldkLong (f : ScalarLong) (s : State) : Out :=
  .next (s.scalarLoad (.sldkLong f) f.sd f.sa (f.imm.signExtend 64) (longWidth f) (f.x.getLsbD 0) none)
def execSst (f : ScalarImm) (s : State) : Out :=
  .next (s.scalarStore (.sst f) f.sd f.sa (f.imm.signExtend 64) 64 none)
def execSstLong (f : ScalarLong) (s : State) : Out :=
  .next (s.scalarStore (.sstLong f) f.sd f.sa (f.imm.signExtend 64) (longWidth f)
    (if longOrder f = 2 then some (longScope f) else none))

end Sys2Proof.Machine
end

