-- ==== Sys2Proof/Machine/Engine.lean ====
section
/-! DEFINITION. What the engines share: operand slots and tiles, pinned handles, the nodes of the
dependence graph, how a command ends and its record enters its queue (R276, R277, R281, R283, R288, R306
to R309, R422, R423, R442). -/

namespace Sys2Proof.Machine

/-! ### Operand slots (R281, R357) -/

/-- Bytes of a slot space (R281). -/
abbrev slotSpace : Nat := 4352
/-- A byte with its poison. -/
abbrev PByte := BitVec 8 × Bool

/-- Slot bytes are addressed linearly: byte b of slot n at 4352 n + b. -/
def CoreMem.slotByte (m : CoreMem) (a : Nat) : BitVec 8 := Tab.get 0 m.slotBytes a
def CoreMem.slotNum (m : CoreMem) (a n : Nat) : Nat :=
  ofBytes ((List.range n).map (fun k => m.slotByte (a + k)))
/-- Some byte lies in a poisoned granule. -/
def CoreMem.slotBad (m : CoreMem) (a n : Nat) : Bool :=
  (List.range n).any (fun k => Tab.get false m.slotPoison ((a + k) / 32))
/-- Bytes of slots with their poison. -/
def CoreMem.slotRun (m : CoreMem) (a n : Nat) : List PByte :=
  (List.range n).map (fun k => (m.slotByte (a + k), Tab.get false m.slotPoison ((a + k) / 32)))

/-- The poison of granule `g` after a run of bytes is written from `a` (R357): a poisoned byte poisons
it, clean bytes that fill it clean it. -/
def granuleAfter (a : Nat) (bs : List PByte) (old : Bool) (g : Nat) : Bool :=
  let lo := max a (32 * g)
  let hi := min (a + bs.length) (32 * g + 32)
  if ((bs.drop (lo - a)).take (hi - lo)).any (fun b => b.2) then true
  else if a ≤ 32 * g ∧ 32 * g + 32 ≤ a + bs.length then false
  else old
/-- The granules that a run of n bytes touches. -/
def granulesOf (a n : Nat) : List Nat :=
  (List.range ((a + n + 31) / 32 - a / 32)).map (fun k => a / 32 + k)
def CoreMem.writeSlot (m : CoreMem) (a : Nat) (bs : List PByte) : CoreMem :=
  { m with
    slotBytes := Tab.setAll 0 m.slotBytes (bs.zipIdx.map (fun e => (a + e.2, e.1.1))),
    slotPoison := (granulesOf a bs.length).foldl (fun t g =>
      Tab.set false t g (granuleAfter a bs (Tab.get false t g) g)) m.slotPoison }
/-- A slot reads zero in every byte (R281). -/
def CoreMem.clearSlot (m : CoreMem) (n : Nat) : CoreMem :=
  { m with slotBytes := m.slotBytes.filter (fun e => e.1 / slotSpace != n),
           slotPoison := m.slotPoison.filter (fun e => e.1 / 136 != n) }

/-- The bytes of a number, all poisoned or all clean. -/
def pbytes (n x : Nat) (poison : Bool) : List PByte := (bytesOf n x).map (fun b => (b, poison))

/-! ### Accumulator tiles (R288) -/

def CoreMem.tile (m : CoreMem) (t i : Nat) : PW := Tab.get PW.zero m.tiles (4096 * t + i)
/-- All 4,096 entries of a tile. -/
def CoreMem.tileList (m : CoreMem) (t : Nat) : List PW := (List.range 4096).map (m.tile t)
/-- Replaces a whole tile. -/
def CoreMem.setTile (m : CoreMem) (t : Nat) (vs : List PW) : CoreMem :=
  let new := (vs.take 4096).zipIdx.filterMap (fun e =>
    if e.1 = PW.zero then Option.none else some (4096 * t + e.2, e.1))
  { m with tiles := m.tiles.filter (fun e => decide (e.1 < 4096 * t)) ++ new ++
      m.tiles.filter (fun e => decide (4096 * t + 4096 ≤ e.1)) }
def CoreMem.setMark (m : CoreMem) (t : Nat) (b : Bool) : CoreMem :=
  { m with marks := if b then m.marks ||| BitVec.ofNat 18 (2 ^ t)
                    else m.marks &&& ~~~BitVec.ofNat 18 (2 ^ t) }
def CoreState.modMem (k : CoreState) (g : CoreMem → CoreMem) : CoreState := { k with mem := g k.mem }
def CoreState.modEng (k : CoreState) (g : Engines → Engines) : CoreState := { k with eng := g k.eng }

/-! ### Fields of commands (R99, R275, R294) -/

abbrev fwAf (w : BitVec 32) : Nat := bitsAt w.toNat 0 5
abbrev fwBf (w : BitVec 32) : Nat := bitsAt w.toNat 5 5
abbrev fwCf (w : BitVec 32) : Nat := bitsAt w.toNat 10 5
abbrev fwDf (w : BitVec 32) : Nat := bitsAt w.toNat 15 5
abbrev fwDrm (w : BitVec 32) : Nat := bitsAt w.toNat 20 2
abbrev fwDsat (w : BitVec 32) : Bool := w.getLsbD 22
abbrev fwSp (w : BitVec 32) : Bool := w.getLsbD 23
abbrev fwTra (w : BitVec 32) : Bool := w.getLsbD 24
abbrev fwTrb (w : BitVec 32) : Bool := w.getLsbD 25
abbrev fwRest (w : BitVec 32) : Nat := bitsAt w.toNat 26 6

/-- RQ, the record requested (R275). -/
def Command.rq (c : Command) : Bool := c.imm.testBit 18
/-- BX and the bit beside it: SR of a `drain`, QM of an `ald`. -/
def Command.bx (c : Command) : Nat := bitsAt c.imm 6 6
def Command.bit12 (c : Command) : Bool := c.imm.testBit 12
/-- Word `k` of the scalar operand or descriptor. -/
def Command.word' (c : Command) (k : Nat) : Nat := (c.desc.getD k 0).toNat
/-- Destination of a `drain`; kind and direction of a copy. -/
def Command.sub (c : Command) : Nat := c.m1 % 8
abbrev Command.kind (c : Command) : Nat := c.m1 / 2 % 4
abbrev Command.outward (c : Command) : Bool := c.m1.testBit 0

/-- A format whose A or B tile takes a companion slot (R286). -/
def companioned (f : Nat) : Bool := f == 14 || f == 15
/-- The slots of an operand tile (R287, R290). -/
def operandSlots (sp : Bool) (fmt o : Nat) : List Nat :=
  if sp || companioned fmt then [o, o + 1] else [o]
/-- Slots that a `drain.slot` writes (R296). -/
def drainSlots (df o : Nat) : List Nat :=
  let w := codeWidth df
  (List.range (if w ≤ 8 then 1 else w / 8)).map (fun j => o + j) ++
    (if companioned df then [o + 1] else [])
/-- Slots that a copy touches (R297). A core has 128: 129 in a row name one that no block claims, and
no more are listed. -/
def copySlots (o sb bytes : Nat) : List Nat :=
  if bytes = 0 then []
  else (List.range (min 129 ((sb + bytes - 1) / slotSpace + 1 - sb / slotSpace))).map (fun j =>
    o + sb / slotSpace + j)

/-- A copy's fields (R297). -/
abbrev Command.cpyNr (c : Command) : Nat := bitsAt (c.word' 0) 48 16
abbrev Command.cpyGofs (c : Command) : Nat := bitsAt (c.word' 0) 0 48
abbrev Command.cpyGstride (c : Command) : Nat := bitsAt (c.word' 1) 32 32
abbrev Command.cpyRb (c : Command) : Nat := bitsAt (c.word' 1) 0 32
abbrev Command.cpyNd (c : Command) : Nat := bitsAt (c.word' 3) 0 13

/-- The slots that a command reads. -/
def Command.reads (c : Command) : List Nat :=
  if c.op = 0x122 then
    operandSlots (fwSp c.word) (fwAf c.word) c.va ++ operandSlots (fwSp c.word) (fwBf c.word) c.vb
  else if (c.op = 0x128 ∧ c.outward) ∨ c.op = 0x129 then
    (if c.kind = 2 then copySlots c.vd (bitsAt (c.word' 2) 0 13) (c.cpyNr * c.cpyRb) else [])
  else []
/-- The slots that a command writes. -/
def Command.writes (c : Command) : List Nat :=
  if c.op = 0x138 then [c.vd]
  else if c.op = 0x124 ∧ c.sub = 3 then drainSlots (fwDf c.word) c.vd
  else if c.op = 0x128 ∧ !c.outward ∧ c.kind = 2 then
    copySlots c.vd (bitsAt (c.word' 2) 0 13) (c.cpyNr * c.cpyRb)
  else []
/-- The tiles that a command works on (R288, R289). -/
def Command.tiles (c : Command) : List Nat :=
  let pair (t : Nat) : List Nat := if fwCf c.word = 3 then [t, t + 1] else [t]
  if c.op = 0x122 then pair c.vd
  else if c.op = 0x123 ∨ c.op = 0x125 then [c.vd]
  else if c.op = 0x124 then pair c.va
  else []

/-- Two lists share an element. -/
def meets (a b : List Nat) : Bool := a.any (fun x => b.contains x)

/-- A command waits for an earlier accepted one (R289): on a slot that one of them writes, on a tile that
both use, or because drains run one at a time (R370). A `drain` does not wait for an `mma`, `azero` or
`ald` of its tile. -/
def Command.after (c d : Command) : Bool :=
  meets c.reads d.writes || meets c.writes d.reads || meets c.writes d.writes ||
  (c.op == 0x124 && d.op == 0x124) || (c.op != 0x124 && meets c.tiles d.tiles)

/-! ### Pinned handles (R422, R423) -/

/-- A handle table entry, as the copy path uses it. -/
structure Handle where
  writable : Bool
  por : Bool
  gran : Nat
  extent : Nat
  flist : Nat
  deriving DecidableEq, Repr

/-- The four words of a handle table entry: those held by the handle cache, or those in memory. -/
def State.handleWords (s : State) (asid : BitVec 16) (n : Nat) : List DWord :=
  match s.trans.handleCache.find? (fun e => e.1 == asid && e.2.1 == n) with
  | some e => e.2.2
  | none =>
    let a := bitsAt (s.ctxWord asid 1) 5 47 * 32 + 32 * n
    (List.range 4).map (fun k => BitVec.ofNat 64 (s.mem.num (a + 8 * k) 8))

/-- A valid handle of a context (R422). -/
def State.handle? (s : State) (asid : BitVec 16) (h : Nat) : Option Handle :=
  let n := bitsAt h 0 20
  let w := s.handleWords asid n
  let w0 := (w.getD 0 0).toNat
  if bitsAt h 32 25 ≠ 0 ∨ bitsAt (s.ctxWord asid 2) 0 21 ≤ n ∨ !w0.testBit 63 ∨
      bitsAt w0 32 12 ≠ bitsAt h 20 12 then none
  else some { writable := w0.testBit 62, por := w0.testBit 61,
              gran := [2 ^ 12, 2 ^ 16, 2 ^ 21, 2 ^ 30].getD (bitsAt w0 55 2) 4096,
              extent := bitsAt (w.getD 1 0).toNat 0 48, flist := bitsAt (w.getD 2 0).toNat 3 49 * 8 }
/-- The frame with byte `o` of a handle. -/
def State.handleFrame (s : State) (h : Handle) (o : Nat) : Nat :=
  bitsAt (s.mem.num (h.flist + 8 * (o / h.gran)) 8) 12 40 * 4096
/-- The physical address of byte `o`. -/
def State.handleAddr (s : State) (h : Handle) (o : Nat) : Nat := s.handleFrame h o + o % h.gran
/-- The frame of byte `o` is good (R417, R423). -/
def State.frameGood (s : State) (asid : BitVec 16) (h : Handle) (o : Nat) : Bool :=
  s.frameOk (s.partOfCtx asid) (s.handleFrame h o) h.gran

/-! ### Completion records (R276, R277, R439) -/

/-- The record of a command that ends (R276). -/
def recordBits (e status cseq detail : Nat) : DWord :=
  BitVec.ofNat 64 (2 ^ 60 * (e % 4) + 2 ^ 56 * (status % 16) + 2 ^ 32 * (cseq % 65536) + detail % 2 ^ 32)

def Fibre.pushRecord (x : Fibre) (e : Nat) (r : DWord) : Fibre :=
  { x with eq := { x.eq with recs := Tab.set [] x.eq.recs e (Tab.get [] x.eq.recs e ++ [r]) } }

/-- A record enters its queue: none while the queue is full; a lead forwards it, and a trail takes the
forwarded one in its place (R439). -/
def State.enterRecord (s : State) (c f e : Nat) (r : DWord) : Option State :=
  let x := s.fibre c f
  if 16 ≤ (Tab.get [] x.eq.recs e).length then none
  else
    match s.receive c f (.record e) (fun _ => [PX.clean r]) with
    | some (vs, s1) => some (s1.modFibre c f (fun y => y.pushRecord e (vs.getD 0 PX.zero).bits))
    | none => none

/-- A command no longer counts as outstanding, and its flag clears (R277). -/
def Fibre.release (x : Fibre) (e : Nat) (flag : Option Nat) : Fibre :=
  let y := { x with eq := { x.eq with
    outstanding := Tab.set 0 x.eq.outstanding e (Tab.get 0 x.eq.outstanding e - 1) } }
  match flag with
  | some n => y.decFlag n
  | none => y

/-- A command of an engine ends with a status: its record is written or held back, its flag clears. -/
def State.closeCommand (s : State) (c f e : Nat) (cmd : Command) (status detail : Nat) : State :=
  let x := s.fibre c f
  let r := recordBits e status cmd.cseq detail
  let asked := cmd.rq || (status != 0 && status != 6)
  if !asked || !x.resident then s.modFibre c f (fun y => y.release e cmd.flag)
  else
    let held := Tab.get [] x.eq.held e
    let hold := s.modFibre c f (fun y =>
      { y with eq := { y.eq with held := Tab.set [] y.eq.held e (held ++ [(r, cmd.flag)]) } })
    if !held.isEmpty then hold
    else
      match s.enterRecord c f e r with
      | some s1 => s1.modFibre c f (fun y => y.release e cmd.flag)
      | none => hold

/-- COMPLETION_RECORD_ENQUEUE: the oldest held record of an engine enters its queue (R277). -/
def execCompletionRecordEnqueue (core fib engine : Nat) (s : State) : Host.Outcome State Fault Refusal :=
  match Tab.get [] (s.fibre core fib).eq.held engine with
  | [] => .next s
  | (r, flag) :: rest =>
    match s.enterRecord core fib engine r with
    | none => .next s
    | some s1 =>
      .next (s1.modFibre core fib (fun y =>
        ({ y with eq := { y.eq with held := Tab.set [] y.eq.held engine rest } }).release engine flag))

/-! ### Nodes (R305 to R308) -/

def Block.node (b : Block) (id : Nat) : Node := Tab.get Node.free b.nodes id
def Block.setNode (b : Block) (id : Nat) (n : Node) : Block :=
  { b with nodes := Tab.set Node.free b.nodes id n }
def State.node (s : State) (c b id : Nat) : Node := (s.block c b).node id
def State.setNode (s : State) (c b id : Nat) (n : Node) : State :=
  s.setBlock c b ((s.block c b).setNode id n)
/-- Node ids of a block's launch (R305). -/
def State.nodeIds (s : State) (c b : Nat) : Nat :=
  match s.launchOf c b with
  | some l => if l.depth = 0 then 32 else 512
  | none => 32

/-- A command goes to the end of its engine's queue. -/
def Fibre.enqueue (x : Fibre) (e : Nat) (cmd : Command) : Fibre :=
  { x with eq := { x.eq with cmds := Tab.set [] x.eq.cmds e (Tab.get [] x.eq.cmds e ++ [cmd]) } }

/-- What happens to a node. -/
inductive NodeWork where
  | launch (id : Nat)
  | signal (id : Nat)
  | finish (id : Nat)
  deriving DecidableEq, Repr

/-- One thing that happens to a node, and what it leads to (R306, R308). -/
def State.nodeStep (s : State) (c b : Nat) (w : NodeWork) : State × List NodeWork :=
  match w with
  | .launch id =>
    let n := s.node c b id
    let s1 := s.setNode c b id { n with state := .launched }
    match n.cmd with
    | some (e, f, cmd) =>
      if e = 3 then (s1.closeCommand c f 3 cmd 0 id, [.finish id])
      else (s1.modFibre c f (fun x => x.enqueue e cmd), [])
    | none => (s1, [.finish id])
  | .signal id =>
    let n := s.node c b id
    if n.state = .waiting ∧ n.count ≠ 0 then
      (s.setNode c b id { n with count := n.count - 1 }, if n.count = 1 then [.launch id] else [])
    else (s, [])
  | .finish id =>
    let n := s.node c b id
    let s1 := n.bindings.foldl (fun t e => t.modFibre c e.1 (fun x => x.decFlag e.2)) s
    (s1.setNode c b id Node.free, n.succ.map NodeWork.signal)

/-- Works off what happens to nodes, in order. `fuel` bounds the steps: a node launches once. -/
def State.nodeWork (s : State) (c b : Nat) : Nat → List NodeWork → State
  | 0, _ => s
  | _ + 1, [] => s
  | fuel + 1, w :: rest =>
    let (s1, more) := s.nodeStep c b w
    s1.nodeWork c b fuel (rest ++ more)
def State.runNodes (s : State) (c b : Nat) (ws : List NodeWork) : State := s.nodeWork c b 4096 ws

/-! ### Releasing slots (R283) -/

/-- Accepted commands of a core. -/
def Engines.accepted (e : Engines) : List Accepted := e.matrix ++ e.copies
/-- An accepted command reads or writes a slot. -/
def Engines.uses (e : Engines) (n : Nat) : Bool :=
  e.accepted.any (fun a => a.cmd.reads.contains n || a.cmd.writes.contains n)
/-- Deferred releases that nothing holds any more take place. -/
def CoreState.settleReleases (k : CoreState) : CoreState :=
  k.mem.releasing.foldl (fun k n =>
    if k.eng.uses n then k
    else k.modMem (fun m => { m.clearSlot n with
      claims := Tab.set 0 m.claims n 0, releasing := m.releasing.filter (· != n) })) k

/-- A command of an engine ends: record, flag, node, deferred releases (R277, R283, R306). -/
def State.endCommand (s : State) (c f e : Nat) (cmd : Command) (status detail : Nat) : State :=
  let b := (s.fibre c f).block
  let s1 := s.closeCommand c f e cmd status detail
  let s2 := match cmd.node with
    | some id => s1.runNodes c b [.finish id]
    | none => s1
  s2.modCore c CoreState.settleReleases

end Sys2Proof.Machine
end

