-- ==== Sys2Proof/Machine/Issue.lean ====
section
/-! DEFINITION. How an engine instruction, or a command record, forms a command at issue: its checks,
what it does at once, and its place in a queue or a node (R269, R274 to R283, R287 to R308). -/

namespace Sys2Proof.Machine

/-! ### Descriptors (R302, R305) -/

/-- A field of a descriptor: word, lowest bit, bits. -/
def descFld (d : List DWord) (k lo n : Nat) : Nat := bitsAt (d.getD k 0).toNat lo n

/-- The window of a `wgath` or `wpool` along one axis (R152, R302): image size, filter size, dilation,
stride, padding before and after, plane position of the image, position of the output. -/
structure WinAxis where
  n : Nat
  k : Nat
  dil : Nat
  st : Nat
  pl : Nat
  ph : Nat
  i0 : Nat
  o0 : Nat
  deriving DecidableEq, Repr

def winX (d : List DWord) : WinAxis :=
  { n := descFld d 0 32 16, k := descFld d 1 48 8, dil := descFld d 2 16 8, st := descFld d 2 0 8,
    pl := descFld d 2 32 8, ph := descFld d 2 40 8, i0 := descFld d 0 0 16, o0 := descFld d 1 0 16 }
def winY (d : List DWord) : WinAxis :=
  { n := descFld d 0 48 16, k := descFld d 1 56 8, dil := descFld d 2 24 8, st := descFld d 2 8 8,
    pl := descFld d 2 48 8, ph := descFld d 2 56 8, i0 := descFld d 0 16 16, o0 := descFld d 1 16 16 }

/-- The output size along an axis (R152). -/
def WinAxis.out (a : WinAxis) : Int :=
  ((a.n : Int) + a.pl + a.ph - a.dil * ((a.k : Int) - 1) - 1) / a.st + 1
/-- A size, stride or dilation is 0 (R302). -/
def WinAxis.zeroSized (a : WinAxis) : Bool := a.n == 0 || a.k == 0 || a.dil == 0 || a.st == 0

/-- Elements of a plane or register word (R213). -/
def wordElems (w : Nat) : Nat := if w = 6 then 4 else 32 / w
/-- Plane words that `n` channels of a format take (R302). -/
def channelWords (fmt n : Nat) : Nat :=
  if fmt = 3 then 2 * n else (n + wordElems (codeWidth fmt) - 1) / wordElems (codeWidth fmt)

/-- HALF of a `wgath`, and the K of its tile (R303). -/
def winHalf (d : List DWord) : Bool := descFld d 3 16 1 == 1
def gatherK (af : Nat) (half : Bool) : Nat :=
  match codeWidth af with
  | 16 => 32
  | 32 => 16
  | 64 => 8
  | 4 => if half then 64 else 128
  | _ => 64

/-- A reserved value or a reserved bit in a window descriptor (R302). (DEDUCED: log entry 40) -/
def windowReserved (op : Nat) (d : List DWord) : Bool :=
  decide (4 ≤ descFld d 3 12 4) ||
  (if op = 0x138 then descFld d 3 21 11 != 0 || descFld d 3 17 4 != 0 else descFld d 1 44 4 != 0)

/-- A node descriptor names a node outside the block's range or has a reserved bit set (R305). (DEDUCED: log entry 40) -/
def badNode (limit : Nat) (d : DWord) : Bool :=
  let x := d.toNat
  bitsAt x 44 20 != 0 || bitsAt x 9 7 != 0 || decide (limit ≤ bitsAt x 0 9) ||
  (x.testBit 33 && decide (limit ≤ bitsAt x 24 9)) || (x.testBit 43 && decide (limit ≤ bitsAt x 34 9))
/-- Valid successors. -/
def nodeSuccs (d : DWord) : List Nat :=
  (if d.getLsbD 33 then [bitsAt d.toNat 24 9] else []) ++ (if d.getLsbD 43 then [bitsAt d.toNat 34 9] else [])

/-! ### Fields of an engine instruction (R274, R275) -/

/-- The engine of an OP (R274). -/
def engineOf (op : Nat) : Nat :=
  if op ≤ 0x125 ∨ op = 0x138 then 0
  else if op = 0x128 ∨ op = 0x129 then 1
  else if op = 0x130 ∨ op = 0x139 then 2
  else 3

/-- The scalar registers of the operand or descriptor. -/
def commandScalars (op : Nat) (f : LaneFields) : List Nat :=
  let a := f.va.toNat % 64
  if op = 0x124 then [f.vb.toNat % 64]
  else if op = 0x125 ∨ 0x140 ≤ op then [a]
  else if 0x128 ≤ op then [a, a + 1, a + 2, a + 3]
  else []
/-- The register of the node descriptor: with `.n`, and of `gnode` (R306). -/
def nodeScalar (op : Nat) (f : LaneFields) : Option Nat :=
  if op = 0x140 then some (f.va.toNat % 64)
  else if f.m1.getLsbD 3 then some (f.imm.toNat % 64)
  else none
/-- The instruction reads a format word. -/
def readsWord (op : Nat) : Bool := op == 0x122 || op == 0x124 || op == 0x138

/-- The command that the fields stand for; the engine's count gives its number. -/
def commandOf (op : Nat) (f : LaneFields) (desc : List DWord) (word : BitVec 32) (flag : Option Nat)
    (cseq : Nat) (node : Option Nat) (pc : VAddr) (uncovered : Bool) : Command :=
  { op := op, m1 := f.m1.toNat, vd := f.vd.toNat, va := f.va.toNat, vb := f.vb.toNat, vc := f.vc.toNat,
    imm := f.imm.toNat, desc := desc, word := word, flag := flag, cseq := cseq, node := node, pc := pc,
    uncovered := uncovered }

/-! ### Checks at issue (R290, R293, R294, R296, R297, R299, R302 to R305) -/

/-- The block holds accumulator tiles (R288). -/
def State.holdsTiles (s : State) : Bool := s.curBlock.acc
/-- Every slot of a list is claimed by the issuing block. -/
def State.claimsAll (s : State) (ns : List Nat) : Bool := ns.all s.claimed

/-- Checks that raise 0x01: tiles, claims, reserved values, nodes. A format word counts where a lane
takes part. (DEDUCED: log entries 40, 43, 87) -/
def State.commandIllegal (s : State) (cmd : Command) (voted : Bool) (nd : Option DWord) : Bool :=
  let limit := s.nodeIds s.focus.core s.cur.block
  (match nd with
   | some d => badNode limit d
   | none => false) ||
  (match cmd.op with
   | 0x122 =>
     let sp := cmd.m1.testBit 1
     !s.holdsTiles || !s.claimsAll (operandSlots sp 0 cmd.va ++ operandSlots sp 0 cmd.vb) ||
       (voted && !s.claimsAll (operandSlots sp (fwAf cmd.word) cmd.va ++ operandSlots sp (fwBf cmd.word) cmd.vb))
   | 0x123 => !s.holdsTiles
   | 0x125 => !s.holdsTiles
   | 0x124 => !s.holdsTiles || (cmd.sub == 3 && !s.claimsAll [cmd.vd]) || (voted && !s.claimsAll cmd.writes)
   | 0x128 => !s.claimsAll (cmd.reads ++ cmd.writes)
   | 0x129 => !s.claimsAll cmd.reads
   | 0x138 => !s.claimsAll [cmd.vd] || windowReserved 0x138 cmd.desc
   | 0x139 => windowReserved 0x139 cmd.desc
   | 0x141 => decide (limit ≤ bitsAt (cmd.word' 0) 0 9)
   | 0x142 => decide (limit ≤ bitsAt (cmd.word' 0) 0 9)
   | _ => false)

/-- K and CF of a legal pair (R65). -/
def pairShape (a b : Nat) : Option (Nat × Nat) :=
  let narrow : List Nat := [4, 5, 6, 7, 8, 12, 13, 14, 15, 18, 19, 21]
  let half : List Nat := [10, 11, 20]
  let both (l : List Nat) : Bool := l.contains a && l.contains b
  if both [1, 2] then some (32, 0)
  else if both narrow then some (if codeWidth a = 4 ∧ codeWidth b = 4 then 128 else 64, 0)
  else if both [0] then some (16, 0)
  else if both [3] then some (8, 3)
  else if both [9] then some (64, 17)
  else if both [16] then some (32, 17)
  else if both [17] then some (16, 17)
  else if both half then some (if a = 10 ∨ b = 10 then 64 else 128, 17)
  else none
/-- Block-scaled formats (R63). -/
def blockScaled (f : Nat) : Bool := (12 ≤ f && f ≤ 15) || f == 18 || f == 19
/-- Emulated formats (R49). -/
def emulated (f : Nat) : Bool := 16 ≤ f && f ≤ 21
/-- A formats that may be sparse (R287). -/
def sparseFormats : List Nat := [1, 2, 4, 5, 8, 9, 10, 11]

/-- A format word that an `mma` refuses (R50, R65, R285, R287, R290). -/
def mmaBad (cmd : Command) : Bool :=
  let w := cmd.word
  let sp := cmd.m1.testBit 1
  fwRest w != 0 || fwSp w != sp ||
  (match pairShape (fwAf w) (fwBf w) with
   | some (_, cf) => fwCf w != cf
   | none => true) ||
  (sp && !sparseFormats.contains (fwAf w)) ||
  (fwTra w && blockScaled (fwAf w)) || (fwTrb w && blockScaled (fwBf w)) ||
  (fwCf w == 3 && cmd.vd % 2 == 1)

/-- Legal pairs of accumulator and drain format (R294). -/
def drainPair (cf df : Nat) : Bool :=
  match cf with
  | 0 => df ≤ 2 || (4 ≤ df && df ≤ 15)
  | 3 => df == 0 || df == 3
  | 17 => df ≤ 2 || (4 ≤ df && df ≤ 15) || df == 17
  | _ => false
/-- A format word or record that a `drain` refuses (R294). -/
def drainBad (cmd : Command) (r : BitVec 320) : Bool :=
  let df := fwDf cmd.word
  let sr := cmd.bit12
  fwRest cmd.word != 0 || !drainPair (fwCf cmd.word) df || (fwCf cmd.word == 3 && cmd.va % 2 == 1) ||
  (blockScaled df && (!sr || cmd.sub ≤ 2)) ||
  (sr && (recScm r == 2) != (df == 15)) || (sr && recBadFormat r) ||
  (cmd.sub == 4 && (recEnc r != df || (recIlv r == 1 && codeWidth df == 6)))

/-- The plane words of one lane that a `drain.pl` writes. -/
def drainWords (df : Nat) : Nat := if df = 3 then 128 else 64 / wordElems (codeWidth df)

/-- A format or record that the instruction refuses with 0x04. (DEDUCED: log entry 87) -/
def State.commandFormat (s : State) (cmd : Command) : Bool :=
  let r := s.record cmd.bx
  match cmd.op with
  | 0x122 => mmaBad cmd
  | 0x124 => drainBad cmd r
  | 0x138 =>
    fwRest cmd.word != 0 || decide (12 ≤ fwAf cmd.word) ||
      (winHalf cmd.desc && fwAf cmd.word != 8 && fwAf cmd.word != 11)
  | 0x139 => !([0, 1, 2, 4, 5, 9].contains (descFld cmd.desc 3 16 5))
  | 0x128 => recBadFormat r
  | 0x129 =>
    recBadFormat r || !([0, 1, 2].contains (recRegfmt r)) || (recIlv r == 1 && codeWidth (recEnc r) == 6) ||
      !(recEnc r == 1 || recEnc r == 2 || (4 ≤ recEnc r && recEnc r ≤ 15)) ||
      (recEnc r == 15 && recScm r != 2) || (12 ≤ recEnc r && recEnc r ≤ 14 && recScm r != 1)
  | _ => false

/-- The plane rectangle and depths of a window operator are refused with 0x08 (R302, R304). -/
def State.windowDenied (s : State) (cmd : Command) : Bool :=
  let d := cmd.desc
  let x := winX d
  let y := winY d
  let depth := s.curDepth
  let cd := descFld d 3 0 12
  match s.curLaunch with
  | none => true
  | some l =>
    depth == 0 || decide (s.planeW l < x.i0 + x.n) || decide (s.planeH l < y.i0 + y.n) ||
    x.zeroSized || y.zeroSized ||
    (if cmd.op = 0x138 then
       decide (x.k ≤ descFld d 1 32 8) || decide (y.k ≤ descFld d 1 40 8) ||
       decide (depth < cd + channelWords (fwAf cmd.word) (gatherK (fwAf cmd.word) (winHalf d)))
     else
       let n := channelWords (descFld d 3 16 5) (descFld d 3 21 11 + 1)
       decide (depth < cd + n) || decide (depth < descFld d 1 32 12 + n) ||
       (decide (0 < x.out) && decide (0 < y.out) &&
         (decide ((s.planeW l : Int) < x.o0 + x.out) || decide ((s.planeH l : Int) < y.o0 + y.out))))

/-- A range of scratch bytes touches an armed barrier (R297). -/
def CoreState.armedIn (k : CoreState) (scrb o n : Nat) : Bool :=
  decide (0 < n) && (List.range 16).any (fun b =>
    decide (o < 16 * b + 16) && decide (16 * b < o + n) && (k.barrier scrb b).armed)

/-- The local side of a copy is refused with 0x08 (R297). (DEDUCED: log entry 41) -/
def State.copyDenied (s : State) (cmd : Command) : Bool :=
  let rb := cmd.cpyRb
  let nr := cmd.cpyNr
  let loc := cmd.word' 2
  let r := s.record cmd.bx
  decide (2 ^ 57 ≤ recScale r) ||
  (cmd.op == 0x129 && rb * 8 % codeWidth (recRegfmt r) != 0) ||
  (match cmd.kind with
   | 0 =>
     let nd := cmd.cpyNd
     let o := s.originOf s.focus.core s.cur.block
     let x0 := bitsAt loc 0 16
     let y0 := bitsAt loc 16 16
     s.curDepth == 0 || nd == 0 || decide (4096 < nd) || rb % (4 * nd) != 0 ||
       decide (s.curDepth < bitsAt loc 32 12 + nd) ||
       decide (x0 < o.1) || decide (y0 < o.2) || decide (o.1 + 8 < x0 + rb / (4 * nd)) ||
       decide (o.2 + 8 < y0 + nr)
   | 1 => decide (s.curScratch < loc + nr * rb) || s.curCore.armedIn s.curBlock.scrb loc (nr * rb)
   | _ => false)

/-- What the instruction refuses with 0x08. (DEDUCED: log entry 87) -/
def State.commandDenied (s : State) (cmd : Command) : Bool :=
  let r := s.record cmd.bx
  let a := bitsAt (cmd.word' 0) 0 32
  match cmd.op with
  | 0x124 =>
    (cmd.bit12 && decide (2 ^ 57 ≤ recScale r)) ||
    (match cmd.sub with
     | 1 => s.curDepth == 0 || decide (s.curDepth < bitsAt a 0 12 + drainWords (fwDf cmd.word))
     | 2 => decide (a < 256) || decide (s.curScratch < a + 512 * codeWidth (fwDf cmd.word))
     | 4 => !recValid r || !recWritable r || recHandle r
     | _ => false)
  | 0x125 =>
    !recValid r || recHandle r || bitsAt (cmd.word' 0) 32 32 != 0 ||
      !inExtent r ((recBase r + a : Nat) : Int) 16384
  | 0x128 => s.copyDenied cmd
  | 0x129 => s.copyDenied cmd
  | 0x138 => s.windowDenied cmd
  | 0x139 => s.windowDenied cmd
  | _ => false

/-- What the instruction refuses with 0x07. (DEDUCED: log entry 87) -/
def State.commandMisaligned (s : State) (cmd : Command) : Bool :=
  let a := bitsAt (cmd.word' 0) 0 32
  match cmd.op with
  | 0x124 => cmd.sub == 2 && a % 4 != 0
  | 0x125 => (recBase (s.record cmd.bx) + a) % 4 != 0
  | _ => false

/-- The first cause of a formed command after its vote. (DEDUCED: log entries 64, 87) -/
def State.commandCause (s : State) (cmd : Command) : Option (BitVec 8) :=
  if s.commandFormat cmd then some 0x04
  else if s.commandDenied cmd then some 0x08
  else if s.commandMisaligned cmd then some 0x07
  else none

/-! ### What a command does at issue (R282, R307, R308) -/

/-- A slot that firmware keeps for the auditor (R281, R448). -/
def State.reservedSlot (s : State) (c n : Nat) : Bool :=
  decide (124 ≤ n) && s.partitions.any (fun p => p.2.auditHosts.contains c)

/-- The slots of an `oclm` or `orel`. -/
def Command.range (c : Command) : List Nat :=
  (List.range (c.imm / 64 % 256)).map (fun j => c.va + j)

/-- A release of a slot that an `oclm` would claim is pending (R282): deferred, or in a command of the
fibre that waits for acceptance. -/
def State.releasePending (s : State) (cmd : Command) : Bool :=
  meets cmd.range s.curCore.mem.releasing ||
  (Tab.get [] s.cur.eq.cmds 0).any (fun d => d.op == 0x121 && meets cmd.range d.range)

/-- `oclm` (R282). (DEDUCED: log entry 64) -/
def State.claim (s : State) (cmd : Command) (part : LaneMask) : State :=
  let c := s.focus.core
  let mine := s.cur.block + 1
  let ns := cmd.range
  let ok := ns.all (fun n =>
    let o := Tab.get 0 s.curCore.mem.claims n
    (o == 0 || o == mine) && !s.reservedSlot c n)
  if !ok then s.modCur (fun x => x.setPred cmd.vd part 0)
  else
    let new := ns.filter (fun n => Tab.get 0 s.curCore.mem.claims n == 0)
    let s1 := s.modCore c (fun k => new.foldl (fun k n =>
      k.modMem (fun m => { m.clearSlot n with claims := Tab.set 0 m.claims n mine })) k)
    s1.modCur (fun x =>
      let y := x.setPred cmd.vd part (BitVec.allOnes 64)
      if cmd.imm.testBit 17 then { y with lq := { y.lq with cursor := some (cmd.va, 0) } } else y)

/-- What happens at once when a command is formed. (DEDUCED: log entry 37) -/
def State.actAtIssue (s : State) (cmd : Command) (part : LaneMask) : State :=
  let c := s.focus.core
  let b := s.cur.block
  let id := bitsAt (cmd.word' 0) 0 9
  match cmd.op with
  | 0x120 => s.claim cmd part
  | 0x141 => s.runNodes c b [.signal id]
  | 0x142 =>
    let n := s.node c b id
    if n.state = .free then s
    else
      (s.modCur (fun x => x.incFlag (cmd.vd % 16))).setNode c b id
        { n with bindings := n.bindings ++ [(s.focus.fib, cmd.vd % 16)] }
  | _ => s

/-- Copies of a core that have not ended (R297). -/
def CoreState.copiesInFlight (k : CoreState) : Nat :=
  k.eng.copies.length +
    (k.fibres.map (fun e => (Tab.get [] e.2.eq.cmds 1).length)).foldl (· + ·) 0

/-- The command must stall at issue: its node is in use, a release is pending, a flag is full, or too
many copies are in flight. -/
def State.commandStalls (s : State) (cmd : Command) : Bool :=
  (match cmd.node with
   | some id => (s.node s.focus.core s.cur.block id).state != .free
   | none => false) ||
  (cmd.op == 0x120 && s.releasePending cmd) ||
  (cmd.op == 0x142 && decide (1024 ≤ s.cur.flag (cmd.vd % 16))) ||
  ((cmd.op == 0x128 || cmd.op == 0x129) && decide (1024 ≤ s.curCore.copiesInFlight))

/-- The command goes to its engine's queue at once, which is full (R274). -/
def State.commandQueueFull (s : State) (cmd : Command) (nd : Option DWord) : Bool :=
  let now := match nd with
    | some d => cmd.op != 0x140 && bitsAt d.toNat 16 8 == 0
    | none => true
  now && decide (16 ≤ (Tab.get [] s.cur.eq.cmds (engineOf cmd.op)).length)

/-- The command takes its number, its flag and its place. -/
def State.placeCommand (s : State) (cmd : Command) (nd : Option DWord) : State :=
  let e := engineOf cmd.op
  let c := s.focus.core
  let b := s.cur.block
  let s1 := s.modCur (fun x =>
    let o := Tab.set 0 x.eq.outstanding e (Tab.get 0 x.eq.outstanding e + 1)
    let o2 := if cmd.op = 0x124 ∧ cmd.sub = 0 then Tab.set 0 o 5 (Tab.get 0 o 5 + 1) else o
    let y := { x with eq := { x.eq with outstanding := o2,
                                        cseq := Tab.set 0 x.eq.cseq e ((cmd.cseq + 1) % 65536) } }
    match cmd.flag with
    | some n => y.incFlag n
    | none => y)
  match cmd.node, nd with
  | some id, some d =>
    let n : Node := { state := .waiting, count := bitsAt d.toNat 16 8, succ := nodeSuccs d,
                      cmd := some (e, s.focus.fib, cmd), bindings := [] }
    let s2 := s1.setNode c b id n
    if n.count = 0 then s2.runNodes c b [.launch id] else s2
  | _, _ => s1.modCur (fun x => x.enqueue e cmd)

/-! ### The frame of an engine instruction -/

/-- What an engine instruction, or a record that stands for one, asks for: OP, fields, shape, whether it
selects a flag. -/
structure EngineAsk where
  op : Nat
  f : LaneFields
  sh : Shape
  flagged : Bool
  deriving DecidableEq, Repr

/-- Scalars read without consuming their poison: 0 where poisoned. -/
def State.peekScalars (s : State) (ns : List Nat) : List DWord :=
  ns.map (fun n => if (s.cur.scalar n).poison then 0 else (s.cur.scalar n).bits)

/-- The command, as read in a state, and its node descriptor. -/
def State.readCommand (s : State) (a : EngineAsk) (desc : List DWord) (nd : Option DWord)
    (word : BitVec 32) : Command :=
  let flag := if a.flagged then s.flagFor a.f.fs else none
  let cmd := commandOf a.op a.f desc word flag (Tab.get 0 s.cur.eq.cseq (engineOf a.op))
    (nd.map (fun d => bitsAt d.toNat 0 9)) s.pc false
  { cmd with uncovered := a.op == 0x122 && meets cmd.reads s.cur.lq.uncovered }

/-- Lanes whose format word differs from that of the lowest lane (R290). -/
def dissenters (part : LaneMask) (w : Nat → PX) : LaneMask :=
  match lowestLane part with
  | none => 0
  | some i => maskOf (fun j => part.getLsbD j && (w j).bits.setWidth 32 != (w i).bits.setWidth 32)
/-- The format word of the lowest lane. -/
def votedWord (part : LaneMask) (w : Nat → PX) : BitVec 32 :=
  match lowestLane part with
  | none => 0
  | some i => (w i).bits.setWidth 32

/-- Forms the command and issues it; `full` is how the instruction waits for a full queue, `own` what
else it does as it ends. -/
def State.formEngine (s : State) (i : Instr) (a : EngineAsk) (full : Wait) (own : State → State) : State :=
  let ns := commandScalars a.op a.f
  let part0 := s.participating a.f.pg a.f.pn
  let x0 := s.laneCtx a.f a.sh 0 part0
  let peek (r : Nat) : DWord := (s.peekScalars [r]).getD 0 0
  let nd0 := (nodeScalar a.op a.f).map peek
  let cmd0 := s.readCommand a (s.peekScalars ns) nd0 (votedWord part0 x0.c)
  if !s.holdsFields a.f a.sh || s.commandIllegal cmd0 (part0 != 0 && readsWord a.op) nd0 then
    s.trap 0x01 part0 i
  else if part0 &&& ~~~s.cur.helpers = 0 then (own s).retire i
  else if a.flagged && s.flagFull a.f.fs then s.wait .stall
  else
    match s.queueCheck a.f a.sh with
    | .block w => s.wait w
    | .trap c => s.trap c part0 i
    | .go =>
      if s.popTrap a.f a.sh ≠ 0 then s.trap 0x0D (s.popTrap a.f a.sh) i
      else
        let (desc, s1) := s.useScalars ns
        let (ndv, s2) := s1.useScalars (nodeScalar a.op a.f).toList
        let dying := if readsWord a.op then maskOf (fun l => part0.getLsbD l && (x0.c l).poison) else 0
        let s3 := s2.modCur (fun y => y.kill dying)
        let part := part0 &&& ~~~s3.cur.sys.dead
        let done (t : State) : State :=
          (own (((popsOf a.sh a.f).foldl State.popQueue t).dropLastUse a.f a.sh part)).retire i
        if part &&& ~~~s3.cur.helpers = 0 then done s3
        else
          let cmd := s3.readCommand a desc ndv.head? (votedWord part x0.c)
          let odd := if readsWord a.op then dissenters part x0.c else 0
          if odd ≠ 0 then s3.trap 0x03 odd i
          else
            match s3.commandCause cmd with
            | some c => s3.trap c part i
            | none =>
              if s3.commandStalls cmd then s.wait .stall
              else if s3.commandQueueFull cmd ndv.head? then s.wait full
              else done ((s3.actAtIssue cmd part).placeCommand cmd ndv.head?)

/-- An engine instruction. -/
def State.engineOp (s : State) (i : Instr) (op : Nat) (f : LaneFields) (sh : Shape) : Host.Outcome State Fault Refusal :=
  .next (s.formEngine i { op := op, f := f, sh := sh, flagged := true } .stall id)

def execOclm (f : LaneFields) (s : State) : Out := s.engineOp (.oclm f) 0x120 f (Shape.oclm f)
def execOrel (f : LaneFields) (s : State) : Out := s.engineOp (.orel f) 0x121 f (Shape.orel f)
def execMma (f : LaneFields) (s : State) : Out := s.engineOp (.mma f) 0x122 f (Shape.mma f)
def execAzero (f : LaneFields) (s : State) : Out := s.engineOp (.azero f) 0x123 f (Shape.azero f)
def execDrainQ (f : LaneFields) (s : State) : Out := s.engineOp (.drainQ f) 0x124 f (Shape.drain 0 f)
def execDrainPl (f : LaneFields) (s : State) : Out := s.engineOp (.drainPl f) 0x124 f (Shape.drain 1 f)
def execDrainScr (f : LaneFields) (s : State) : Out := s.engineOp (.drainScr f) 0x124 f (Shape.drain 2 f)
def execDrainSlot (f : LaneFields) (s : State) : Out :=
  s.engineOp (.drainSlot f) 0x124 f (Shape.drain 3 f)
def execDrainGlb (f : LaneFields) (s : State) : Out := s.engineOp (.drainGlb f) 0x124 f (Shape.drain 4 f)
def execAld (f : LaneFields) (s : State) : Out := s.engineOp (.ald f) 0x125 f (Shape.ald f)
def execCpyIn (f : LaneFields) (s : State) : Out :=
  s.engineOp (.cpyIn f) 0x128 f (Shape.cpy [0, 2, 4] f)
def execCpyOut (f : LaneFields) (s : State) : Out :=
  s.engineOp (.cpyOut f) 0x128 f (Shape.cpy [1, 3, 5] f)
def execCpyq (f : LaneFields) (s : State) : Out := s.engineOp (.cpyq f) 0x129 f (Shape.cpy [1, 3, 5] f)
def execScrlF (f : LaneFields) (s : State) : Out := s.engineOp (.scrlF f) 0x130 f (Shape.scrl [0, 2] f)
def execScrlM (f : LaneFields) (s : State) : Out := s.engineOp (.scrlM f) 0x130 f (Shape.scrl [1, 3] f)
def execWgath (f : LaneFields) (s : State) : Out := s.engineOp (.wgath f) 0x138 f (Shape.wgath f)
def execWpool (f : LaneFields) (s : State) : Out := s.engineOp (.wpool f) 0x139 f (Shape.wpool f)
def execGnode (f : LaneFields) (s : State) : Out := s.engineOp (.gnode f) 0x140 f (Shape.graph f)
def execGsig (f : LaneFields) (s : State) : Out := s.engineOp (.gsig f) 0x141 f (Shape.graph f)
def execGflag (f : LaneFields) (s : State) : Out := s.engineOp (.gflag f) 0x142 f (Shape.gflag f)

/-! ### Command records (R269, R278) -/

/-- The fields that a command record stands for, under the guard of its `qput`. -/
def recordFields (r : Nat) (g : LaneFields) : LaneFields :=
  { hop := false, fs := false, vd := BitVec.ofNat 8 (bitsAt r 43 8), va := BitVec.ofNat 8 (bitsAt r 35 8),
    vb := BitVec.ofNat 8 (bitsAt r 27 8), vc := BitVec.ofNat 8 (bitsAt r 19 8), pg := g.pg, pn := g.pn,
    ty := 0, lua := false, lub := false, luc := false, m1 := BitVec.ofNat 4 (bitsAt r 51 4), m2 := 0,
    imm := BitVec.ofNat 32 (bitsAt r 0 19) }

/-- The engine instruction of a record: none where its OP is not of the queue's engine or its fields
break their encoding. -/
def recordAsk (q r : Nat) (g : LaneFields) : Option EngineAsk :=
  let op := bitsAt r 55 9
  let f := recordFields r g
  if 0x120 ≤ op ∧ op ≤ 0x142 ∧ engineOf op = q then
    match laneInstr op f with
    | some i =>
      match i.form with
      | .lane _ f' sh => if sh.ok f' then some { op := op, f := f', sh := sh, flagged := false } else none
      | _ => none
    | none => none
  else none

/-- `qput` (R269). -/
def execQput (f : LaneFields) (s : State) : Out :=
  let i : Instr := .qput f
  let q := f.vd.toNat - 240
  let sh := { Shape.qput with vd := Fld.zero }
  let part := s.participating f.pg f.pn
  if !s.holdsFields f sh then .next (s.trap 0x01 part i)
  else if part = 0 then .next (s.retire i)
  else
    match s.queueCheck f sh with
    | .block w => .next (s.wait w)
    | .trap c => .next (s.trap c part i)
    | .go =>
      if s.popTrap f sh ≠ 0 then .next (s.trap 0x0D (s.popTrap f sh) i)
      else
        let x := s.laneCtx f sh 0 part
        let dying := maskOf (fun l => part.getLsbD l && (x.a l).poison)
        let s1 := s.modCur (fun y => y.kill dying)
        let left := part &&& ~~~dying
        let own (t : State) : State := ((popsOf sh f).foldl State.popQueue t).dropLastUse f sh left
        match lowestLane left with
        | none => .next ((own s1).retire i)
        | some l =>
          match recordAsk q (x.a l).bits.toNat f with
          | none => .next (s1.trap 0x01 left i)
          | some a =>
            if 16 ≤ (Tab.get [] s.cur.eq.cmds q).length then .next (s.wait (.push q))
            else .next (s1.formEngine i a (.push q) own)

end Sys2Proof.Machine
end

