-- ==== Sys2Proof/Machine/Matrix.lean ====
section
/-! DEFINITION. The matrix engine: tiles in slots, products, accumulator loads and drains (R51 to R74,
R284 to R296, R357). -/

namespace Sys2Proof.Machine

/-! ### Rows of q4 (R284) -/

/-- The bytes of a row of lane values. -/
def rowOfLanes (v : LaneVec) : List PByte :=
  allLanes.flatMap (fun j => pbytes 4 ((v.at j).bits.toNat % 2 ^ 32) (v.at j).poison)
/-- The oldest pushed row of a fibre is written into its slot, if the block still claims it. -/
def State.writeFillRow (s : State) (c f : Nat) : State :=
  let x := s.fibre c f
  match x.lq.q4 with
  | [] => s
  | r :: rest =>
    let s1 := s.setFibre c f { x with lq := { x.lq with q4 := rest } }
    if Tab.get 0 (s.core c).mem.claims r.slot = x.block + 1 then
      s1.modCore c (fun k => k.modMem (fun m =>
        m.writeSlot (slotSpace * r.slot + 256 * r.row) (rowOfLanes r.vals)))
    else s1
/-- Q4_ROW_WRITE. (DEDUCED: log entry 7) -/
def execQ4RowWrite (core fib : Nat) (s : State) : Out := .next (s.writeFillRow core fib)
/-- Every pushed row of a fibre is written. -/
def State.flushFillRows (s : State) (c f : Nat) : State :=
  ((s.fibre c f).lq.q4).foldl (fun t _ => t.writeFillRow c f) s

/-- `ofence` (R255): the rows pushed so far are in their slots before any later `mma` reads them. (DEDUCED: log entry 37) -/
def execOfence (f : LaneFields) (s : State) : Out :=
  .next (((s.flushFillRows s.focus.core s.focus.fib).modCur (fun x =>
    { x with lq := { x.lq with uncovered := [] } })).retire (.ofence f))

/-! ### Elements of operand tiles (R61, R63, R285 to R287) -/

/-- A value with the poison of the granules it was read from. -/
abbrev PVal := FVal × Bool

/-- The code of element `j` along K of row `r` of a dense tile. -/
def CoreMem.denseCode (m : CoreMem) (slot fmt k : Nat) (tr : Bool) (r j : Nat) : Nat × Bool :=
  let w := codeWidth fmt
  let line := if tr then j else r
  let pos := if tr then r else j
  let len := if tr then 64 else k
  let (b, n, lo, bits) := packedAt w pos
  let a := slotSpace * slot + line * (len * w / 8) + b
  (bitsAt (m.slotNum a n) lo bits, m.slotBad a n)

/-- The value of an E8M0 scale (R60). -/
def e8m0 (e : Nat) : FVal := if e = 255 then .nan false else .fin false 1 ((e : Int) - 127)

/-- An S10 scale that no rule places: a sparse B tile has more blocks than R286 gives places. -/
def freeScale (n i : Nat) : FVal := s10Value ((Config.free32 n i).toNat % 1024)

/-- The scale of element `j` of row `r` of a block-scaled tile (R286); `n` selects free values. (DEDUCED: log entry 39) -/
def CoreMem.tileScale (m : CoreMem) (slot fmt r j n : Nat) : PVal :=
  let a := slotSpace * slot
  let c := slotSpace * (slot + 1)
  match fmt with
  | 14 =>
    let b := j / 8
    let g := Fmt.bf16.value (m.slotNum (c + 2048) 2)
    if b < 18 then
      let wa := c + 32 * r + 4 * (b / 3)
      (scaleUp g (scaleField (m.slotNum wa 4) (b % 3)), m.slotBad (c + 2048) 2 || m.slotBad wa 4)
    else (scaleUp g (freeScale n (64 * b + r)), m.slotBad (c + 2048) 2)
  | 15 =>
    let b := j / 32
    if b < 4 then
      (Fmt.bf16.value (m.slotNum (c + 8 * r + 2 * b) 2), m.slotBad (c + 8 * r + 2 * b) 2)
    else (Fmt.bf16.value ((Config.free32 n (64 * b + r)).toNat % 65536), false)
  | 18 => (e8m0 (m.slotNum (a + 4096 + 4 * r + j / 32) 1), m.slotBad (a + 4096 + 4 * r + j / 32) 1)
  | 19 => (e8m0 (m.slotNum (a + 4096 + 4 * r + j / 32) 1), m.slotBad (a + 4096 + 4 * r + j / 32) 1)
  | _ =>
    if j / 32 < 3 then
      (scaleField (m.slotNum (a + 4096 + 4 * r) 4) (j / 32), m.slotBad (a + 4096 + 4 * r) 4)
    else (freeScale n (64 * (j / 32) + r), false)

/-- The value of a code of a tile, before its scale: a C4 code is looked up in the companion slot. -/
def CoreMem.codeValue (m : CoreMem) (slot fmt code : Nat) : PVal :=
  if fmt = 15 then
    let a := slotSpace * (slot + 1) + 512 + 2 * code
    (Fmt.fp16.value (m.slotNum a 2), m.slotBad a 2)
  else ((fmtOfCode fmt).value code, false)

/-- An element of a dense tile (R63, R285, R286). -/
def CoreMem.denseElem (m : CoreMem) (slot fmt k : Nat) (tr : Bool) (n r j : Nat) : PVal :=
  let c := m.denseCode slot fmt k tr r j
  let v := m.codeValue slot fmt c.1
  if blockScaled fmt then
    let sc := m.tileScale slot fmt r j n
    (scaleUp v.1 sc.1, c.2 || v.2 || sc.2)
  else (v.1, c.2 || v.2)

/-- The kept values of one line of the sparse stream, and where its values start (R287). -/
def sparseLine (w : Nat) : Nat × Nat :=
  match w with
  | 16 => (50, 28)
  | 8 => (96, 32)
  | _ => (160, 48)
/-- Kept value `p` of the sparse stream: its index within its group, its value. -/
def CoreMem.kept (m : CoreMem) (slot fmt p : Nat) : Nat × PVal :=
  let w := codeWidth fmt
  let (cap, base) := sparseLine w
  let line := slotSpace * slot + 128 * (p / cap)
  let q := p % cap
  let (b, n, lo, bits) := packedAt w q
  (bitsAt (m.slotNum (line + 8 + q / 4) 1) (2 * (q % 4)) 2,
    ((fmtOfCode fmt).value (bitsAt (m.slotNum (line + base + b) n) lo bits),
     m.slotBad (line + 8 + q / 4) 1 || m.slotBad (line + base + b) n))

/-- A row of A: its K values, and whether anything it reads is poisoned. -/
def CoreMem.rowA (m : CoreMem) (cmd : Command) (k n r : Nat) : List FVal × Bool :=
  let fmt := fwAf cmd.word
  if fwSp cmd.word then
    let vs := (List.range (k / 2)).map (fun t => (t / 2, m.kept cmd.va fmt (r * (k / 2) + t)))
    ((List.range k).map (fun j =>
        (vs.filter (fun v => 4 * v.1 + v.2.1 == j)).foldl
          (fun (t : Option FVal) v => match t with
            | none => some v.2.2.1
            | some u => some (addVal 0 u v.2.2.1).1) none |>.getD (.fin false 0 0)),
      vs.any (fun v => v.2.2.2))
  else
    let vs := (List.range k).map (m.denseElem cmd.va fmt k (fwTra cmd.word) n r)
    (vs.map (fun v => v.1), vs.any (fun v => v.2))
/-- A column of B. -/
def CoreMem.colB (m : CoreMem) (cmd : Command) (k n c : Nat) : List FVal × Bool :=
  let vs := (List.range k).map (m.denseElem cmd.vb (fwBf cmd.word) k (fwTrb cmd.word) n c)
  (vs.map (fun v => v.1), vs.any (fun v => v.2))

/-! ### Sums (R71, R72, R73) -/

/-- An exact sum of products and the accumulator, rounded once. -/
def dotExact (a b : List FVal) (acc : Nat) : Nat :=
  let t := (a.zip b).foldl (fun t p => (addVal 0 t (mulVal p.1 p.2).1).1) (Fmt.fp32.value acc)
  (convert .fp32 0 0 false t).code
/-- Fused multiply-adds in increasing k. -/
def dotFused (f : Fmt) (a b : List FVal) (acc : Nat) : Nat :=
  (a.zip b).foldl (fun c p => (finishIeee f 0 (fmaVal 0 p.1 p.2 (f.value c))).1) acc
/-- A finite value over 2^u, as an integer. -/
def wholeOf (u : Int) (v : FVal) : Int :=
  match v with
  | .fin n m e => mantissaAt n m e u
  | _ => 0
/-- Integer sums modulo 2^32, of values over 2^u. -/
def dotInt (u : Int) (a b : List FVal) (acc : Nat) : Nat :=
  wrapInt 32 ((a.zip b).foldl (fun t p => t + wholeOf u p.1 * wholeOf u p.2) (acc : Int))

/-- Half-step formats (R57). -/
def halfStep (f : Nat) : Bool := f == 10 || f == 11 || f == 20

/-- One entry of the product, as the bits of the accumulator. -/
def dotEntry (af : Nat) (a b : List FVal) (acc : Nat) : Nat :=
  if af = 0 then dotFused .fp32 a b acc
  else if af = 3 then dotFused .fp64 a b acc
  else if halfStep af then dotInt (-1) a b acc
  else if af = 9 ∨ af = 16 ∨ af = 17 then dotInt 0 a b acc
  else dotExact a b acc

/-- The accumulator of a command: 4,096 values with their poison, of one tile or of a pair. -/
def CoreMem.accumulator (m : CoreMem) (ts : List Nat) : List PX :=
  (List.range 4096).map (fun i =>
    match ts with
    | [t, u] =>
      let lo := m.tile t i
      let hi := m.tile u i
      ⟨hi.bits ++ lo.bits, hi.poison || lo.poison⟩
    | t :: _ => ⟨(m.tile t i).bits.setWidth 64, (m.tile t i).poison⟩
    | [] => PX.zero)
/-- Writes an accumulator back. -/
def CoreMem.setAccumulator (m : CoreMem) (ts : List Nat) (vs : List PX) : CoreMem :=
  match ts with
  | [t, u] =>
    (m.setTile t (vs.map (fun v => ⟨v.bits.setWidth 32, v.poison⟩))).setTile u
      (vs.map (fun v => ⟨v.bits.extractLsb' 32 32, v.poison⟩))
  | t :: _ => m.setTile t (vs.map (fun v => ⟨v.bits.setWidth 32, v.poison⟩))
  | [] => m

/-- K of an `mma` (R65, R291). -/
def Command.depthK (c : Command) : Nat :=
  match pairShape (fwAf c.word) (fwBf c.word) with
  | some (k, _) => if fwSp c.word then 2 * k else k
  | none => 0

/-- The accumulator after an `mma` (R71 to R73, R291, R357). (DEDUCED: log entry 39) -/
def CoreMem.product (m : CoreMem) (cmd : Command) (n : Nat) : List PX :=
  let k := cmd.depthK
  let as := (List.range 64).map (m.rowA cmd k n)
  let bs := (List.range 64).map (m.colB cmd k n)
  let acc := m.accumulator cmd.tiles
  (as.zipIdx).flatMap (fun a => (bs.zipIdx).map (fun b =>
    let old := acc.getD (64 * a.2 + b.2) PX.zero
    ⟨BitVec.ofNat 64 (dotEntry (fwAf cmd.word) a.1.1 b.1.1 old.bits.toNat),
     old.poison || a.1.2 || b.1.2⟩))

/-- An accumulator of free values (R255, R289). -/
def freeAccumulator (n : Nat) (pair : Bool) : List PX :=
  (List.range 4096).map (fun i =>
    PX.clean (if pair then Config.free64 n i else (Config.free32 n i).setWidth 64))

/-- A result with an injected error (R458). -/
def alterResult (alter : Option (Nat × BitVec 32)) (vs : List PX) : List PX :=
  match alter with
  | some (i, m) => vs.modify i (fun v => ⟨v.bits ^^^ m.setWidth 64, v.poison⟩)
  | none => vs
/-- An `mma` writes its tile (R255, R291). -/
def State.performMma (s : State) (c : Nat) (cmd : Command) (alter : Option (Nat × BitVec 32)) : State :=
  let n := s.fresh
  let half := halfStep (fwAf cmd.word)
  let s1 := { s with fresh := n + 1 }
  s1.modCore c (fun k => k.modMem (fun m =>
    let v := if cmd.uncovered then freeAccumulator n (fwCf cmd.word == 3) else m.product cmd n
    cmd.tiles.foldl (fun m t => m.setMark t half) (m.setAccumulator cmd.tiles (alterResult alter v))))

/-! ### The audit log (R446, R447) -/

abbrev Launch.audk (l : Launch) : Nat := l.params.fld 5 30 5
abbrev Launch.audrip (l : Launch) : Bool := l.params.fld 5 29 1 == 1

/-- The signature of a result: entries in ascending order, their poison, the quarter mark. (DESIGN CHOICE: log entry 44) -/
def resultCrc (half : Bool) (vs : List PX) : DWord :=
  crc64 (vs.flatMap (fun v => bytesOf 8 v.bits.toNat ++ [if v.poison then 1 else 0]) ++
    [if half then 1 else 0])
/-- The record of a sampled `mma` (R447), from the state before it writes its tile. (DESIGN CHOICE: log entry 44) -/
def State.auditRecord (s : State) (c : Nat) (f : Nat) (cmd : Command) (alter : Option (Nat × BitVec 32)) :
    AuditRecord :=
  let b := s.block c (s.fibre c f).block
  let m := (s.core c).mem
  let slots (ns : List Nat) : List PByte := ns.flatMap (fun n => m.slotRun (slotSpace * n) slotSpace)
  let result := alterResult alter (m.product cmd s.fresh)
  { part := b.part, core := c, lid := b.lid, word := cmd.word,
    slotsA := slots (operandSlots (fwSp cmd.word) (fwAf cmd.word) cmd.va),
    slotsB := slots (operandSlots (fwSp cmd.word) (fwBf cmd.word) cmd.vb),
    tile := m.tileList (cmd.tiles.headD 0),
    tile2 := if fwCf cmd.word = 3 then m.tileList (cmd.vd + 1) else [],
    crc := resultCrc (halfStep (fwAf cmd.word)) result, free := s.fresh }
/-- The key of a launch in a core's audit count. -/
def launchKey (part : Nat) (lid : BitVec 32) : Nat := 2 ^ 32 * part + lid.toNat

/-- Whether an `mma` counts for the auditor, and its count (R446). -/
def State.auditCount? (s : State) (c f : Nat) (cmd : Command) : Option Nat :=
  let b := (s.fibre c f).block
  match s.launchOf c b with
  | some l =>
    if !l.audited || emulated (fwAf cmd.word) || emulated (fwBf cmd.word) || s.isTrail c f then none
    else some (Tab.get 0 (s.core c).eng.auditCount (launchKey l.part l.lid))
  | none => none
/-- The `mma` is sampled (R446); AUDSIZE 0 disables sampling (R450). -/
def State.samples (s : State) (c f : Nat) (cmd : Command) : Bool :=
  match s.auditCount? c f cmd, s.launchOf c (s.fibre c f).block with
  | some n, some l => (s.die (dieOf c)).audsize != 0 && n % 2 ^ l.audk == 0
  | _, _ => false
/-- The audit log has no room for another record (R447). -/
def State.auditFull (s : State) (c f : Nat) : Bool :=
  let p := (s.block c (s.fibre c f).block).part
  let pending := (s.cores.map (fun e =>
    (e.2.eng.matrix.filter (fun a => a.sampled && (e.2.block (e.2.fibre a.fib).block).part == p)).length)).foldl (· + ·) 0
  decide ((s.die (dieOf c)).audsize.toNat ≤ (s.audit.filter (fun a => a.part == p)).length + pending)

/-! ### Translated engine accesses (R293, R420) -/

/-- A translation fault of the fibre's engine is open: the command is held. -/
def State.engineHeld (s : State) (c f : Nat) : Bool :=
  s.trans.faults.any (fun p => p.waiters.contains (.engine c f))
/-- A page that is not present holds the command while firmware has it made present. -/
def State.engineFault (s : State) (c f : Nat) (va reason : Nat) (write : Bool) : State :=
  let b := (s.fibre c f).block
  s.addFault (s.ctxOf c b) (s.block c b).lid va reason write true false (.engine c f)

/-- Reads `n` bytes at each of some addresses: values with their poison, or the first fault. -/
def State.engineRead (s : State) (c f : Nat) (m : Memory) : List (Nat × Nat) → Except (Nat × Nat) (List PX)
  | [] => .ok []
  | (va, n) :: rest =>
    match s.range c (s.ctxOf c (s.fibre c f).block) .load va n with
    | .error e => .error e
    | .ok ps =>
      match s.engineRead c f m rest with
      | .error e => .error e
      | .ok vs => .ok (m.value ps :: vs)
/-- Engine reads of a command: a trail takes the lead's values (R439). None where the command has to
wait; its fault is then recorded. -/
def State.engineValues (s : State) (c f e : Nat) (as : List (Nat × Nat)) : Except State (List PX × State) :=
  let got (vs : List PX) : Except State (List PX × State) :=
    match s.receive c f (.engine e) (fun _ => vs) with
    | some r => .ok r
    | none => .error s
  if as.isEmpty then .ok ([], s)
  else if s.isTrail c f then got []
  else
    match s.engineRead c f (s.view c f) as with
    | .error (va, r) => .error (s.engineFault c f va r false)
    | .ok vs => got vs

/-! ### Drains (R294 to R296) -/

/-- The side-tensor reads for element column `k` of row `row` (R62, R295): address and bytes. -/
def sideReads (df : Nat) (r : BitVec 320) (row k : Nat) : List (Nat × Nat) :=
  let base := recScale r + row * recSstride r
  if df = 12 ∨ df = 13 then [(base + 4 * (k / 32 / 3), 4)]
  else if df = 14 then [(recScale r + row / 64 * 64 * recSstride r, 4), (base + 4 + 4 * (k / 8 / 3), 4)]
  else if df = 15 then [(base + 2 * (k / 32), 2)]
  else if recScm r = 1 then [(base + 4 * (k / 2 ^ recBlk r / 3), 4)]
  else []
/-- The scale that those reads give. -/
def sideScale (df : Nat) (r : BitVec 320) (k : Nat) (vs : List PX) : PVal :=
  let v (i : Nat) : PX := vs.getD i PX.zero
  if df = 12 ∨ df = 13 then (scaleField (v 0).bits.toNat (k / 32 % 3), (v 0).poison)
  else if df = 14 then
    (scaleUp (Fmt.bf16.value ((v 0).bits.toNat % 65536)) (scaleField (v 1).bits.toNat (k / 8 % 3)),
      (v 0).poison || (v 1).poison)
  else if df = 15 then (Fmt.bf16.value ((v 0).bits.toNat % 65536), (v 0).poison)
  else if recScm r = 1 then (scaleField (v 0).bits.toNat (k / 2 ^ recBlk r % 3), (v 0).poison)
  else (.fin false 1 0, false)

/-- An element that leaves a tile: code, poison, exception bits, whether it was clamped. -/
structure DrainElem where
  code : Nat
  poison : Bool
  flags : BitVec 32
  clamped : Bool
  deriving DecidableEq, Repr

/-- A value over its scale in a format, or mapped to a codebook (R295, R299). -/
def scaledElem (df md : Nat) (sat : Bool) (cb : Nat → FVal) (v : PVal) (sc : PVal) : DrainElem :=
  if v.2 || sc.2 then ⟨0, true, 0, false⟩
  else if df = 15 then
    let r := mapToCode md v.1 sc.1 cb
    ⟨r.1, false, r.2, false⟩
  else
    let q := scaleDown v.1 sc.1
    let c := convert (fmtOfCode df) md 0 sat q.1
    ⟨c.code, false, c.flags ||| q.2, c.clamped⟩

/-- An accumulator entry as a value (R295). -/
def entryValue (cf : Nat) (mark : Bool) (x : PX) : PVal :=
  let v := (fmtOfCode cf).value (x.bits.toNat % 2 ^ codeWidth cf)
  let q : FVal := match v with
    | .fin n m e => if cf = 17 ∧ mark then .fin n m (e - 2) else v
    | w => w
  (q, x.poison)

/-- The row and column of a drained entry whose scale applies (R295). -/
def Command.drainRow (c : Command) (m : Nat) : Nat := bitsAt (c.word' 0) 32 32 + m
def Command.drainCol (c : Command) (n : Nat) : Nat := if c.sub = 4 then bitsAt (c.word' 0) 0 32 + n else n
/-- Every side-tensor read of a drain, by entry. -/
def Command.drainReads (c : Command) (r : BitVec 320) (m n : Nat) : List (Nat × Nat) :=
  if c.bit12 then sideReads (fwDf c.word) r (c.drainRow m) (c.drainCol n) else []
/-- All of them, each once within a row. -/
def Command.drainAllReads (c : Command) (r : BitVec 320) : List (Nat × Nat) :=
  (List.range 64).flatMap (fun m => ((List.range 64).flatMap (fun n => c.drainReads r m n)).eraseDups)

/-- What a fibre's engine knows of a record: that of the launch of its block. -/
def State.recordOf (s : State) (c f n : Nat) : BitVec 320 :=
  match s.launchOf c (s.fibre c f).block with
  | some l => Tab.get 0 l.bufrecs n
  | none => 0

/-- The elements of a drain in ascending m, then n; `look` gives what was read at an address. -/
def CoreMem.drainElems (m : CoreMem) (cmd : Command) (r : BitVec 320) (acc : List PX)
    (look : Nat → PX) : List DrainElem :=
  let mark := m.marks.getLsbD cmd.va
  let df := fwDf cmd.word
  let sat := fwDsat cmd.word
  acc.zipIdx.map (fun e =>
    let sc : PVal := if cmd.bit12 then
        sideScale df r (cmd.drainCol (e.2 % 64))
          ((cmd.drainReads r (e.2 / 64) (e.2 % 64)).map (fun a => look a.1))
      else (.fin false 1 0, false)
    scaledElem df (fwDrm cmd.word) sat (m.codebook (recCbix r)) (entryValue (fwCf cmd.word) mark e.1) sc)

/-- Row `m` of the drained elements. -/
def rowOf (es : List DrainElem) (m : Nat) : List DrainElem := (es.drop (64 * m)).take 64

/-- The bytes of packed elements of `w` bits (R61): bit for bit, little-endian. -/
def packBytes (w : Nat) (es : List DrainElem) : List PByte :=
  let x := es.zipIdx.foldl (fun t e => t + e.1.code % 2 ^ w * 2 ^ (w * e.2)) 0
  (bytesOf (es.length * w / 8) x).zipIdx.map (fun b =>
    (b.1, ((es.drop (8 * b.2 / w)).take ((8 * b.2 + 7) / w + 1 - 8 * b.2 / w)).any (fun e => e.poison)))
/-- The words of packed elements (R213): a 64-bit element takes two. -/
def packWords (w : Nat) : Nat → List DrainElem → List PW
  | 0, _ => []
  | n + 1, es =>
    if w = 64 then
      match es with
      | [] => []
      | e :: rest =>
        ⟨BitVec.ofNat 32 e.code, e.poison⟩ :: ⟨BitVec.ofNat 32 (e.code / 2 ^ 32), e.poison⟩ ::
          packWords w n rest
    else
      let k := wordElems w
      let head := es.take k
      if es.isEmpty then []
      else
        ⟨BitVec.ofNat 32 (head.zipIdx.foldl (fun t e => t + e.1.code % 2 ^ w * 2 ^ (w * e.2)) 0),
          head.any (fun e => e.poison)⟩ :: packWords w n (es.drop k)

/-- Bytes as words, each poisoned where one of its bytes is. -/
def wordsOfBytes : List PByte → List PW
  | b0 :: b1 :: b2 :: b3 :: rest =>
    ⟨BitVec.ofNat 32 (ofBytes [b0.1, b1.1, b2.1, b3.1]), b0.2 || b1.2 || b2.2 || b3.2⟩ ::
      wordsOfBytes rest
  | _ => []

/-- `drain.pl`: the words of lane m at depths from D0 on; holes are skipped. -/
def CoreState.drainPlane (k : CoreState) (pdepth d0 w : Nat) (es : List DrainElem) : CoreState :=
  (allLanes.filter (fun m => !k.holes.getLsbD m)).foldl (fun k m =>
    (packWords w 64 (rowOf es m)).zipIdx.foldl (fun k x => k.setCell m (pdepth + d0 + x.2) x.1) k) k
/-- `drain.scr`: rows one after the other from byte O. -/
def CoreState.drainScratch (k : CoreState) (scrb o w : Nat) (es : List DrainElem) : CoreState :=
  (wordsOfBytes (packBytes w es)).zipIdx.foldl (fun k x =>
    k.setScratchWord scrb (o / 4 + x.2) x.1) k

/-- The scale word of a tile row that keeps `n` fields of a word read (R59, R286). -/
def keepFields (n x : Nat) : Nat := x % 2 ^ (10 * min n 3)
/-- The scales of a drained row, copied to their places in the slots (R286, R296). -/
def CoreMem.drainScales (m : CoreMem) (cmd : Command) (r : BitVec 320) (look : Nat → PX) (row : Nat) :
    CoreMem :=
  let df := fwDf cmd.word
  let base := recScale r + cmd.drainRow row * recSstride r
  let comp := slotSpace * (cmd.vd + 1)
  if df = 12 ∨ df = 13 then
    let v := look base
    m.writeSlot (slotSpace * cmd.vd + 4096 + 4 * row) (pbytes 4 (keepFields 2 v.bits.toNat) v.poison)
  else if df = 14 then
    [0, 1, 2].foldl (fun m j =>
      let v := look (base + 4 + 4 * j)
      m.writeSlot (comp + 32 * row + 4 * j) (pbytes 4 (keepFields (8 - 3 * j) v.bits.toNat) v.poison)) m
  else if df = 15 then
    [0, 1].foldl (fun m j =>
      let v := look (base + 2 * j)
      m.writeSlot (comp + 8 * row + 2 * j) (pbytes 2 (v.bits.toNat % 65536) v.poison)) m
  else m
/-- The band scale of a K4 tile: that of the band of the drained rows. Where the rows do not start a
band no rule gives one. -/
def CoreMem.drainBand (m : CoreMem) (cmd : Command) (r : BitVec 320) (look : Nat → PX) (n : Nat) :
    CoreMem :=
  let comp := slotSpace * (cmd.vd + 1)
  let row := cmd.drainRow 0
  if fwDf cmd.word = 14 then
    let v : PX := if row % 64 = 0 then look (recScale r + row * recSstride r)
      else PX.clean ((Config.free32 n 0).setWidth 64)
    m.writeSlot (comp + 2048) (pbytes 2 (v.bits.toNat % 65536) v.poison)
  else if fwDf cmd.word = 15 then
    m.writeSlot (comp + 512) ((List.range 16).flatMap (fun x =>
      pbytes 2 (Tab.get 0 m.codebooks (16 * (recCbix r % 16) + x)).toNat false))
  else m
/-- `drain.slot` (R296): dense A tiles of Kd columns, one slot each. -/
def CoreMem.drainTiles (m : CoreMem) (cmd : Command) (r : BitVec 320) (look : Nat → PX) (n : Nat)
    (es : List DrainElem) : CoreMem :=
  let w := codeWidth (fwDf cmd.word)
  let kd := if w ≤ 8 then 64 else 512 / w
  let m1 := (List.range (64 / kd)).foldl (fun m j =>
    m.writeSlot (slotSpace * (cmd.vd + j)) ((List.range 64).flatMap (fun row =>
      packBytes w (((rowOf es row).drop (kd * j)).take kd)))) m
  ((List.range 64).foldl (fun m row => m.drainScales cmd r look row) m1).drainBand cmd r look n

/-! ### Bytes on their way to memory -/

/-- Bytes by address: value, kept bits, poison. -/
abbrev OutBytes := Tab (BitVec 8 × BitVec 8 × Bool)
/-- Adds a byte of which some bits are kept. -/
def OutBytes.add (t : OutBytes) (a : Nat) (v keep : BitVec 8) (poison : Bool) : OutBytes :=
  let old := Tab.get (0, 0xFF, false) t a
  Tab.insert a (keepBits old.1 v keep, old.2.1 &&& keep, old.2.2 || poison) t
/-- Adds the bits of an element that stands in `n` bytes from `a`, at bit `lo`. -/
def OutBytes.addElem (t : OutBytes) (a n lo w code : Nat) (poison : Bool) : OutBytes :=
  let v := bytesOf n (code % 2 ^ w * 2 ^ lo)
  let keep := bytesOf n (2 ^ (8 * n) - 1 - (2 ^ w - 1) * 2 ^ lo)
  (List.range n).foldl (fun t j => t.add (a + j) (v.getD j 0) (keep.getD j 0) poison) t
/-- A run of bytes within one granule. -/
structure OutRun where
  addr : Nat
  bytes : List (BitVec 8 × BitVec 8 × Bool)
  deriving DecidableEq, Repr
/-- The runs of consecutive bytes, each within one 32-byte granule. -/
def OutBytes.runs : OutBytes → List OutRun
  | [] => []
  | (a, x) :: rest =>
    match OutBytes.runs rest with
    | r :: more =>
      if r.addr = a + 1 ∧ a / 32 = (a + 1) / 32 then { addr := a, bytes := x :: r.bytes } :: more
      else { addr := a, bytes := [x] } :: r :: more
    | [] => [{ addr := a, bytes := [x] }]
/-- The write of a run at its physical address. -/
def OutRun.put (r : OutRun) (phys : Nat) : Put :=
  { addr := phys, bytes := r.bytes.map (fun b => b.1), keep := r.bytes.map (fun b => b.2.1),
    poison := r.bytes.any (fun b => b.2.2) }
/-- Translates the runs of virtual addresses; the first fault otherwise. -/
def State.placeRuns (s : State) (c f : Nat) : List OutRun → Except (Nat × Nat) (List Put)
  | [] => .ok []
  | r :: rest =>
    match s.translate c (s.ctxOf c (s.fibre c f).block) r.addr .store with
    | .error e => .error (r.addr, e)
    | .ok l =>
      match s.placeRuns c f rest with
      | .error e => .error e
      | .ok ps => .ok (r.put l.addr :: ps)

/-- The bytes of a `drain.glb` (R101, R246, R296): elements outside the extent are left out. -/
def drainGlobal (cmd : Command) (r : BitVec 320) (es : List DrainElem) : OutBytes :=
  let w := codeWidth (fwDf cmd.word)
  es.zipIdx.foldl (fun t e =>
    let row := cmd.drainRow (e.2 / 64)
    let (b, n, lo, bits) := packedAt w (cmd.drainCol (e.2 % 64))
    let a := recBase r + row * recPitch r + interleave r row b
    if inExtent r (a : Int) n then t.addElem a n lo bits e.1.code e.1.poison else t) []

/-! ### Completing a drain -/

/-- The entries of `q5` that a `drain.q` pushes (R196, R296). -/
def drainEntries (df : Nat) (es : List DrainElem) : List LaneVec :=
  (List.range 64).flatMap (fun m =>
    let row := rowOf es m
    let v (g : Nat → Nat) : LaneVec :=
      row.map (fun e => ⟨BitVec.ofNat 64 (g e.code), e.poison⟩)
    if df = 3 then [v (fun x => x % 2 ^ 32), v (fun x => x / 2 ^ 32)] else [v (place df)])

/-- The fibre records what a drain found, and the command ends. -/
def State.endDrain (s : State) (c : Nat) (a : Accepted) (es : List DrainElem) (hole : Bool) : State :=
  let n := (es.filter (fun e => e.clamped)).length
  let fl := es.foldl (fun t e => t ||| e.flags) 0
  let s1 := s.modFibre c a.fib (fun x =>
    let y := (x.orChki (fl ||| (if hole then chkiHole else 0))).addSatc n
    if a.cmd.sub = 0 then
      { y with eq := { y.eq with outstanding := Tab.set 0 y.eq.outstanding 5 (Tab.get 0 y.eq.outstanding 5 - 1) } }
    else y)
  let s2 := s1.modCore c (fun k => k.modEng (fun g =>
    { g with matrix := g.matrix.filter (fun b => b.seq != a.seq) }))
  s2.endCommand c a.fib 0 a.cmd 0 n

/-- Pushes the entries of a `drain.q` that `q5` has room for; the fibre's end lets all of them go. (DEDUCED: log entries 62, 85) -/
def State.pushDrain (s : State) (c : Nat) (a : Accepted) (es : List DrainElem) : State :=
  let all := drainEntries (fwDf a.cmd.word) es
  let x := s.fibre c a.fib
  if !x.resident then s.endDrain c a es false
  else
    let new := (all.drop a.progress).take (16 - x.lq.q5.length)
    let s1 := s.setFibre c a.fib { x with lq := { x.lq with q5 := x.lq.q5 ++ new } }
    if all.length ≤ a.progress + new.length then s1.endDrain c a es false
    else
      s1.modCore c (fun k => k.modEng (fun g => { g with matrix := g.matrix.map (fun b =>
        if b.seq = a.seq then { b with progress := a.progress + new.length } else b) }))

/-- The address and operation of the compare entry of a `drain.glb` (R460): that of its first element. -/
def drainEntryAddr (cmd : Command) (r : BitVec 320) : Nat :=
  let row := cmd.drainRow 0
  let (b, _, _, _) := packedAt (codeWidth (fwDf cmd.word)) (cmd.drainCol 0)
  recBase r + row * recPitch r + interleave r row b

/-- A drain converts its tile and writes it out. -/
def State.performDrain (s : State) (c : Nat) (a : Accepted) : State :=
  let f := a.fib
  let cmd := a.cmd
  let r := s.recordOf c f cmd.bx
  let w := codeWidth (fwDf cmd.word)
  match s.engineValues c f 0 (cmd.drainAllReads r) with
  | .error s1 => s1
  | .ok (vs, s1) =>
    let table := (cmd.drainAllReads r).zip vs
    let look (va : Nat) : PX :=
      match table.find? (fun e => e.1.1 == va) with
      | some e => e.2
      | none => PX.zero
    let n := s1.fresh
    let s2 := { s1 with fresh := n + 1 }
    let k := s2.core c
    let acc := if a.undefinedRead then freeAccumulator n (fwCf cmd.word == 3)
      else k.mem.accumulator cmd.tiles
    let es := k.mem.drainElems cmd r acc look
    let b := s2.block c (s2.fibre c f).block
    match cmd.sub with
    | 0 => s2.pushDrain c a es
    | 1 =>
      (s2.setCore c (k.drainPlane b.pdepth (bitsAt (cmd.word' 0) 0 12) w es)).endDrain c a es
        (k.holes != 0)
    | 2 => (s2.setCore c (k.drainScratch b.scrb (bitsAt (cmd.word' 0) 0 32) w es)).endDrain c a es false
    | 3 => (s2.setCore c (k.modMem (fun m => m.drainTiles cmd r look n es))).endDrain c a es false
    | _ =>
      let out := drainGlobal cmd r es
      match (if s2.isTrail c f then .ok [] else s2.placeRuns c f out.runs) with
      | .error (va, e) => s.engineFault c f va e true
      | .ok ps =>
        if s2.slackFull c f then s
        else
          let g : GlobalWrite :=
            { va := drainEntryAddr cmd r, opSize := 0xFF, poison := es.any (fun e => e.poison),
              data := es.flatMap (fun e => bytesOf ((w + 7) / 8) e.code), puts := ps, action := .clear,
              once := none }
          (s2.placeEntry c f g).endDrain c a es false

/-! ### Accepting and completing (R289, R292, R293, R370) -/

/-- The block of a fibre takes part in engine work: it is not parked or moving (R404). -/
def State.engineRuns (s : State) (c f : Nat) : Bool :=
  let st := (s.block c (s.fibre c f).block).stage
  st == .running

/-- The front command of an engine's queue is taken off it. -/
def Fibre.dropCommand (x : Fibre) (e : Nat) : Fibre :=
  { x with eq := { x.eq with cmds := Tab.set [] x.eq.cmds e ((Tab.get [] x.eq.cmds e).drop 1) } }

/-- No accepted command works on a tile (R289). -/
def CoreState.tilesFree (k : CoreState) (ts : List Nat) : Bool :=
  k.eng.matrix.all (fun a => !meets a.cmd.tiles ts)

/-- `orel` (R283): the block's slots in the range are released, once nothing uses them. -/
def CoreState.releaseSlots (k : CoreState) (b : Nat) (ns : List Nat) : CoreState :=
  let mine := ns.filter (fun n => Tab.get 0 k.mem.claims n == b + 1)
  let closes (x : Fibre) : Bool := x.block == b &&
    match x.lq.cursor with
    | some (slot, _) => mine.contains slot
    | none => false
  let close (x : Fibre) : Fibre := { x with lq := { x.lq with cursor := none } }
  let k1 := { k with fibres := k.fibres.map (fun (e : Nat × Fibre) => (e.1, if closes e.2 then close e.2 else e.2)) }
  (k1.modMem (fun m => { m with releasing := m.releasing ++ mine.filter (fun n => !m.releasing.contains n) })).settleReleases

/-- The load of an `ald` (R293): 4,096 words from its address. (DEDUCED: log entry 41) -/
def State.performAld (s : State) (c f : Nat) (cmd : Command) : Except State State :=
  let r := s.recordOf c f cmd.bx
  let a := recBase r + bitsAt (cmd.word' 0) 0 32
  match s.engineValues c f 0 ((List.range 4096).map (fun i => (a + 4 * i, 4))) with
  | .error s1 => .error s1
  | .ok (vs, s1) =>
    .ok (s1.modCore c (fun k => k.modMem (fun m =>
      (m.setTile cmd.vd (vs.map (fun v => ⟨v.bits.setWidth 32, v.poison⟩))).setMark cmd.vd cmd.bit12)))

/-- DETAIL of CAUSE 0x05 and 0x82 (R377, R451). -/
def matrixDetail (cmd : Command) : DWord :=
  BitVec.ofNat 64 (cmd.vd % 16 + 2 ^ 4 * (cmd.va % 128) + 2 ^ 11 * (cmd.vb % 128) +
    2 ^ 32 * cmd.word.toNat)

/-- A command joins those that the matrix engine has accepted. (DEDUCED: log entries 37, 54) -/
def State.acceptMatrix (s : State) (c f : Nat) (cmd : Command) : State :=
  let k := s.core c
  let emu := cmd.op == 0x122 && (emulated (fwAf cmd.word) || emulated (fwBf cmd.word))
  let sampled := cmd.op == 0x122 && s.samples c f cmd
  let late := cmd.op == 0x124 && !k.eng.matrix.all (fun a => a.cmd.op == 0x124 || !meets a.cmd.tiles cmd.tiles)
  let a : Accepted := { seq := k.eng.nextSeq, fib := f, cmd := cmd, progress := 0, held := emu,
                        sampled := sampled, undefinedRead := late,
                        alter := if cmd.op = 0x122 && k.regs.armed 0 then
                            some (64 * bitsAt k.regs.inject.toNat 26 6 + bitsAt k.regs.inject.toNat 20 6,
                              k.regs.injectMask)
                          else none }
  let b := s.block c (s.fibre c f).block
  let count (g : Engines) : Engines :=
    match s.auditCount? c f cmd with
    | some n =>
      if cmd.op = 0x122 then
        { g with auditCount := Tab.set 0 g.auditCount (launchKey b.part b.lid) (n + 1) }
      else g
    | none => g
  let s0 := (s.modFibre c f (fun x => x.dropCommand 0)).modCore c (fun k => k.modEng (fun g =>
    { count g with matrix := g.matrix ++ [a], nextSeq := g.nextSeq + 1 }))
  let s1 := if a.alter.isSome then s0.modCore c (fun k => { k with regs := k.regs.disarm }) else s0
  if emu then s1.postEvent c f 0x05 false cmd.pc 0 (matrixDetail cmd) else s1

/-- The matrix engine takes the front command of a fibre, if it can. -/
def State.matrixAccept (s : State) (c f : Nat) (cmd : Command) : State :=
  let s1 := s.modFibre c f (fun x => x.dropCommand 0)
  let ends (t : State) : State := t.endCommand c f 0 cmd 0 0
  match cmd.op with
  | 0x120 => ends s1
  | 0x121 => ends (s1.modCore c (fun k => k.releaseSlots (s.fibre c f).block cmd.range))
  | 0x123 =>
    if (s.core c).tilesFree cmd.tiles then
      ends (s1.modCore c (fun k => k.modMem (fun m => (m.setTile cmd.vd []).setMark cmd.vd false)))
    else s
  | 0x125 =>
    if !(s.core c).tilesFree cmd.tiles || s.engineHeld c f then s
    else
      match s1.performAld c f cmd with
      | .ok s2 => ends s2
      | .error s2 => { s with trans := s2.trans, partitions := s2.partitions }
  | _ =>
    if cmd.op = 0x122 ∧ s.samples c f cmd ∧ s.auditFull c f then s else s.acceptMatrix c f cmd

/-- The first command of a fibre of some kind that nothing accepted earlier holds up. -/
def Engines.readyMatrix (g : Engines) (f : Nat) (p : Command → Bool) : Option Accepted :=
  g.matrix.find? (fun a => a.fib == f && p a.cmd && !a.held &&
    g.matrix.all (fun b => decide (a.seq ≤ b.seq) || !a.cmd.after b.cmd))

/-- An `mma` ends: the log record of a sampled one, its tile, its end. (DESIGN CHOICE: log entry 53) -/
def State.finishMma (s : State) (c : Nat) (a : Accepted) (write : Bool) : State :=
  let s1 := if a.sampled then { s with audit := s.audit ++ [s.auditRecord c a.fib a.cmd a.alter] } else s
  let s2 := if write then s1.performMma c a.cmd a.alter
    else s1.modCore c (fun k => k.modMem (fun m =>
      a.cmd.tiles.foldl (fun m t => m.setMark t (halfStep (fwAf a.cmd.word))) m))
  let s3 := s2.modCore c (fun k => k.modEng (fun g =>
    { g with matrix := g.matrix.filter (fun b => b.seq != a.seq) }))
  s3.endCommand c a.fib 0 a.cmd 0 0

/-- MMA_COMPLETE: the first `mma` of the fibre that may end does. (DEDUCED: log entry 7) -/
def execMmaComplete (core fib : Nat) (s : State) : Out :=
  match (s.core core).eng.readyMatrix fib (fun c => c.op == 0x122) with
  | some a => .next (s.finishMma core a true)
  | none => .next s

/-- DRAIN_COMPLETE: the first drain of the fibre that may end writes its words. (DEDUCED: log entry 7) -/
def execDrainComplete (core fib : Nat) (s : State) : Out :=
  match (s.core core).eng.readyMatrix fib (fun c => c.op == 0x124) with
  | some a => if s.engineHeld core fib then .next s else .next (s.performDrain core a)
  | none => .next s

end Sys2Proof.Machine
end

