-- ==== Sys2Proof/Machine/Copy.lean ====
section
/-! DEFINITION. The copy engine and codebook loads (R297 to R300, R422, R423). -/

namespace Sys2Proof.Machine

/-! ### The local side (R297) -/

/-- Plane cell and depth of word `j` of local row `r` of a `.pl` copy. -/
def State.copyCell (s : State) (c f : Nat) (cmd : Command) (r j : Nat) : Nat × Nat :=
  let b := (s.fibre c f).block
  let o := s.originOf c b
  let loc := cmd.word' 2
  let x := bitsAt loc 0 16 + j / cmd.cpyNd - o.1
  let y := bitsAt loc 16 16 + r - o.2
  (8 * (y % 8) + x % 8, (s.block c b).pdepth + bitsAt loc 32 12 + j % cmd.cpyNd)

/-- The bytes of a word. -/
def wordBytes (w : PW) : List PByte := pbytes 4 w.bits.toNat w.poison
/-- A byte of scratch with its poison. -/
def CoreState.scratchByte (k : CoreState) (scrb o : Nat) : PByte :=
  let w := k.scratchWord scrb (o / 4)
  (BitVec.ofNat 8 (bitsAt w.bits.toNat (8 * (o % 4)) 8), w.poison)
def CoreState.setScratchByte (k : CoreState) (scrb o : Nat) (b : PByte) : CoreState :=
  k.setScratchWord scrb (o / 4) (putWord (k.scratchWord scrb (o / 4)) (8 * (o % 4)) 8 b.1.toNat b.2)

/-- The bytes of local row `r`; a hole cell reads 0 (R298). -/
def State.copyRow (s : State) (c f : Nat) (cmd : Command) (r : Nat) : List PByte :=
  let k := s.core c
  let rb := cmd.cpyRb
  match cmd.kind with
  | 0 =>
    (List.range (rb / 4)).flatMap (fun j =>
      let p := s.copyCell c f cmd r j
      wordBytes (if k.holes.getLsbD p.1 then PW.zero else k.cell p.1 p.2))
  | 1 =>
    let scrb := (s.block c (s.fibre c f).block).scrb
    (List.range rb).map (fun o => k.scratchByte scrb (cmd.word' 2 + r * rb + o))
  | _ => k.mem.slotRun (slotSpace * cmd.vd + bitsAt (cmd.word' 2) 0 13 + r * rb) rb

/-- Writes local row `r`; hole cells are left. -/
def State.setCopyRow (s : State) (c f : Nat) (cmd : Command) (r : Nat) (bs : List PByte) : State :=
  let rb := cmd.cpyRb
  match cmd.kind with
  | 0 =>
    (wordsOfBytes bs).zipIdx.foldl (fun t w =>
      let p := s.copyCell c f cmd r w.2
      if (s.core c).holes.getLsbD p.1 then t else t.modCore c (fun k => k.setCell p.1 p.2 w.1)) s
  | 1 =>
    let scrb := (s.block c (s.fibre c f).block).scrb
    s.modCore c (fun k => bs.zipIdx.foldl (fun k b =>
      k.setScratchByte scrb (cmd.word' 2 + r * rb + b.2) b.1) k)
  | _ =>
    s.modCore c (fun k => k.modMem (fun m =>
      m.writeSlot (slotSpace * cmd.vd + bitsAt (cmd.word' 2) 0 13 + r * rb) bs))
/-- A `.pl` copy touches a hole cell. -/
def State.copyHole (s : State) (c f : Nat) (cmd : Command) : Bool :=
  cmd.kind == 0 && (List.range cmd.cpyNr).any (fun r => (List.range (cmd.cpyRb / 4)).any (fun j =>
    (s.core c).holes.getLsbD (s.copyCell c f cmd r j).1))

/-! ### The memory side (R245, R298, R423) -/

/-- The handle offset of memory byte `x` (R245, R298). -/
def byteOffset (r : BitVec 320) (x : Nat) : Nat :=
  if recPitch r = 0 then interleave r 0 x
  else x / recPitch r * recPitch r + interleave r (x / recPitch r) (x % recPitch r)
/-- Row and element of ENC element `x` (R246). -/
def elementAt (r : BitVec 320) (x : Nat) : Nat × Nat :=
  if recPitch r = 0 then (0, x) else (x / rowElements r, x % rowElements r)
/-- Elements of a local row of a `cpyq` (R299). -/
def rowCount (cmd : Command) (r : BitVec 320) : Nat := cmd.cpyRb * 8 / codeWidth (recRegfmt r)
/-- Offset, bytes, bit and width of an element in the handle. -/
def elementOffset (r : BitVec 320) (x : Nat) : Nat × Nat × Nat × Nat :=
  let (row, k) := elementAt r x
  let (b, n, lo, w) := packedAt (codeWidth (recEnc r)) k
  (row * recPitch r + interleave r row b, n, lo, w)

/-- The handle bytes that a copy touches, as (offset, bytes). -/
def Command.copyRanges (c : Command) (r : BitVec 320) : List (Nat × Nat) :=
  (List.range c.cpyNr).flatMap (fun i =>
    if c.op = 0x129 then
      (List.range (rowCount c r)).map (fun j =>
        let e := elementOffset r (c.cpyGofs + i * c.cpyGstride + j)
        (e.1, e.2.1))
    else (List.range c.cpyRb).map (fun o => (byteOffset r (c.cpyGofs + i * c.cpyGstride + o), 1)))

/-- The status that the checks of a copy give (R298, R423); 0 where it goes on. -/
def State.copyStatus (s : State) (c f : Nat) (cmd : Command) (r : BitVec 320) : Nat :=
  let asid := s.ctxOf c (s.fibre c f).block
  match s.handle? asid (recBase r) with
  | none => 1
  | some h =>
    let ext := min h.extent (recExtent r)
    let inside (a : Nat × Nat) : Bool := decide (a.1 + a.2 ≤ ext)
    let ranges := cmd.copyRanges r
    if !recValid r || !recHandle r then 1
    else if !(ranges.filter inside).all (fun a =>
        s.frameGood asid h a.1 && s.frameGood asid h (a.1 + a.2 - 1)) then 1
    else if !ranges.all inside then 2
    else if cmd.outward && !(recWritable r && h.writable) then 3
    else 0

/-- A byte of a handle with its poison. -/
def State.handleByte (s : State) (m : Memory) (h : Handle) (o : Nat) : PByte :=
  let a := s.handleAddr h o
  (m.byte a, h.por || m.poisoned a)

/-! ### Completing a copy (R298, R299) -/

/-- The handle of a copy. -/
def State.copyHandle (s : State) (c f : Nat) (r : BitVec 320) : Handle :=
  (s.handle? (s.ctxOf c (s.fibre c f).block) (recBase r)).getD
    { writable := false, por := false, gran := 4096, extent := 0, flist := 0 }

/-- A copy ends: recorded bits, saturations, status. -/
def State.endCopy (s : State) (c : Nat) (a : Accepted) (status detail : Nat) (fl : BitVec 32)
    (satc : Nat) : State :=
  let s1 := s.modFibre c a.fib (fun x => (x.orChki fl).addSatc satc)
  (s1.modCore c (fun k => k.modEng (fun g =>
    { g with copies := g.copies.filter (fun b => b.seq != a.seq) }))).endCommand
      c a.fib 1 a.cmd status detail

/-- Whether a lead has room for another entry of its buffer and its forwarded values (R439, R441). (DEDUCED: log entry 57) -/
def State.copyWaits (s : State) (c f : Nat) (cmd : Command) : Bool :=
  (cmd.outward && s.slackFull c f) ||
  (match s.side c f with
   | .lead p => decide (4096 ≤ (s.pair p).queued)
   | _ => false)

/-- The status and, for `.in`, the bytes of a copy, row after row: a trail takes them from its lead. -/
def State.copyInput (s : State) (c f : Nat) (cmd : Command) (r : BitVec 320) : List PX :=
  let st := s.copyStatus c f cmd r
  let h := s.copyHandle c f r
  let m := s.view c f
  let bytes := if st = 0 ∧ !cmd.outward then
      (cmd.copyRanges r).map (fun a =>
        let b := s.handleByte m h a.1
        (⟨b.1.setWidth 64, b.2⟩ : PX))
    else []
  PX.clean (BitVec.ofNat 64 st) :: bytes

/-- The writes of bytes at handle offsets. (DEDUCED: log entry 64) -/
def State.handlePuts (s : State) (h : Handle) (t : OutBytes) : List Put :=
  let phys : OutBytes := t.foldl (fun u e => Tab.insert (s.handleAddr h e.1) e.2 u) []
  phys.runs.map (fun x => x.put x.addr)

/-- A write of the copy path: one compare entry of a pair (R440, R460). -/
def State.copyWrite (s : State) (c f : Nat) (r : BitVec 320) (cmd : Command) (out : OutBytes)
    (data : List (BitVec 8)) : State :=
  let h := s.copyHandle c f r
  s.placeEntry c f
    { va := ((cmd.copyRanges r).headD (0, 0)).1, opSize := 0xFF, poison := out.any (fun e => e.2.2.2),
      data := data, puts := if s.isTrail c f then [] else s.handlePuts h out, action := .clear, once := none }

/-- `cpy` (R298), once its status is 0; `vs` are the bytes of `.in`. -/
def State.performCpy (s : State) (c : Nat) (a : Accepted) (r : BitVec 320) (vs : List PX) : State :=
  let cmd := a.cmd
  let f := a.fib
  let n := cmd.cpyNr * cmd.cpyRb
  if cmd.outward then
    let rows := (List.range cmd.cpyNr).map (s.copyRow c f cmd)
    let out : OutBytes := rows.zipIdx.foldl (fun t row => row.1.zipIdx.foldl (fun t b =>
      OutBytes.add t (byteOffset r (cmd.cpyGofs + row.2 * cmd.cpyGstride + b.2)) b.1.1 0 b.1.2) t) []
    (s.copyWrite c f r cmd out (rows.flatten.map (fun b => b.1))).endCopy c a 0 n 0 0
  else
    let s1 := (List.range cmd.cpyNr).foldl (fun t i =>
      t.setCopyRow c f cmd i (((vs.drop (i * cmd.cpyRb)).take cmd.cpyRb).map (fun v =>
        (v.bits.setWidth 8, v.poison)))) s
    s1.endCopy c a 0 n (if s.copyHole c f cmd then chkiHole else 0) 0

/-- Element `j` of a local row, as a value in REGFMT. -/
def localElem (r : BitVec 320) (row : List PByte) (j : Nat) : PVal :=
  let n := codeWidth (recRegfmt r) / 8
  let bs := (row.drop (n * j)).take n
  ((fmtOfCode (recRegfmt r)).value (ofBytes (bs.map (fun b => b.1))), bs.any (fun b => b.2))

/-- The side-tensor reads of a `cpyq`. -/
def Command.cpyqReads (c : Command) (r : BitVec 320) : List (Nat × Nat) :=
  ((List.range c.cpyNr).flatMap (fun i => (List.range (rowCount c r)).flatMap (fun j =>
    let e := elementAt r (c.cpyGofs + i * c.cpyGstride + j)
    sideReads (recEnc r) r e.1 e.2))).eraseDups

/-- `cpyq` (R299), once its status is 0; `look` gives what was read at an address. -/
def State.performCpyq (s : State) (c : Nat) (a : Accepted) (r : BitVec 320) (look : Nat → PX) : State :=
  let cmd := a.cmd
  let f := a.fib
  let enc := recEnc r
  let k := s.core c
  let elems : List (Nat × DrainElem) := (List.range cmd.cpyNr).flatMap (fun i =>
    let row := s.copyRow c f cmd i
    (List.range (rowCount cmd r)).map (fun j =>
      let x := cmd.cpyGofs + i * cmd.cpyGstride + j
      let e := elementAt r x
      let sc := sideScale enc r e.2 ((sideReads enc r e.1 e.2).map (fun q => look q.1))
      (x, scaledElem enc (recRnd r) (recSat r || blockScaled enc) (k.mem.codebook (recCbix r))
        (localElem r row j) sc)))
  let out : OutBytes := elems.foldl (fun t e =>
    let (o, n, lo, w) := elementOffset r e.1
    OutBytes.addElem t o n lo w e.2.code e.2.poison) []
  let n := (elems.filter (fun e => e.2.clamped)).length
  let fl := elems.foldl (fun t e => t ||| e.2.flags) 0
  let data := elems.flatMap (fun e => bytesOf ((codeWidth enc + 7) / 8) e.2.code)
  (s.copyWrite c f r cmd out data).endCopy c a 0 n fl (if recCntsat r then n else 0)

/-- A copy is performed: its checks, its bytes, its status. (DEDUCED: log entry 41) -/
def State.performCopy (s : State) (c : Nat) (a : Accepted) : State :=
  let f := a.fib
  let cmd := a.cmd
  let r := s.recordOf c f cmd.bx
  if s.copyWaits c f cmd then s
  else
    match s.receive c f (.engine 1) (fun t => t.copyInput c f cmd r) with
    | none => s
    | some (vs, s1) =>
      let st := (vs.headD PX.zero).bits.toNat
      if st ≠ 0 then s1.endCopy c a st 0 0 0
      else if cmd.op = 0x128 then s1.performCpy c a r (vs.drop 1)
      else
        match s1.engineValues c f 1 (cmd.cpyqReads r) with
        | .error s2 => { s with trans := s2.trans, partitions := s2.partitions }
        | .ok (ws, s2) =>
          let table := (cmd.cpyqReads r).zip ws
          s2.performCpyq c a r (fun va =>
            match table.find? (fun e => e.1.1 == va) with
            | some e => e.2
            | none => PX.zero)

/-- The entry of a valid handle that a copy has used stays in the handle cache (R419, R424). (DEDUCED: log entry 70) -/
def State.cacheHandle (s : State) (asid : BitVec 16) (r : BitVec 320) : State :=
  let n := bitsAt (recBase r) 0 20
  if recHandle r && (s.handle? asid (recBase r)).isSome &&
      !s.trans.handleCache.any (fun e => e.1 == asid && e.2.1 == n) then
    { s with trans := { s.trans with handleCache := s.trans.handleCache ++ [(asid, n, s.handleWords asid n)] } }
  else s

/-- COPY_COMPLETE: a copy of the fibre ends, once every earlier accepted `mma` that reads a slot that it
writes has read it (R289). (DEDUCED: log entry 7) -/
def execCopyComplete (core fib cseq : Nat) (s : State) : Out :=
  let g := (s.core core).eng
  match g.copies.find? (fun a => a.fib == fib && a.cmd.cseq == cseq) with
  | none => .next s
  | some a =>
    if s.engineHeld core fib ||
        g.matrix.any (fun b => decide (b.seq < a.seq) && b.cmd.op == 0x122 && meets a.cmd.writes b.cmd.reads) then
      .next s
    else .next ((s.performCopy core a).cacheHandle (s.ctxOf core (s.fibre core fib).block)
      (s.recordOf core fib a.cmd.bx))

/-- A command of the copy engine is accepted. -/
def State.copyAccept (s : State) (c f : Nat) (cmd : Command) : State :=
  (s.modFibre c f (fun x => x.dropCommand 1)).modCore c (fun k => k.modEng (fun g =>
    { g with nextSeq := g.nextSeq + 1,
             copies := g.copies ++ [{ seq := g.nextSeq, fib := f, cmd := cmd, progress := 0, held := false,
                                      sampled := false, undefinedRead := false }] }))

/-! ### cbld (R300) -/

/-- The entries of a codebook. (DEDUCED: log entry 57) -/
def CoreMem.setCodebook (m : CoreMem) (c : Nat) (vs : List (BitVec 16)) : CoreMem :=
  { m with codebooks := Tab.setAll 0 m.codebooks (vs.zipIdx.map (fun e => (16 * c + e.2, e.1))) }

def execCbld (f : LaneFields) (s : State) : Out :=
  let i : Instr := .cbld f
  let c := s.focus.core
  let (a, s1) := s.useScalar (f.va.toNat % 64)
  if a.extractLsb' 57 7 ≠ 0 then .next (s1.trap 0x08 0 i)
  else if a.toNat % 32 ≠ 0 then .next (s1.trap 0x07 0 i)
  else
    match (if s1.isTrail c s.focus.fib then .ok [] else
        s1.range c (s1.ctxOf c s1.cur.block) .load a.toNat 32) with
    | .error e => .next (s1.pageFault e.1 e.2 false false s1.gangLanes)
    | .ok ps =>
      if s1.onceAhead c s.focus.fib ps then .next (s.wait .stall)
      else
        match s1.receive c s.focus.fib .value (fun t =>
            let m := t.view c s.focus.fib
            [0, 1, 2, 3].map (fun k =>
              ⟨BitVec.ofNat 64 (ofBytes (((m.readPieces ps).drop (8 * k)).take 8)), m.piecesPoisoned ps⟩)) with
        | none => .next (s.wait .stall)
        | some (vs, s2) =>
          let n := s2.fresh
          let entry (x : Nat) : BitVec 16 :=
            let v := vs.getD (x / 4) PX.zero
            if v.poison then (Config.free32 n x).setWidth 16 else v.bits.extractLsb' (16 * (x % 4)) 16
          let s3 := { s2 with fresh := n + 1 }
          .next (((s3.modCore c (fun k => k.modMem (fun m =>
            m.setCodebook (f.imm.toNat % 16) ((List.range 16).map entry)))).watch a.toNat 32 true).retire i)

end Sys2Proof.Machine
end

