-- ==== Sys2Proof/Machine/Gather.lean ====
section
/-! DEFINITION. Sliding-window operators on the plane: `wgath` and `wpool` (R138, R152 to R154, R302 to
R304). -/

namespace Sys2Proof.Machine

/-! ### Input elements (R153, R302) -/

/-- The code of channel `ch` of a cell, with its poison (R213, R302). -/
def CoreState.channel (k : CoreState) (lane d0 fmt cd ch : Nat) : Nat × Bool :=
  if fmt = 3 then
    let lo := k.cell lane (d0 + cd + 2 * ch)
    let hi := k.cell lane (d0 + cd + 2 * ch + 1)
    (lo.bits.toNat + 2 ^ 32 * hi.bits.toNat, lo.poison || hi.poison)
  else
    let w := codeWidth fmt
    let e := wordElems w
    let x := k.cell lane (d0 + cd + ch / e)
    (bitsAt x.bits.toNat (w * (ch % e)) w, x.poison)

/-- The padding constant as a code (R302). -/
def padConst (fmt x : Nat) : Nat :=
  if fmt = 3 then (convert .fp64 0 0 false (Fmt.fp32.value x)).code else x % 2 ^ codeWidth fmt

/-- Where a window position reads: a padding code, or a plane position. -/
inductive WinRead where
  | pad (code : Nat)
  | image (x y : Nat)
  deriving DecidableEq, Repr

/-- Resolves input coordinates by the padding mode, x first (R153). -/
def winRead (d : List DWord) (fmt : Nat) (ix iy : Int) : WinRead :=
  let pad := descFld d 3 12 4
  let x := winX d
  let y := winY d
  match resolveEdge pad ix x.n, resolveEdge pad iy y.n with
  | .zero, _ => .pad 0
  | .const, _ => .pad (padConst fmt (descFld d 3 32 32))
  | .at _, .zero => .pad 0
  | .at _, .const => .pad (padConst fmt (descFld d 3 32 32))
  | .at a, .at b => .image (x.i0 + a) (y.i0 + b)

/-- The input coordinate of output `o` under tap `t` (R152). -/
def WinAxis.input (a : WinAxis) (o t : Nat) : Int := (o : Int) * a.st + (t : Int) * a.dil - a.pl

/-- An element that an operator reads: its code, poison, whether it met a hole or another die. -/
structure WinElem where
  code : Nat
  poison : Bool
  hole : Bool
  cross : Bool
  deriving DecidableEq, Repr

/-- Reads channel `ch` at what a window position resolves to, from a core. -/
def State.winElem (s : State) (l : Launch) (c : Nat) (fmt cd ch : Nat) : WinRead → WinElem
  | .pad code => ⟨code, false, false, false⟩
  | .image x y =>
    match s.cellAt l c x y with
    | .cell k lane d0 =>
      let v := (s.core k).channel lane d0 fmt cd ch
      ⟨v.1, v.2, false, false⟩
    | .hole => ⟨0, false, true, false⟩
    | .far => ⟨0, false, false, true⟩
    | _ => ⟨0, false, false, false⟩

/-- A position whose block is parked or moving holds the operator up (R407). -/
def State.winAway (s : State) (l : Launch) (c : Nat) (rs : List WinRead) : Bool :=
  rs.any (fun r => match r with
    | .image x y => s.cellAt l c x y == .away
    | .pad _ => false)

/-! ### wgath (R303) -/

/-- What line m of the tile reads: none where it is all zeros. -/
def gatherRead (cmd : Command) (m : Nat) : Option WinRead :=
  let d := cmd.desc
  let x := winX d
  let y := winY d
  let ox := x.o0 + m % 8
  let oy := y.o0 + m / 8
  if x.out ≤ ox ∨ y.out ≤ oy then none
  else some (winRead d (fwAf cmd.word) (x.input ox (descFld d 1 32 8)) (y.input oy (descFld d 1 40 8)))

/-- Writes the tile, and ends with EMPTY, CROSSDIE and `CHKI.HOLE`. -/
def State.performGather (s : State) (l : Launch) (c : Nat) (a : Accepted) : State :=
  let cmd := a.cmd
  let fmt := fwAf cmd.word
  let w := codeWidth fmt
  let k := gatherK fmt (winHalf cmd.desc)
  let empty := decide ((winX cmd.desc).out ≤ 0) || decide ((winY cmd.desc).out ≤ 0)
  let lines : List (List WinElem) := if empty then [] else
    (List.range 64).map (fun m =>
      match gatherRead cmd m with
      | none => List.replicate k ⟨0, false, false, false⟩
      | some r => (List.range k).map (fun ch => s.winElem l c fmt (descFld cmd.desc 3 0 12) ch r))
  let all := lines.flatten
  let bytes := lines.flatMap (fun es =>
    packBytes w (es.map (fun e => ⟨e.code, e.poison, 0, false⟩)))
  let s1 := s.modCore c (fun k => k.modMem (fun m =>
    if empty then m else m.writeSlot (slotSpace * cmd.vd) bytes))
  let s2 := s1.modFibre c a.fib (fun x =>
    x.orChki (if all.any (fun e => e.hole) then chkiHole else 0))
  let s3 := s2.modCore c (fun k => k.modEng (fun g =>
    { g with matrix := g.matrix.filter (fun b => b.seq != a.seq) }))
  s3.endCommand c a.fib 0 cmd 0 ((if empty then 1 else 0) + (if all.any (fun e => e.cross) then 4 else 0))

/-- WGATH_COMPLETE: the first `wgath` of the fibre that may end writes its slot. -/
def execWgathComplete (core fib : Nat) (s : State) : Out :=
  match (s.core core).eng.readyMatrix fib (fun c => c.op == 0x138),
      s.launchOf core (s.fibre core fib).block with
  | some a, some l =>
    if s.winAway l core ((List.range 64).filterMap (gatherRead a.cmd)) then .next s
    else .next (s.performGather l core a)
  | _, _ => .next s

/-! ### wpool (R154, R304) -/

/-- The terms of an output of a channel: all positions, or only those in the image. -/
def poolReads (cmd : Command) (ox oy : Nat) : List WinRead :=
  let d := cmd.desc
  let x := winX d
  let y := winY d
  let fmt := descFld d 3 16 5
  (List.range y.k).flatMap (fun j => (List.range x.k).filterMap (fun i =>
    let ix := x.input ox i
    let iy := y.input oy j
    let inside := decide (0 ≤ ix) && decide (ix < x.n) && decide (0 ≤ iy) && decide (iy < y.n)
    if cmd.m1.testBit 1 && !inside then none else some (winRead d fmt ix iy)))

/-- The maximum of some codes (R154, R204). -/
def poolMax (fmt : Nat) (xs : List Nat) : Nat × BitVec 32 :=
  match xs with
  | [] => (0, 0)
  | x :: rest =>
    if fmt = 9 then (rest.foldl (fun a b => greater 8 false a b) x, 0)
    else
      let f := fmtOfCode fmt
      let r := rest.foldl (fun (t : Res) b =>
        let u := fMinMax true f t.1 b
        (u.1, t.2 ||| u.2)) (x, flagIf (f.value x).isSignalling fFio)
      (if (f.value r.1).isNaN then f.canonicalNaN else r.1, r.2)

/-- The average of some codes, rounded once (R154). -/
def poolAvg (fmt : Nat) (xs : List Nat) : Nat × BitVec 32 :=
  let f := fmtOfCode fmt
  match xs with
  | [] => (0, 0)
  | x :: rest =>
    let t := rest.foldl (fun (t : FVal × BitVec 32) b =>
      let u := addVal 0 t.1 (f.value b)
      (u.1, t.2 ||| u.2)) (f.value x, flagIf (f.value x).isSignalling fFio)
    let q : FVal := match t.1 with
      | .fin n m e => divVal (.fin n m e) (.fin false xs.length 0)
      | .nan _ => .nan false
      | v => v
    let c := convert f 0 0 false q
    (c.code, t.2 ||| c.flags)

/-- One output element. -/
structure PoolElem where
  code : Nat
  poison : Bool
  flags : BitVec 32
  deriving DecidableEq, Repr

/-- The outputs of a command: positions with their window reads. -/
def poolOutputs (cmd : Command) : List ((Nat × Nat) × List WinRead) :=
  let x := winX cmd.desc
  let y := winY cmd.desc
  (List.range y.out.toNat).flatMap (fun oy => (List.range x.out.toNat).map (fun ox =>
    ((x.o0 + ox, y.o0 + oy), poolReads cmd ox oy)))

/-- The value of a channel of an output. -/
def State.poolElem (s : State) (l : Launch) (c : Nat) (cmd : Command) (rs : List WinRead) (ch : Nat) :
    PoolElem :=
  let fmt := descFld cmd.desc 3 16 5
  let es := rs.map (s.winElem l c fmt (descFld cmd.desc 3 0 12) ch)
  if es.any (fun e => e.poison) then ⟨0, true, 0⟩
  else
    let r := if cmd.m1.testBit 0 then poolAvg fmt (es.map (fun e => e.code))
      else poolMax fmt (es.map (fun e => e.code))
    ⟨r.1, false, r.2⟩

/-- Where an output goes: any cell of this device that is present. -/
def State.poolTarget (s : State) (l : Launch) (x y : Nat) : Option (Nat × Nat × Nat) :=
  match s.planeSite l (x / 8) (y / 8) with
  | .block c b =>
    let j := 8 * (y % 8) + x % 8
    if (s.core c).holes.getLsbD j then none else some (c, j, (s.block c b).pdepth)
  | _ => none
/-- The block of an output position does not run. -/
def State.poolAway (s : State) (l : Launch) (x y : Nat) : Bool :=
  match s.planeSite l (x / 8) (y / 8) with
  | .block c b => (s.block c b).stage != .running
  | .away => true
  | _ => false

/-- Word `j` of an output cell: its elements over the old word, whose other positions stay (R304). -/
def poolWord (w n j : Nat) (old : PW) (es : List PoolElem) : PW :=
  let e := wordElems w
  let here := (es.drop (e * j)).take e
  let part := decide (n < e * (j + 1))
  let v := here.zipIdx.foldl (fun t x => putBits t (w * x.2) w x.1.code)
    (if part then old.bits.toNat else 0)
  ⟨BitVec.ofNat 32 v, here.any (fun x => x.poison) || (part && old.poison)⟩

/-- A `wpool` writes its output cells and ends (R304). (DEDUCED: log entries 38, 42) -/
def State.performPool (s : State) (l : Launch) (c : Nat) (a : Accepted) : State :=
  let cmd := a.cmd
  let d := cmd.desc
  let fmt := descFld d 3 16 5
  let w := codeWidth fmt
  let nc := descFld d 3 21 11 + 1
  let od := descFld d 1 32 12
  let cd := descFld d 3 0 12
  let words := channelWords fmt nc
  let empty := decide ((winX d).out ≤ 0) || decide ((winY d).out ≤ 0)
  let outs := if empty then [] else poolOutputs cmd
  let reads := (outs.flatMap (fun o => o.2)).eraseDups
  let isInput (x y j : Nat) : Bool :=
    reads.contains (.image x y) && decide (cd ≤ od + j) && decide (od + j < cd + words)
  let n := s.fresh
  let step (t : State) (o : ((Nat × Nat) × List WinRead) × Nat) : State :=
    let x := o.1.1.1
    let y := o.1.1.2
    match s.poolTarget l x y with
    | none => t
    | some (k, lane, d0) =>
      let es := (List.range nc).map (s.poolElem l c cmd o.1.2)
      let put (t : State) (j : Nat) : State :=
        let v := if isInput x y j then PW.clean (Config.free32 n (4096 * o.2 + j))
          else poolWord w nc j ((s.core k).cell lane (d0 + od + j)) es
        t.modCore k (fun q => q.setCell lane (d0 + od + j) v)
      (List.range words).foldl put t
  let s1 := outs.zipIdx.foldl step { s with fresh := n + 1 }
  let elems := outs.flatMap (fun o => (List.range nc).map (s.poolElem l c cmd o.2))
  let met := reads.map (fun r => s.winElem l c fmt cd 0 r)
  let fl := elems.foldl (fun t e => t ||| e.flags) (if met.any (fun e => e.hole) then chkiHole else 0)
  let s2 := s1.modFibre c a.fib (fun x => x.orChki fl)
  let s3 := s2.modCore c (fun k => k.modEng (fun g => { g with pools := Tab.set none g.pools a.fib none }))
  s3.endCommand c a.fib 2 cmd 0
    ((if empty then 1 else 0) + (if outs.any (fun o => o.2.isEmpty) then 2 else 0) +
      (if met.any (fun e => e.cross) then 4 else 0))

/-- WPOOL_COMPLETE: the pooling command of the fibre writes its output cells. -/
def execWpoolComplete (core fib : Nat) (s : State) : Out :=
  match Tab.get none (s.core core).eng.pools fib, s.launchOf core (s.fibre core fib).block with
  | some a, some l =>
    let outs := poolOutputs a.cmd
    if !s.engineRuns core fib || s.winAway l core (outs.flatMap (fun o => o.2)) ||
        outs.any (fun o => s.poolAway l o.1.1 o.1.2) then .next s
    else .next (s.performPool l core a)
  | _, _ => .next s

/-- The pooling command at the front of the queue is accepted, once the sequence of scrolls before it
has ended (R142, R301). -/
def State.poolAccept (s : State) (c f : Nat) (cmd : Command) : State :=
  let g := (s.core c).eng
  if (Tab.get none g.pools f).isSome || (Tab.get none g.scrolls f).isSome then s
  else
    (s.modFibre c f (fun x => x.dropCommand 2)).modCore c (fun k => k.modEng (fun g =>
      { g with nextSeq := g.nextSeq + 1,
               pools := Tab.set none g.pools f (some
                 { seq := g.nextSeq, fib := f, cmd := cmd, progress := 0, held := false, sampled := false,
                   undefinedRead := false }) }))

end Sys2Proof.Machine
end

