-- ==== Sys2Proof/Machine/Scroll.lean ====
section
/-! DEFINITION. Acceptance by the engines, and scrolls: descriptor, rows, spill buffer, carry, ends and
their traps (R134 to R150, R301, R368 to R370, R468). -/

namespace Sys2Proof.Machine

/-! ### The descriptor (R134, R135) -/

/-- A scroll descriptor with the mode bits of its command. -/
structure ScrollDesc where
  x0 : Nat
  y0 : Nat
  w : Nat
  h : Nat
  dx : Int
  dy : Int
  nd : Nat
  d0 : Nat
  hp : Nat
  ex : Nat
  ey : Nat
  fill : Word
  ticket : BitVec 32
  handle : Nat
  reserved : Bool
  move : Bool
  spill : Bool
  deriving DecidableEq, Repr

def Command.scroll (c : Command) : ScrollDesc :=
  let d := c.desc
  { x0 := descFld d 0 0 16, y0 := descFld d 0 16 16, w := descFld d 0 32 16, h := descFld d 0 48 16,
    dx := toSigned 16 (descFld d 1 32 16), dy := toSigned 16 (descFld d 1 48 16),
    nd := descFld d 1 16 13, d0 := descFld d 1 0 12, hp := descFld d 1 14 2,
    ex := descFld d 3 60 3, ey := descFld d 3 57 3, fill := BitVec.ofNat 32 (descFld d 2 32 32),
    ticket := BitVec.ofNat 32 (descFld d 2 0 32), handle := descFld d 3 0 57,
    reserved := descFld d 1 29 3 != 0 || descFld d 1 12 2 != 0 || descFld d 3 63 1 != 0,
    move := c.m1.testBit 0, spill := c.m1.testBit 1 }

/-- What makes a descriptor bad (R136). -/
def ScrollDesc.bad (d : ScrollDesc) (planeW planeH depth : Nat) : Bool :=
  d.reserved || d.hp == 3 || decide (6 ≤ d.ex) || decide (6 ≤ d.ey) ||
  d.w == 0 || d.h == 0 || d.nd == 0 || decide (planeW < d.x0 + d.w) || decide (planeH < d.y0 + d.h) ||
  depth == 0 || decide (depth < d.d0 + d.nd) ||
  (!d.spill && (d.hp == 1 || d.ex == 5 || d.ey == 5))

/-- The columns of the rectangle in the order of writing (R141). -/
def ScrollDesc.columns (d : ScrollDesc) : List Nat :=
  let xs := (List.range d.w).map (fun j => d.x0 + j)
  if 0 < d.dx then xs.reverse else xs
def ScrollDesc.depths (d : ScrollDesc) : List Nat := (List.range d.nd).map (fun j => d.d0 + j)
/-- The row of the rectangle that row `k` names: the destination row of a frame scroll, the source row
of a move (R141). -/
def ScrollDesc.rectRow (d : ScrollDesc) (k : Nat) : Nat :=
  if 0 < d.dy then d.y0 + d.h - 1 - k else d.y0 + k
/-- The number of the row that writes a row of the rectangle, in frame mode. -/
def ScrollDesc.rowIndex (d : ScrollDesc) (y : Nat) : Nat :=
  if 0 < d.dy then d.y0 + d.h - 1 - y else y - d.y0

/-! ### Sources (R137, R138) -/

/-- Where a written word comes from. -/
inductive ScrollSource where
  | fill (w : Word)
  | at (x y : Nat)
  deriving DecidableEq, Repr

/-- One axis of R137: a position, or a fill value. -/
inductive AxisSource where
  | fill (w : Word)
  | at (p : Nat)
  deriving DecidableEq, Repr

/-- `resolve` of R137. -/
def frameResolve (p : Int) (base n mode : Nat) (fill : Word) : AxisSource :=
  let t := p - base
  if 0 ≤ t ∧ t < n then .at p.toNat
  else
    match mode with
    | 0 => .fill 0
    | 2 => .at (base + mirrorAt t n)
    | 3 => .at (if t < 0 then base else base + n - 1)
    | 4 => .at (base + (t % (n : Int)).toNat)
    | _ => .fill fill

/-- The source of a position of the rectangle in frame mode (R137). -/
def ScrollDesc.frameSource (d : ScrollDesc) (x y : Nat) : ScrollSource :=
  match frameResolve (x - d.dx) d.x0 d.w d.ex d.fill, frameResolve (y - d.dy) d.y0 d.h d.ey d.fill with
  | .fill w, _ => .fill w
  | .at _, .fill w => .fill w
  | .at vx, .at vy => .at vx vy

/-- A frame scroll's word at a position leaves the rectangle on a spill axis (R137). -/
def ScrollDesc.leaves (d : ScrollDesc) (x y : Nat) : Bool :=
  let out (mode : Nat) (t : Int) (base n : Nat) : Bool :=
    mode == 5 && (decide (t < base) || decide ((base + n : Nat) ≤ t))
  out d.ex (x + d.dx) d.x0 d.w || out d.ey (y + d.dy) d.y0 d.h

/-- What one axis does to the destination of a move (R139): its coordinate after step 1, and whether
the word is marked for spilling or dropping. -/
def moveAxis (t : Int) (n mode : Nat) : Int × Bool × Bool :=
  if 0 ≤ t ∧ t < n then (t, false, false)
  else if mode = 4 then (t % (n : Int), false, false)
  else (t, mode == 5, mode != 5)

/-! ### The plane (R43, R150) -/

/-- What a plane position is to a scroll. -/
inductive ScrollCell where
  | cell (core lane depth0 : Nat)
  | hole
  /-- It lies on another device of the torus, which the model does not hold. -/
  | other
  /-- Its block is parked or being moved: the row waits. -/
  | away
  deriving DecidableEq, Repr

def State.scrollCell (s : State) (l : Launch) (x y : Nat) : ScrollCell :=
  let j := 8 * (y % 8) + x % 8
  match s.planeSite l (x / 8) (y / 8) with
  | .otherDevice => .other
  | .away => .away
  | .hole _ => .hole
  | .block c b =>
    if (s.block c b).stage ≠ .running then .away
    else if (s.core c).holes.getLsbD j then .hole
    else .cell c j (s.block c b).pdepth
def State.scrollHole (s : State) (l : Launch) (x y : Nat) : Bool := s.scrollCell l x y == .hole

/-! ### A row (R137, R139 to R141) -/

/-- What becomes of a word of a row. -/
inductive RowFate where
  | write (x y : Nat)
  /-- Discarded at a hole and counted (R140). -/
  | count
  /-- Spilled with a destination and a cause (R143). -/
  | record (px py : Int) (cause : Nat)
  deriving DecidableEq, Repr

structure RowItem where
  depth : Nat
  src : ScrollSource
  fate : RowFate
  deriving DecidableEq, Repr

/-- A word that goes to a position of the plane (R140); none where the strict policy meets a hole. -/
def State.scrollFate (s : State) (l : Launch) (d : ScrollDesc) (x y : Nat) : Option RowFate :=
  if !s.scrollHole l x y then some (.write x y)
  else
    match d.hp with
    | 0 => some .count
    | 1 => some (.record x y 1)
    | _ => none

/-- The words of one position of the row of a frame scroll. -/
def State.frameItems (s : State) (l : Launch) (d : ScrollDesc) (x y : Nat) : Option (List RowItem) :=
  match s.scrollFate l d x y with
  | none => none
  | some fate =>
    some (d.depths.flatMap (fun z =>
      (if d.leaves x y && !s.scrollHole l x y then
        [{ depth := z, src := .at x y, fate := .record (x + d.dx) (y + d.dy) 0 }] else []) ++
      [{ depth := z, src := d.frameSource x y, fate := fate }]))

/-- The words of one position of the row of a move. -/
def State.moveItems (s : State) (l : Launch) (d : ScrollDesc) (x y : Nat) : Option (List RowItem) :=
  let (tx, sx, ox) := moveAxis (x + d.dx) (s.planeW l) d.ex
  let (ty, sy, oy) := moveAxis (y + d.dy) (s.planeH l) d.ey
  let all (g : RowFate) : List RowItem :=
    d.depths.map (fun z => { depth := z, src := .at x y, fate := g })
  if sx || sy then some (all (.record tx ty 0))
  else if ox || oy then some []
  else (s.scrollFate l d tx.toNat ty.toNat).map all

/-- The words of row `k`, in order; none where the strict policy meets a hole. -/
def State.rowItems (s : State) (l : Launch) (d : ScrollDesc) (k : Nat) : Option (List RowItem) :=
  let y := d.rectRow k
  (d.columns.mapM (fun x => if d.move then s.moveItems l d x y else s.frameItems l d x y)).map List.flatten

/-- A position that a word reads or writes is away. (DESIGN CHOICE: log entry 61) -/
def State.itemAway (s : State) (l : Launch) (i : RowItem) : Bool :=
  (match i.src with
   | .at x y => s.scrollCell l x y == .away
   | .fill _ => false) ||
  (match i.fate with
   | .write x y => s.scrollCell l x y == .away
   | _ => false)

/-- The word at a source: carried where an earlier row has overwritten it, else as it stands; a hole
supplies 0 (R140, R145). -/
def State.scrollWord (s : State) (l : Launch) (d : ScrollDesc) (carry : Option Carry) (k n i z : Nat)
    (src : ScrollSource) : PW :=
  match src with
  | .fill w => PW.clean w
  | .at x y =>
    match s.scrollCell l x y with
    | .cell c j p =>
      let now := (s.core c).cell j (p + z)
      if d.move || decide (k ≤ d.rowIndex y) then now
      else
        match carry with
        | some t =>
          (match t.words.find? (fun e => e.1 == (x, y, z)) with
           | some e => e.2
           | none => now)
        | none => now
    | .other => PW.clean (Config.free32 n i)
    | _ => PW.zero
def State.sourceHole (s : State) (l : Launch) (src : ScrollSource) : Bool :=
  match src with
  | .at x y => s.scrollHole l x y
  | .fill _ => false

/-! ### The carry store (R145, R147) -/

/-- The source rows of a frame scroll that it reads after it has overwritten them. -/
def ScrollDesc.carriedRows (d : ScrollDesc) : List Nat :=
  if d.move || !(d.ey == 2 || d.ey == 4) then []
  else
    ((List.range d.h).filterMap (fun j =>
      match frameResolve ((d.y0 + j : Nat) - d.dy) d.y0 d.h d.ey d.fill with
      | .at vy => if d.rowIndex vy < d.rowIndex (d.y0 + j) then some vy else none
      | .fill _ => none)).eraseDups

/-- The columns of the rectangle that lie on one column of cores. -/
def ScrollDesc.columnsOn (d : ScrollDesc) (cx : Nat) : Nat :=
  min (d.x0 + d.w) (8 * cx + 8) - max d.x0 (8 * cx)
/-- The carry words needed on some core exceed its store. -/
def ScrollDesc.carryTooLarge (d : ScrollDesc) : Bool :=
  !d.move && (d.ey == 2 || d.ey == 4) &&
  (List.range ((d.x0 + d.w + 7) / 8)).any (fun cx =>
    decide (8192 < min d.dy.natAbs d.h * d.columnsOn cx * d.nd))

/-- The carried words, as they stand now. (DEDUCED: log entry 58) -/
def State.captureCarry (s : State) (l : Launch) (d : ScrollDesc) (n : Nat) : List ((Nat × Nat × Nat) × PW) :=
  let at' := d.carriedRows.flatMap (fun y => (List.range d.w).flatMap (fun j =>
    d.depths.map (fun z => (d.x0 + j, y, z))))
  at'.zipIdx.map (fun e => (e.1, s.scrollWord l d none 0 n e.2 e.1.2.2 (.at e.1.1 e.1.2.1)))

/-! ### The spill buffer (R136, R143, R369) -/

/-- The physical runs of a handle's bytes 0 to E - 1. -/
def State.spillRuns (s : State) (h : Handle) : List (Nat × Nat) :=
  (List.range ((h.extent + h.gran - 1) / h.gran)).map (fun j =>
    (s.handleAddr h (j * h.gran), min h.gran (h.extent - j * h.gran)))
/-- Every frame of the buffer is good. -/
def State.spillGood (s : State) (asid : BitVec 16) (h : Handle) : Bool :=
  (List.range ((h.extent + h.gran - 1) / h.gran)).all (fun j => s.frameGood asid h (j * h.gran))
/-- The address of byte `o` of the runs. -/
def runAddr : List (Nat × Nat) → Nat → Nat
  | [], o => o
  | r :: rest, o => if o < r.2 ∨ rest.isEmpty then r.1 + o else runAddr rest (o - r.2)
/-- The extent, and the capacity C. -/
def ScrollRun.extent (r : ScrollRun) : Nat := (r.spill.map (fun e => e.2)).foldl (· + ·) 0
def ScrollRun.capacity (r : ScrollRun) : Nat := (r.extent - 16) / 16

def State.scrollRun (s : State) (c f : Nat) : Option ScrollRun := Tab.get none (s.core c).eng.scrolls f
def State.setScrollRun (s : State) (c f : Nat) (r : Option ScrollRun) : State :=
  s.modCore c (fun k => k.modEng (fun g => { g with scrolls := Tab.set none g.scrolls f r }))
/-- The engine's own write of its spill buffer. -/
def State.spillWrite (s : State) (c f : Nat) (r : ScrollRun) (o : Nat) (bs : List (BitVec 8)) (poison : Bool) :
    State :=
  let s1 := s.writeMem (runAddr r.spill o) bs poison .clear
  match s1.scrollRun c f with
  | some q => s1.setScrollRun c f (some { q with dirty := r.dirty })
  | none => s1

/-- The 16 bytes of a spill record. -/
def spillRecord (v : PW) (px py : Int) (depth cause row : Nat) (ticket : BitVec 32) : List (BitVec 8) :=
  bytesOf 16 (v.bits.toNat + 2 ^ 32 * wrapInt 16 px + 2 ^ 48 * wrapInt 16 py +
    2 ^ 64 * (depth % 4096 + 4096 * cause) + 2 ^ 80 * (row % 65536) + 2 ^ 96 * ticket.toNat)

/-- Another agent wrote the buffer while the scroll was in flight: its header and every record are
undefined (R369). (DEDUCED: log entry 58) -/
def State.scrambleSpill (s : State) (c f : Nat) (r : ScrollRun) : State :=
  if !r.dirty then s
  else
    let n := s.fresh
    let bytes (base count : Nat) : List (BitVec 8) :=
      (List.range count).map (fun j => (Config.free32 n (base + j)).setWidth 8)
    let s1 := (List.range r.capacity).foldl (fun t j =>
      t.spillWrite c f r (16 + 16 * j) (bytes (16 + 16 * j) 16) false)
      ({ s with fresh := n + 1 }.spillWrite c f r 0 (bytes 0 8) false)
    match s1.scrollRun c f with
    | some q => s1.setScrollRun c f (some { q with dirty := false })
    | none => s1

/-! ### Acceptance (R136, R142, R370) -/

/-- Whether a command queue's front is a `scrl`. -/
def State.frontCommand (s : State) (c f e : Nat) : Option Command :=
  (Tab.get [] (s.fibre c f).eq.cmds e).head?

/-- The status that the checks give, and the handle of the spill buffer. (DEDUCED: log entry 58) -/
def State.scrollChecks (s : State) (c f : Nat) (l : Launch) (d : ScrollDesc) : Except Nat (Option Handle) :=
  let asid := s.ctxOf c (s.fibre c f).block
  if d.bad (s.planeW l) (s.planeH l) l.depth then .error 4
  else if !d.spill then (if d.carryTooLarge then .error 5 else .ok none)
  else
    match s.handle? asid d.handle with
    | none => .error 3
    | some h =>
      if !h.writable || !s.spillGood asid h then .error 3
      else if d.carryTooLarge then .error 5
      else .ok (some h)

/-- A scroll that starts at a row. -/
def ScrollRun.start (cmd : Command) (row : Nat) : ScrollRun :=
  { cmd := cmd, row := row, nrec := none, holes := 0, holeSeen := false, spill := [], dirty := false,
    status := none }

/-- SCROLL_ACCEPT: the ticket is compared with `SPROG`, the descriptor is checked, the words to be
carried are kept. (DEDUCED: log entry 58) -/
def execScrollAccept (core fib : Nat) (s : State) : Out :=
  let x := s.fibre core fib
  let g := (s.core core).eng
  match s.frontCommand core fib 2, s.launchOf core x.block with
  | some cmd, some l =>
    if cmd.op ≠ 0x130 ∨ !s.engineRuns core fib ∨ (Tab.get none g.scrolls fib).isSome ∨
        (Tab.get none g.pools fib).isSome then .next s
    else
      let d := cmd.scroll
      let same := x.sys.sprog.extractLsb' 32 32 == d.ticket
      let first := if same then bitsAt x.sys.sprog.toNat 0 16 else 0
      let s1 := s.modFibre core fib (fun y =>
        let z := y.dropCommand 2
        { z with sys := { z.sys with
          sprog := if same then z.sys.sprog else BitVec.ofNat 64 (d.ticket.toNat * 2 ^ 32) } })
      let run := ScrollRun.start cmd first
      match s1.scrollChecks core fib l d with
      | .error st => .next (s1.setScrollRun core fib (some { run with status := some st }))
      | .ok h =>
        let held := Tab.get none g.carry fib
        let kept := match held with
          | some t => if t.ticket = d.ticket ∧ same then held else none
          | none => none
        let carry : Option Carry :=
          if same ∧ first ≠ 0 then kept
          else some { ticket := d.ticket, words := s1.captureCarry l d s1.fresh }
        let s2 := { s1 with fresh := s1.fresh + 1 }.modCore core (fun k => k.modEng (fun g =>
          { g with carry := Tab.set none g.carry fib carry }))
        let runs := match h with
          | some h => s2.spillRuns h
          | none => []
        .next (s2.setScrollRun core fib (some { run with
          nrec := if d.spill then none else some 0, spill := runs,
          status := if d.h ≤ first then some 0 else none }))
  | _, _ => .next s

/-- SPILL_HEADER_READ: the execution reads NREC once (R369). -/
def execSpillHeaderRead (core fib : Nat) (s : State) : Out :=
  match s.scrollRun core fib with
  | some r =>
    if r.status.isSome || r.nrec.isSome then .next s
    else .next (s.setScrollRun core fib (some { r with nrec := some (s.mem.num (runAddr r.spill 0) 4) }))
  | none => .next s

/-! ### Performing a row -/

/-- The records of a row, from record `j` on. -/
def State.writeRecords (s : State) (c f : Nat) (r : ScrollRun) (d : ScrollDesc) :
    Nat → List (RowItem × PW) → State
  | _, [] => s
  | j, (i, v) :: rest =>
    match i.fate with
    | .record px py cause =>
      (s.spillWrite c f r (16 + 16 * j) (spillRecord v px py i.depth cause r.row d.ticket) v.poison).writeRecords
        c f r d (j + 1) rest
    | _ => s.writeRecords c f r d j rest

/-- The words of a row. -/
def State.writeRow (s : State) (l : Launch) : List (RowItem × PW) → State
  | [] => s
  | (i, v) :: rest =>
    match i.fate with
    | .write x y =>
      (match s.scrollCell l x y with
       | .cell c j p => s.modCore c (fun k => k.setCell j (p + i.depth) v)
       | _ => s).writeRow l rest
    | _ => s.writeRow l rest

def RowItem.isRecord (i : RowItem) : Bool :=
  match i.fate with
  | .record _ _ _ => true
  | _ => false
/-- The word meets a hole at its destination (R140). -/
def RowItem.atHole (i : RowItem) : Bool :=
  match i.fate with
  | .count => true
  | .record _ _ cause => cause == 1
  | .write _ _ => false

/-- Row `r.row` with its words: all sources are read before any word is written. (DEDUCED: log entry 58) -/
def State.performRow (s : State) (c f : Nat) (l : Launch) (r : ScrollRun) (items : List RowItem) : State :=
  let d := r.cmd.scroll
  let carry := Tab.get none (s.core c).eng.carry f
  let n := s.fresh
  let vals := items.zipIdx.map (fun e =>
    (e.1, s.scrollWord l d carry r.row n e.2 e.1.depth e.1.src))
  let recs := (items.filter RowItem.isRecord).length
  let first := r.nrec.getD 0
  let s1 := { s with fresh := n + 1 }.writeRecords c f r d first vals
  let s2 := if recs = 0 then s1 else s1.spillWrite c f r 0 (bytesOf 8 ((first + recs) % 2 ^ 32)) false
  let s3 := (s2.writeRow l vals).modFibre c f (fun x => { x with sys := { x.sys with
    sprog := BitVec.ofNat 64 (d.ticket.toNat * 2 ^ 32 + (r.row + 1)) } })
  let done : ScrollRun := { r with
    row := r.row + 1, nrec := some (first + recs),
    holes := r.holes + (items.filter (fun i => i.fate == .count)).length,
    holeSeen := r.holeSeen || items.any (fun i => i.atHole || s.sourceHole l i.src),
    status := if d.h ≤ r.row + 1 then some 0 else none }
  (s3.setScrollRun c f (some done)).scrambleSpill c f done

/-- SCROLL_ROW: the engine performs the next row, or finds that it cannot (R140, R144). (DEDUCED: log entry 7) -/
def execScrollRow (core fib : Nat) (s : State) : Out :=
  match s.scrollRun core fib, s.launchOf core (s.fibre core fib).block with
  | some r, some l =>
    let stop (st : Nat) : Out := .next (s.setScrollRun core fib (some { r with status := some st }))
    match r.nrec with
    | none => .next s
    | some nrec =>
      if r.status.isSome || !s.engineRuns core fib then .next s
      else
        match s.rowItems l r.cmd.scroll r.row with
        | none => stop 2
        | some items =>
          if items.any (s.itemAway l) then .next s
          else if r.cmd.scroll.spill &&
              decide (r.capacity < nrec + (items.filter RowItem.isRecord).length) then stop 1
          else .next (s.performRow core fib l r items)
  | _, _ => .next s

/-! ### Ends (R146, R277, R368) -/

/-- Commands of the scroll engine that a fibre has issued and that wait: in its queue, or at nodes. (DEDUCED: log entry 60) -/
def State.laterScrolls (s : State) (c f : Nat) : List Command :=
  Tab.get [] (s.fibre c f).eq.cmds 2 ++
  (s.block c (s.fibre c f).block).nodes.filterMap (fun e =>
    match e.2.state, e.2.cmd with
    | .waiting, some (2, g, cmd) => if g = f then some cmd else none
    | _, _ => none)

/-- Every later `scrl` and `wpool` of the fibre ends with status 6. (DEDUCED: log entry 60) -/
def State.cancelScrolls (s : State) (c f : Nat) : State :=
  let later := s.laterScrolls c f
  let s1 := later.foldl (fun t cmd => t.endCommand c f 2 cmd 6 0) s
  s1.modFibre c f (fun x => { x with eq := { x.eq with cmds := Tab.set [] x.eq.cmds 2 [] } })

/-- The gangs of a fibre that have not ended and are in no long wait, as quads. -/
def Fibre.awakeQuads (x : Fibre) : List Nat :=
  (List.range 16).filter (fun q => !(x.quad q).ended && !(x.quad q).wait.long && !(x.quad q).again)
/-- The gang of a quad: the quads at its address that are as awake as it is (R18). -/
def Fibre.gangOf (x : Fibre) (q : Nat) : QuadMask :=
  quadsOf (fun p => x.awakeQuads.contains p && (x.quad p).pc == (x.quad q).pc &&
    (x.quad p).inClause == (x.quad q).inClause)

/-- The trap 0x0F of a faulting scroll: taken at once by the awake gang with the lowest quad; pending
while every gang is in a long wait, or the fibre does not run. (DEDUCED: log entry 59) -/
def State.raiseScrollTrap (s : State) (c f : Nat) (pc : VAddr) : State :=
  let x := s.fibre c f
  if !x.resident then s
  else
    let s1 := s.setFibre c f { x with scrollTrap := some { pc := pc } }
    match x.awakeQuads.head? with
    | none => s1
    | some q => if x.run = .running then s1.takeScrollTrap c f (x.gangOf q) else s1

/-- A scroll ends with a status. -/
def State.endScroll (s : State) (c f : Nat) (r : ScrollRun) (st : Nat) : State :=
  let s1 := (s.scrambleSpill c f r).setScrollRun c f none
  let s2 := if r.holeSeen then s1.modFibre c f (fun x => x.orChki chkiHole) else s1
  let s3 := s2.endCommand c f 2 r.cmd st r.holes
  if 1 ≤ st ∧ st ≤ 5 then (s3.cancelScrolls c f).raiseScrollTrap c f r.cmd.pc else s3

/-- END_STATUS_DELIVERY: record, flag, `CHKI`, cancelled commands and trap of a scroll that has ended. -/
def execEndStatusDelivery (core fib : Nat) (s : State) : Out :=
  match s.scrollRun core fib with
  | some r =>
    match r.status with
    | some st => .next (s.endScroll core fib r st)
    | none => .next s
  | none => .next s

/-- TORUS_SCROLL_CANCEL: firmware cancels a scroll whose part lies on a device whose launch has ended
(R468). (DESIGN CHOICE: log entry 61) -/
def execTorusScrollCancel (core fib : Nat) (s : State) : Out :=
  match s.scrollRun core fib with
  | some r =>
    if r.status.isSome then .next s
    else .next (s.setScrollRun core fib (some { r with status := some 6 }))
  | none => .next s

/-! ### Acceptance of the other commands (R274, R370) -/

/-- ENGINE_ACCEPT: the engine takes the front command of a fibre's queue, if it can. SCROLL_ACCEPT takes
a `scrl`; the graph engine's commands have had their effect at issue and end. -/
def execEngineAccept (core fib engine : Nat) (s : State) : Out :=
  match s.frontCommand core fib engine with
  | none => .next s
  | some cmd =>
    if !s.engineRuns core fib then .next s
    else
      match engine with
      | 0 => .next (s.matrixAccept core fib cmd)
      | 1 => .next (s.copyAccept core fib cmd)
      | 2 => if cmd.op = 0x139 then .next (s.poolAccept core fib cmd) else .next s
      | _ =>
        .next ((s.modFibre core fib (fun x => x.dropCommand engine)).endCommand core fib 3 cmd 0
          (bitsAt (cmd.word' 0) 0 9))

end Sys2Proof.Machine
end

