-- ==== Sys2Proof/Machine/Privileged.lean ====
section
/-! DEFINITION. Privileged save and restore of tiles and slots (R192 to R194, R374). -/

namespace Sys2Proof.Machine

/-- The issuing fibre runs at level 1 (R374). -/
def State.level1 (s : State) : Bool := s.ofLaunch false (fun l => l.level1)

/-- The checks of R192 after those of the encoding: privilege, bits [63:57], alignment. (DEDUCED: log entries 18, 56) -/
def State.imageCause (s : State) (addr : DWord) : Option (BitVec 8) :=
  if !s.level1 || addr.extractLsb' 57 7 ≠ 0 then some 0x08
  else if addr.toNat % 256 ≠ 0 then some 0x07
  else none

/-- Matrix commands of a core that have not ended: accepted, or in a queue. -/
def CoreState.matrixWork (k : CoreState) : List Command :=
  k.eng.matrix.map (fun a => a.cmd) ++ k.fibres.flatMap (fun e => Tab.get [] e.2.eq.cmds 0)
/-- A command of the core works on a tile. -/
def CoreState.tileBusy (k : CoreState) (t : Nat) : Bool :=
  k.matrixWork.any (fun c => c.tiles.contains t)
/-- A command of the core reads or writes a slot. -/
def CoreState.slotBusy (k : CoreState) (n : Nat) : Bool :=
  (k.matrixWork ++ k.eng.copies.map (fun a => a.cmd) ++
    k.fibres.flatMap (fun e => Tab.get [] e.2.eq.cmds 1)).any
    (fun c => c.reads.contains n || c.writes.contains n)

/-- The writes of bytes to pieces, a granule at a time, with the poison of each. -/
def putsOfBytes : Nat → List Piece → List PByte → List Put
  | 0, _, _ => []
  | _, [], _ => []
  | fuel + 1, p :: rest, bs =>
    let n := min p.len (32 - p.addr % 32)
    let now := bs.take n
    let put : Put := { addr := p.addr, bytes := now.map (fun b => b.1), keep := [],
                       poison := now.any (fun b => b.2) }
    put :: putsOfBytes fuel (if p.len ≤ n then rest else
      { p with addr := p.addr + n, len := p.len - n } :: rest) (bs.drop n)

/-- The bytes of pieces with the poison of their granules. -/
def Memory.pbytesOf (m : Memory) (ps : List Piece) : List PByte :=
  ps.flatMap (fun p => (List.range p.len).map (fun k =>
    (m.byte (p.addr + k), p.por || m.poisoned (p.addr + k))))

/-- Saves an image of the core to memory. -/
def State.saveImage (s : State) (i : Instr) (sa : BitVec 6) (off : DWord) (busy : CoreState → Bool)
    (image : CoreState → List PByte) : State :=
  let c := s.focus.core
  let f := s.focus.fib
  let (a, s1) := s.useScalar sa.toNat
  let addr := a + off
  match s1.imageCause addr with
  | some cause => s1.trap cause 0 i
  | none =>
    if s1.flagFull false || s1.slackFull c f || busy s1.curCore then s.wait .stall
    else
      let bs := image s1.curCore
      match (if s1.isTrail c f then .ok [] else s1.range c s1.curCtx .store addr.toNat bs.length) with
      | .error e => s1.pageFault e.1 e.2 true false s1.gangLanes
      | .ok ps =>
        let w : GlobalWrite :=
          { va := addr.toNat, opSize := 0xFF, poison := bs.any (fun b => b.2),
            data := bs.map (fun b => b.1), puts := putsOfBytes 1024 ps bs, action := .clear, once := none }
        (((s1.placeEntry c f w).watch addr.toNat bs.length false).selectFlag false).retire i

/-- Restores an image of `n` bytes from memory. (DEDUCED: log entry 56) -/
def State.restoreImage (s : State) (i : Instr) (sa : BitVec 6) (off : DWord) (busy : CoreState → Bool)
    (n : Nat) (put : CoreState → List PByte → CoreState) : State :=
  let c := s.focus.core
  let f := s.focus.fib
  let (a, s1) := s.useScalar sa.toNat
  let addr := a + off
  match s1.imageCause addr with
  | some cause => s1.trap cause 0 i
  | none =>
    if s1.flagFull false || busy s1.curCore then s.wait .stall
    else
      match (if s1.isTrail c f then .ok [] else s1.range c s1.curCtx .load addr.toNat n) with
      | .error e => s1.pageFault e.1 e.2 false false s1.gangLanes
      | .ok ps =>
        if s1.onceAhead c f ps then s.wait .stall
        else
          match s1.receive c f .value (fun t => ((t.view c f).pbytesOf ps).map (fun b =>
              ⟨b.1.setWidth 64, b.2⟩)) with
          | none => s.wait .stall
          | some (vs, s2) =>
            let s3 := s2.modCore c (fun k => put k (vs.map (fun v => (v.bits.setWidth 8, v.poison))))
            ((s3.watch addr.toNat n true).selectFlag false).retire i

/-- The image of a tile: entry (m, n) at 4 (64 m + n) (R193). -/
def CoreState.tileImage (k : CoreState) (t : Nat) : List PByte := (k.mem.tileList t).flatMap wordBytes
def CoreState.putTile (k : CoreState) (t : Nat) (bs : List PByte) : CoreState :=
  k.modMem (fun m => m.setTile t (wordsOfBytes bs))
/-- The image of a slot: its 4,352 bytes (R193). -/
def CoreState.slotImage (k : CoreState) (n : Nat) : List PByte := k.mem.slotRun (slotSpace * n) slotSpace
def CoreState.putSlot (k : CoreState) (n : Nat) (bs : List PByte) : CoreState :=
  k.modMem (fun m => m.writeSlot (slotSpace * n) bs)

/-- A block that holds no tiles may not name one (R288); R192's privilege check comes before this one. -/
def State.tileOp (s : State) (i : Instr) (g : State) : Out :=
  if s.holdsTiles || !s.level1 then .next g else .next (s.trap 0x01 0 i)

def execAccsv (f : ScalarImm) (s : State) : Out :=
  let t := f.imm.toNat
  s.tileOp (.accsv f) (s.saveImage (.accsv f) f.sa 0 (fun k => k.tileBusy t) (fun k => k.tileImage t))
def execAccsvLong (f : ScalarLong) (s : State) : Out :=
  let t := f.x.toNat
  s.tileOp (.accsvLong f) (s.saveImage (.accsvLong f) f.sa (f.imm.signExtend 64) (fun k => k.tileBusy t) (fun k => k.tileImage t))
def execAccrs (f : ScalarImm) (s : State) : Out :=
  let t := f.imm.toNat
  s.tileOp (.accrs f) (s.restoreImage (.accrs f) f.sa 0 (fun k => k.tileBusy t) 16384 (fun k bs => k.putTile t bs))
def execAccrsLong (f : ScalarLong) (s : State) : Out :=
  let t := f.x.toNat
  s.tileOp (.accrsLong f) (s.restoreImage (.accrsLong f) f.sa (f.imm.signExtend 64) (fun k => k.tileBusy t) 16384
    (fun k bs => k.putTile t bs))
def execOsv (f : ScalarImm) (s : State) : Out :=
  let n := f.imm.toNat
  .next (s.saveImage (.osv f) f.sa 0 (fun k => k.slotBusy n) (fun k => k.slotImage n))
def execOsvLong (f : ScalarLong) (s : State) : Out :=
  let n := f.x.toNat
  .next (s.saveImage (.osvLong f) f.sa (f.imm.signExtend 64) (fun k => k.slotBusy n) (fun k => k.slotImage n))
def execOrst (f : ScalarImm) (s : State) : Out :=
  let n := f.imm.toNat
  .next (s.restoreImage (.orst f) f.sa 0 (fun k => k.slotBusy n) slotSpace (fun k bs => k.putSlot n bs))
def execOrstLong (f : ScalarLong) (s : State) : Out :=
  let n := f.x.toNat
  .next (s.restoreImage (.orstLong f) f.sa (f.imm.signExtend 64) (fun k => k.slotBusy n) slotSpace
    (fun k bs => k.putSlot n bs))

end Sys2Proof.Machine
end

