-- ==== Sys2Proof/Machine/Control.lean ====
section
/-! DEFINITION. Clause headers, branches, calls, traps, fibre control, extended units and special
registers (R80, R91 to R98, R106 to R112, R167 to R178, R181 to R191). -/

namespace Sys2Proof.Machine

/-! ### Clause headers (R106 to R111) -/

/-- A quad passes a header into its clause: a region starts where RGN = 1 (R111). (DEDUCED: log entry 21) -/
def Quad.enterClause (y : Quad) (h : ClauseHeader) : Quad :=
  let body := nextPc y.pc 1
  let z := { y with
    pc := body, inClause := true, header := y.pc, clauseEnd := nextPc y.pc (1 + h.len.toNat),
    seta := h.seta, setb := h.setb, first := true, tail := false, mustRgn := false }
  if h.rgn then { z with region := y.pc, regionActive := y.active, regionStack := y.stack } else z

/-- The gang passes its header; with WAIT = 0 the first instruction of the clause issues in the same
cycle (R106). -/
def State.passHeader (s : State) (h : ClauseHeader) : State :=
  let s1 := s.modCur (fun x => x.modQuads s.focus.quads (fun _ y => y.enterClause h))
  if h.wait = 0 then { s1 with granted := s1.focus :: s1.granted } else s1
/-- The WAIT test of a clause header: a failed test stalls (R106, R108). A copy of a pair may wait at a
region start (R443). -/
def execClauseWaitTest (h : ClauseHeader) (s : State) : Out :=
  if !s.cur.flagsClear h.wait then .next (s.wait .stall)
  else if h.rgn && !s.isAlone s.focus.core s.focus.fib then
    match s.startTest s.focus.core s.focus.fib with
    | .pass s1 => .next ((s1.modCur Fibre.countStart).passHeader h)
    | .hold => .next (s.wait .checkpoint)
  else .next (s.passHeader h)

/-! ### Control transfers (R110, R167 to R174) -/

/-- The address a number of parcels away (R121). -/
def offsetPc (pc : VAddr) (parcels : Int) : VAddr := pc + BitVec.ofInt 57 (4 * parcels)

/-- What stands at a target. -/
inductive Target where
  | header
  | notHeader
  | fault (va reason : Nat)
  | poisoned
  deriving DecidableEq, Repr

/-- Looks at the parcel of a target (R110). (DEDUCED: log entry 15) -/
def State.targetAt (s : State) (a : VAddr) : Target :=
  match s.fetchParcels s.focus.core s.curCtx a 1 with
  | .fault va r => .fault va r
  | .poisoned => .poisoned
  | .parcels ps => if isHeader (ps.headD 0) then .header else .notHeader

/-- The parcel at an address is the `regang` that follows a header (R168). -/
def State.regangAt (s : State) (a : VAddr) : Target :=
  match s.fetchParcels s.focus.core s.curCtx a 2 with
  | .fault va r => .fault va r
  | .poisoned => .poisoned
  | .parcels ps => if isHeader (ps.headD 0) && decode (ps.drop 1) == .instr .regang then .header else .notHeader

/-- Goes on where the target is a header; traps 0x01, or takes the fault of its fetch, at the
transfer (R110). (DEDUCED: log entry 15) -/
def State.withTarget (s : State) (i : Instr) (t : Target) (k : State → State) : State :=
  match t with
  | .header => k s
  | .notHeader => s.trap 0x01 0 i
  | .fault va r => s.pageFault va r false true s.gangLanes
  | .poisoned => s.abortControl s.focus.core s.focus.fib 1 0xE001 s.pc

/-- Moves the gang to a target. -/
def State.jump (s : State) (target : VAddr) : State :=
  s.modCur (fun x => x.modQuads s.focus.quads (fun _ y => y.jump target))

/-- A transfer of the gang to a target that must be a header. (DEDUCED: log entry 15) -/
def State.transfer (s : State) (i : Instr) (target : VAddr) (before : State → State) : State :=
  s.withTarget i (s.targetAt target) (fun s1 => (before s1).jump target)

def execBr (f : ScalarImm) (s : State) : Out :=
  .next (s.transfer (.br f) (offsetPc s.pc f.imm.toInt) id)
def execBrLong (f : ScalarLong) (s : State) : Out :=
  .next (s.transfer (.brLong f) (offsetPc s.pc f.imm.toInt) id)

/-- The conditions of `brs` (R167). -/
def brsTaken (cc : Nat) (a : DWord) : Bool :=
  match cc with
  | 0 => a == 0
  | 1 => a != 0
  | 2 => decide (a.toInt < 0)
  | 3 => decide (0 ≤ a.toInt)
  | 4 => decide (a.toInt ≤ 0)
  | _ => decide (0 < a.toInt)
def State.branchIf (s : State) (i : Instr) (sd sa : BitVec 6) (off : Int) : State :=
  let (a, s1) := s.useScalar sa.toNat
  if brsTaken sd.toNat a then s1.transfer i (offsetPc s.pc off) id else s1.retire i
def execBrs (f : ScalarImm) (s : State) : Out := .next (s.branchIf (.brs f) f.sd f.sa f.imm.toInt)
def execBrsLong (f : ScalarLong) (s : State) : Out :=
  .next (s.branchIf (.brsLong f) f.sd f.sa f.imm.toInt)

/-- `brv` for one quad (R169). -/
def Quad.branchVector (y : Quad) (live taken : LaneMask) (members : QuadMask) (join fall target : VAddr) :
    Quad :=
  let a := y.active &&& live
  let t := a &&& taken
  let g := a &&& ~~~taken
  let r : Recon := { point := join, fall := fall, members := members, mask := a, pend := 0 }
  if g = 0 then { y.jump target with active := a, stack := r :: y.stack }
  else if t = 0 then { y.jump fall with active := a, stack := r :: y.stack }
  else { y.jump target with active := t, stack := { r with pend := g } :: y.stack }

def execBrv (f : ScalarLong) (s : State) : Out :=
  let i : Instr := .brv f
  let target := offsetPc s.pc f.imm.toInt
  let join := offsetPc s.pc f.x.toInt
  let fall := nextPc s.pc 2
  let p := s.cur.pred (f.sa.toNat % 16)
  let taken := if f.sa.getLsbD 4 then ~~~p else p
  .next (s.withTarget i (s.targetAt target) (fun s1 => s1.withTarget i (s1.regangAt join) (fun s2 =>
    s2.modCur (fun x => x.modQuads s2.focus.quads (fun _ y =>
      y.branchVector (~~~x.sys.dead) taken s2.focus.quads join fall target)))))

/-- `regang` for one quad: nothing to rejoin, lanes still to run the fall-through path, or an arrival
(R170). -/
def Quad.regang (y : Quad) (dead : LaneMask) : Quad :=
  match y.stack with
  | [] => y.advance (nextPc y.pc 1) false
  | r :: rest =>
    if r.point ≠ y.header then y.advance (nextPc y.pc 1) false
    else if r.pend ≠ 0 then
      { y.jump r.fall with active := r.pend &&& ~~~dead, stack := { r with pend := 0 } :: rest }
    else { y with wait := .regang }
def execRegang (s : State) : Out :=
  .next ((s.modCur (fun x => x.modQuads s.focus.quads (fun _ y => y.regang x.sys.dead))).settle
    s.focus.core s.focus.fib)

def execCall (f : ScalarImm) (s : State) : Out :=
  .next (s.transfer (.call f) (offsetPc s.pc f.imm.toInt) (fun s1 =>
    s1.modCur (fun x => x.setScalar f.sd.toNat (PX.clean ((nextPc s.pc 1).setWidth 64)))))
def execCallLong (f : ScalarLong) (s : State) : Out :=
  .next (s.transfer (.callLong f) (offsetPc s.pc f.imm.toInt) (fun s1 =>
    s1.modCur (fun x => x.setScalar f.sd.toNat (PX.clean ((nextPc s.pc 2).setWidth 64)))))

/-- A transfer to the address in a register: 0x08, then 0x07, then 0x01 (R172). -/
def State.jumpRegister (s : State) (i : Instr) (sa : BitVec 6) : State :=
  let (a, s1) := s.useScalar sa.toNat
  if a.extractLsb' 57 7 ≠ 0 then s1.trap 0x08 0 i
  else if a.extractLsb' 0 2 ≠ 0 then s1.trap 0x07 0 i
  else s1.transfer i (a.setWidth 57) id
def execRet (f : ScalarReg) (s : State) : Out := .next (s.jumpRegister (.ret f) f.sa)
def execJmpr (f : ScalarReg) (s : State) : Out := .next (s.jumpRegister (.jmpr f) f.sa)

/-- `loop` (R173). -/
def State.loopBack (s : State) (i : Instr) (sd : BitVec 6) (off : Int) : State :=
  let (c, s1) := s.useScalar sd.toNat
  let dec (s : State) : State := s.modCur (fun x => x.setScalar sd.toNat (PX.clean (c - 1)))
  if c - 1 ≠ 0 then s1.transfer i (offsetPc s.pc off) dec else (dec s1).retire i
def execLoop (f : ScalarImm) (s : State) : Out := .next (s.loopBack (.loop f) f.sd f.imm.toInt)
def execLoopLong (f : ScalarLong) (s : State) : Out := .next (s.loopBack (.loopLong f) f.sd f.imm.toInt)

/-- `exit`: the active lanes of the gang end; inside a handler the whole fibre ends (R174). -/
def State.exitGang (s : State) : State :=
  let c := s.focus.core
  let f := s.focus.fib
  if s.cur.handler.isSome then s.endFibre c f
  else (s.modCur (fun x => x.modQuads s.focus.quads (fun _ y => y.exit))).settle c f

/-- Every entry of a pair has matched, and every value owed has been delivered (R459). -/
def State.pairSettled (s : State) (p : Nat) : Bool :=
  let q := s.pair p
  let noneOwed (k : Nat × Nat) : Bool :=
    (s.core k.1).fibres.all (fun e => e.2.block != k.2 || e.2.owed.isEmpty)
  q.leadBuf.isEmpty && q.trailBuf.isEmpty && q.lvq.isEmpty && noneOwed q.lead && noneOwed q.trail

/-- The pair of a fibre, if it is in one. -/
def Side.pair? : Side → Option Nat
  | .alone => none
  | .lead p => some p
  | .trail p => some p

/-- `exit` (R174); a copy of a pair is held at it while its pair is not settled (R459). -/
def execExit (s : State) : Out :=
  match (s.side s.focus.core s.focus.fib).pair? with
  | some p => if s.pairSettled p then .next s.exitGang else .next (s.wait .heldExit)
  | none => .next s.exitGang

/-- HELD_EXIT: the held exits of a fibre take effect once its pair is settled (R459). (DEDUCED: log entry 35) -/
def execHeldExit (core fib : Nat) (s : State) : Out :=
  match (s.side core fib).pair? with
  | none => .next s
  | some p =>
    let held := quadsOf (fun q => ((s.fibre core fib).quad q).wait == .heldExit)
    if held = 0 ∨ !s.pairSettled p then .next s
    else
      let s1 := { s with focus := ⟨core, fib, held⟩ }
      .next { (s1.wait .none).exitGang with focus := s.focus }

def execNop (s : State) : Out := .next (s.retire .nop)

/-! ### Traps (R176 to R178) -/

def execTrap (f : ScalarImm) (s : State) : Out := .next (s.trap 0x12 s.gangLanes (.trap f))

/-- `brk`: the debugger, else the handler of entry 0x11, else nothing (R177, R354, R383). -/
def execBrk (f : ScalarImm) (s : State) : Out :=
  let i : Instr := .brk f
  if s.attached s.focus.core s.focus.fib then
    .next ((s.retire i).stopFibre s.focus.core s.focus.fib 0 s.pc s.gangLanes)
  else if s.cur.handler.isNone && s.ofLaunch false (fun l => (Tab.get 0 l.traps 0x11).getLsbD 63) then
    .next (s.trap 0x11 s.gangLanes i)
  else .next (s.retire i)

/-- `tret` (R178). -/
def execTret (s : State) : Out :=
  if s.cur.handler.isNone then .next (s.trap 0x01 0 .tret)
  else .next ((s.wait .tret).settle s.focus.core s.focus.fib)

/-! ### Fibres and flags (R182 to R184) -/

/-- A fibre could issue if it were current (R33). -/
def CoreState.ready (k : CoreState) (f : Nat) : Bool :=
  let x := k.fibre f
  x.run == .running && (k.block x.block).issues x.handler.isSome &&
  x.quads.any (fun e => !e.2.ended && e.2.wait == .none &&
    (match x.handler with
     | some h => h.quads.getLsbD e.1
     | none => true))

/-- The next ready fibre of the slot, cyclically (R31). -/
def CoreState.nextReady (k : CoreState) (slot cur : Nat) : Option Nat :=
  [1, 2, 3].findSome? (fun d =>
    let g := (cur + d) % 4
    if k.ready (4 * slot + g) then some g else none)

/-- The slot of a fibre switches, where another fibre of it is ready (R31). -/
def State.requestSwitch (s : State) (c slot : Nat) : State :=
  let k := s.core c
  let z := k.slot slot
  match k.nextReady slot z.current with
  | some g => s.setSlot c slot { z with switchTo := some g }
  | none => s

def execFsw (s : State) : Out :=
  .next ((s.retire .fsw).requestSwitch s.focus.core s.curSlotNo)

def execFbar (s : State) : Out :=
  let s1 := (s.wait .fbar).modCur (fun x => { x with fbarArrived := true })
  .next (s1.modCore s.focus.core (fun k => k.settleFbar s.curSlotNo))

def execFwait (f : ScalarImm) (s : State) : Out :=
  if s.cur.flagsClear f.imm then .next (s.retire (.fwait f)) else .next (s.wait (.flags f.imm))

/-! ### Extended units (R81, R185 to R188) -/

/-- First unit and count of `xacq` and `xrel`, and their mask (R185). -/
def unitRange (imm : BitVec 12) : Nat × Nat × BitVec 12 :=
  let first := (imm.extractLsb' 8 4).toNat
  let count := (imm.extractLsb' 0 4).toNat
  (first, count, BitVec.ofNat 12 ((2 ^ count - 1) * 2 ^ first))
/-- The units of a block's shared window (R35). -/
def Block.windowUnits (b : Block) : BitVec 12 :=
  BitVec.ofNat 12 ((2 ^ b.winCnt - 1) * 2 ^ b.winBase)
/-- Free units of a core's extended pool (R82, R186, R394). -/
def CoreState.freeUnits (k : CoreState) : Nat :=
  64 - (k.fibres.foldl (fun n e => if e.2.resident then n + popCount 12 e.2.regs.units.toNat else n) 0 +
    k.slots.foldl (fun n e => if e.2.bound then n + (k.block e.2.block).winCnt else n) 0)

/-- Drops the contents of the registers of some units. -/
def RegFile.dropUnits (r : RegFile) (m : BitVec 12) : RegFile :=
  { r with v := r.v.filter (fun e => decide (e.1 / 64 < 48) || !m.getLsbD ((e.1 / 64 - 48) / 16)) }
/-- Units are granted: their registers read 0, the predicate is true in every live lane (R81, R186). -/
def Fibre.grantUnits (x : Fibre) (m : BitVec 12) (p : Nat) : Fibre :=
  ({ x with regs := { x.regs.dropUnits m with units := x.regs.units ||| m } }).setPred p x.live
    (BitVec.allOnes 64)

def execXacq (f : ScalarImm) (s : State) : Out :=
  let i : Instr := .xacq f
  let x := s.cur
  let (first, count, m) := unitRange f.imm
  let held := x.regs.units &&& m
  if m &&& s.curBlock.windowUnits ≠ 0 ∨ (held ≠ 0 ∧ held ≠ m) then .next (s.trap 0x01 0 i)
  else if held = m then
    .next ((s.modCur (fun y => y.setPred f.sd.toNat y.live (BitVec.allOnes 64))).retire i)
  else if count ≤ s.curCore.freeUnits then
    .next ((s.modCur (fun y => y.grantUnits m f.sd.toNat)).retire i)
  else
    let n := s.curCore.xacqOrder
    .next ((s.wait (.xacq first count f.sd.toNat n)).modCore s.focus.core
      (fun k => { k with xacqOrder := n + 1 }))

def execXrel (f : ScalarImm) (s : State) : Out :=
  let (_, _, m) := unitRange f.imm
  if m &&& s.curBlock.windowUnits ≠ 0 then .next (s.trap 0x01 0 (.xrel f))
  else
    .next ((s.modCur (fun x => { x with
      regs := { x.regs.dropUnits (m &&& x.regs.units) with units := x.regs.units &&& ~~~m } })).retire
        (.xrel f))

/-- A blocked `xacq` completes: granted or failed (R186, R187). -/
def State.endXacq (s : State) (c f : Nat) (ok : Bool) : State :=
  s.modFibre c f (fun x =>
    (quadsIn (BitVec.allOnes 16)).foldl (fun x q =>
      match (x.quad q).wait with
      | .xacq first count p _ =>
        let m := BitVec.ofNat 12 ((2 ^ count - 1) * 2 ^ first)
        let y := if ok then x.grantUnits m p else x.setPred p x.live 0
        y.setQuad q { (y.quad q).advance (nextPc (y.quad q).pc 1) false with wait := .none }
      | _ => x) x)

/-- Blocked `xacq`s of a core: order, fibre, count (R186). -/
def CoreState.blockedXacqs (k : CoreState) : List (Nat × Nat × Nat) :=
  k.fibres.flatMap (fun e =>
    if !e.2.resident then [] else
    (quadsIn (BitVec.allOnes 16)).filterMap (fun q =>
      match (e.2.quad q).wait with
      | .xacq _ count _ n => some (n, e.1, count)
      | _ => none))

/-- The least element by a key. -/
def leastBy {α : Type} (key : α → Nat) : List α → Option α
  | [] => none
  | x :: rest =>
    match leastBy key rest with
    | some y => if key x ≤ key y then some x else some y
    | none => some x

/-- Every resident fibre is in a long wait or frozen (R187). -/
def CoreState.starved (k : CoreState) : Bool :=
  k.fibres.all (fun e =>
    !e.2.resident || (match e.2.run with
      | .frozen _ => true
      | .stopped => true
      | _ => e.2.quads.all (fun q => q.2.ended || q.2.wait.long)))

/-- XACQ_GRANT: the first request that can be met is granted; in starvation the most recent fails
(R186, R187). -/
def State.grantXacq (s : State) (c : Nat) : State :=
  let k := s.core c
  let reqs := k.blockedXacqs
  match leastBy (fun r => r.1) (reqs.filter (fun r => decide (r.2.2 ≤ k.freeUnits))) with
  | some r => s.endXacq c r.2.1 true
  | none =>
    if k.starved then
      match leastBy (fun r => k.xacqOrder - r.1) reqs with
      | some r => s.endXacq c r.2.1 false
      | none => s
    else s
def execXacqGrant (core : Nat) (s : State) : Out := .next (s.grantXacq core)

/-! ### Special registers (R91 to R98, R189 to R191) -/

/-- `chkerr` waits until every earlier lane instruction has recorded its bits (R94, R189). -/
def execChkerr (f : ScalarImm) (s : State) : Out :=
  if !s.cur.lq.q12.isEmpty then .next (s.wait .stall)
  else if s.cur.sys.chki &&& f.imm.setWidth 32 ≠ 0 then .next (s.trap 0x0E 0 (.chkerr f))
  else .next (s.retire (.chkerr f))

/-- `TIME`, which a lead forwards to its trail (R92, R190, R439). -/
def State.readTime (s : State) (i : Instr) (sd : BitVec 6) : State :=
  match s.receive s.focus.core s.focus.fib .value (fun t => [PX.clean t.time]) with
  | none => s.wait .stall
  | some (vs, s1) => s1.putScalar i sd (vs.getD 0 PX.zero).bits
def execTime (f : ScalarImm) (s : State) : Out := .next (s.readTime (.time f) f.sd)

/-- `ORIENT` of a die: bits written by firmware at bring-up (R427). -/
def State.orient (s : State) (c : Nat) : DWord := if s.rot.phase = .off then 0 else orientOf (dieOf c)

/-- The logical core that `CORE` reads (R92, R364). -/
def Block.coreWord (b : Block) : Nat := b.cy % 256 * 256 + b.cx % 256

/-- The block is run for an ascent (R364, R365). -/
def Block.forAscent (b : Block) : Bool :=
  match b.role with
  | .compensation _ _ _ => true
  | .owner _ => true
  | _ => false

/-- A special register, by its selector (R91). -/
def State.special (s : State) (n : Nat) : Nat :=
  let x := s.cur
  let b := s.curBlock
  match n with
  | 0x000 => Config.width
  | 0x001 => Config.arrayW
  | 0x002 => Config.arrayH
  | 0x003 => x.index
  | 0x004 => x.bslot
  | 0x005 => b.bx
  | 0x006 => b.by'
  | 0x007 => s.ofLaunch 0 Launch.gridW
  | 0x008 => s.ofLaunch 0 Launch.gridH
  | 0x009 => b.coreWord
  | 0x00A => b.cy % 256 / 2 * 256 + b.cx % 256 / 2
  | 0x00B => dieOf s.focus.core
  | 0x00C => s.device.toNat
  | 0x00D => s.ofLaunch 0 s.planeW
  | 0x00E => s.ofLaunch 0 s.planeH
  | 0x00F => b.pdepth
  | 0x010 => b.scrb
  | 0x011 => s.curCore.holes.toNat
  | 0x012 => x.sys.dead.toNat
  | 0x013 => x.sys.chki.toNat
  | 0x014 => x.sys.satc.toNat
  | 0x015 => x.sys.sprog.toNat
  | 0x016 => s.time.toNat
  | 0x017 => x.sys.arrivals.toNat
  | 0x018 =>
    match lowestLane s.gangLanes with
    | some i => (Tab.get 0 x.sys.rseed i).toNat
    | none => 0
  | 0x019 => x.sys.trapCause.toNat
  | 0x01A => x.sys.trapPc.toNat
  | 0x01B => x.sys.trapLanes.toNat
  | 0x01C => Config.ext0.toNat
  | 0x01D => Config.ext1.toNat
  | 0x01E => Config.ext2.toNat
  | 0x01F => Config.ext3.toNat
  | _ => (s.orient s.focus.core).toNat

def execMfs (f : ScalarImm) (s : State) : Out :=
  let i : Instr := .mfs f
  let n := f.imm.toNat
  if n = 0x016 then .next (s.readTime i f.sd)
  else .next (s.putScalar i f.sd (BitVec.ofNat 64 (s.special n)))

/-- `mts RSEED` sets the lane's seed (R98). -/
def seedFor (a : DWord) (i : Nat) : Word := a.setWidth 32 ^^^ BitVec.ofNat 32 (i * 0x9E3779B9)

def execMts (f : ScalarImm) (s : State) : Out :=
  let i : Instr := .mts f
  let n := f.imm.toNat
  if n = 0x013 ∧ !s.cur.lq.q12.isEmpty then .next (s.wait .stall)
  else if n = 0x013 ∨ n = 0x014 ∨ n = 0x018 then
    let (a, s1) := s.useScalar f.sa.toNat
    let s2 :=
      if n = 0x013 then s1.modCur (fun x => { x with sys := { x.sys with chki := a.setWidth 32 &&& 0x7FF } })
      else if n = 0x014 then s1.modCur (fun x => { x with sys := { x.sys with satc := a.setWidth 32 } })
      else
        let seeds := (lanesIn s1.gangLanes).map (fun l => (l, seedFor a l))
        s1.modCur (fun x => { x with sys := { x.sys with rseed := Tab.setAll 0 x.sys.rseed seeds } })
    .next (s2.retire i)
  else .next (s.trap 0x08 0 i)

end Sys2Proof.Machine
end

