-- ==== Sys2Proof/Machine/Sync.lean ====
section
/-! DEFINITION. Fences, named barriers, monitors, remote register writes, arrivals and queues (R239,
R254, R256 to R268). -/

namespace Sys2Proof.Machine

/-! ### Fences (R254, R255) -/

/-- Accesses are performed in issue order, so that a fence has nothing to hold back (R254). (DESIGN CHOICE: log entry 3) -/
def execFence (f : LaneFields) (s : State) : Out := .next (s.retire (.fence f))

/-! ### Named barriers (R256 to R260) -/

/-- The barrier that a scalar names, of the issuing block. -/
def State.curBarrier (s : State) (n : Nat) : Barrier := s.curCore.barrier s.curBlock.scrb n
def State.setCurBarrier (s : State) (n : Nat) (b : Barrier) : State :=
  s.modCore s.focus.core (fun k => k.setBarrier s.curBlock.scrb n b)
/-- An instruction acts on its block's barrier, unless the object is lost (R433). -/
def State.onBarrier (s : State) (n : Nat) (g : Barrier → Out) : Out :=
  if s.curCore.barrierLost s.curBlock.scrb n then
    .next (s.abortControl s.focus.core s.focus.fib 2 0xE002 s.pc)
  else g (s.curBarrier n)
/-- Fibres of a block (R256). -/
def Block.fibreCount (b : Block) : Nat := b.slots * b.fibres

/-- `arrive()` with the expected count `e` (R257). -/
def Barrier.arrive (b : Barrier) (e : Nat) : Barrier :=
  let expect := if b.arrived = 0 ∧ e ≠ 0 then e else b.expect
  if expect ≤ b.arrived + 1 then { waiters := 0, phase := !b.phase, expect := expect, arrived := 0 }
  else { b with expect := expect, arrived := b.arrived + 1 }
/-- A fibre waits on the barrier. -/
def Barrier.waitFor (b : Barrier) (rel : Nat) : Barrier :=
  { b with waiters := b.waiters ||| BitVec.ofNat 64 (2 ^ (rel % 64)) }

/-- `bari` of an unarmed barrier: the phase is kept (R257). -/
def Barrier.set (b : Barrier) (e : Nat) : Barrier :=
  { waiters := 0, phase := b.phase, expect := e, arrived := 0 }

def execBara (f : LaneFields) (s : State) : Out :=
  let (a, s1) := s.useScalar f.va.toNat
  let (e, s2) := s1.useScalar f.vb.toNat
  let n := a.toNat % 16
  s2.onBarrier n (fun b =>
    let s3 := s2.setCurBarrier n (b.arrive (e.toNat % 128))
    .next ((s3.modCur (fun x => x.setScalar f.vd.toNat
      (PX.clean (if b.phase then 1 else 0)))).retire (.bara f)))

def execBars (f : LaneFields) (s : State) : Out :=
  let (a, s1) := s.useScalar f.va.toNat
  let (e, s2) := s1.useScalar f.vb.toNat
  let n := a.toNat % 16
  s2.onBarrier n (fun b =>
    let b1 := b.arrive (e.toNat % 128)
    if b1.phase = b.phase then
      .next ((s2.setCurBarrier n (b1.waitFor s.cur.relative)).wait (.barrier n b.phase))
    else .next ((s2.setCurBarrier n b1).retire (.bars f)))

def execBarw (f : LaneFields) (s : State) : Out :=
  let (a, s1) := s.useScalar f.va.toNat
  let (t, s2) := s1.useScalar f.vb.toNat
  let n := a.toNat % 16
  s2.onBarrier n (fun b =>
    if b.phase = t.getLsbD 0 then
      .next ((s2.setCurBarrier n (b.waitFor s.cur.relative)).wait (.barrier n (t.getLsbD 0)))
    else .next (s2.retire (.barw f)))

def execBari (f : LaneFields) (s : State) : Out :=
  let (a, s1) := s.useScalar f.va.toNat
  let (e, s2) := s1.useScalar f.vb.toNat
  let n := a.toNat % 16
  let count := e.toNat % 128
  s2.onBarrier n (fun b =>
    if b.armed then .next (s2.trap 0x0A 0 (.bari f))
    else
      .next ((s2.setCurBarrier n (b.set (if count = 0 then s2.curBlock.fibreCount else count))).retire
        (.bari f)))

/-- A waiting quad may return: the phase has flipped, or its fibre no longer counts as waiting (R257,
R273). (DEDUCED: log entry 30) -/
def State.barrierOpen (s : State) (c f n : Nat) (phase : Bool) : Bool :=
  let x := s.fibre c f
  let b := (s.core c).barrier (s.block c x.block).scrb n
  b.phase != phase || !b.waiters.getLsbD (x.relative % 64)

/-! ### Monitors (R261, R262) -/

/-- A virtual address has bits [63:57] set (R248). -/
def badAddress (a : DWord) : Bool := a.extractLsb' 57 7 != 0

/-- A line that no write reaches: the monitor of a trail, which reads nothing (R439). -/
abbrev noLine : Nat := 2 ^ 52

def execMarm (f : LaneFields) (s : State) : Out :=
  let i : Instr := .marm f
  let (a, s1) := s.useScalar f.va.toNat
  let arm (line : Nat) : State :=
    let m : Monitor := { line := line, scope := f.m1.toNat, written := false, triggered := false }
    (s1.modCur (fun x => { x with monitor := some m })).retire i
  if badAddress a then .next (s1.trap 0x08 0 i)
  else if s1.isTrail s.focus.core s.focus.fib then .next (arm noLine)
  else
    match s1.translate s.focus.core s1.curCtx a.toNat .load with
    | .error r => .next (s1.pageFault a.toNat r false false s1.gangLanes)
    | .ok l => .next (arm (l.addr / 128))

/-- Quads of a fibre whose instruction of three parcels has waited and is done: they go on (R111). -/
def Fibre.finishWait (x : Fibre) (p : Wait → Bool) : Fibre :=
  x.modQuads (BitVec.allOnes 16) (fun _ y =>
    if p y.wait then { y.advance (nextPc y.pc 3) true with wait := .none } else y)
def Wait.isMwait : Wait → Bool
  | .mwait _ _ _ => true
  | _ => false
/-- The register that a waiting `mwait` writes, with its timeout and its start. -/
def Fibre.mwaiting (x : Fibre) : Option (Nat × Nat × Nat) :=
  x.quads.findSome? (fun e =>
    match e.2.wait with
    | .mwait sd t since => some (sd, t, since)
    | _ => none)

/-- A waiting `mwait` returns a value; its monitor is disarmed. A lead forwards it (R439). -/
def State.finishMwait (s : State) (c f : Nat) (v : Nat) : State :=
  match (s.fibre c f).mwaiting with
  | none => s
  | some (sd, _, _) =>
    match s.receive c f .value (fun _ => [PX.clean (BitVec.ofNat 64 v)]) with
    | none => s
    | some (vs, s1) =>
      s1.modFibre c f (fun x =>
        { (x.setScalar sd (vs.getD 0 PX.zero)).finishWait Wait.isMwait with monitor := none })

def execMwait (f : LaneFields) (s : State) : Out :=
  let i : Instr := .mwait f
  let c := s.focus.core
  let (t, s1) := s.useScalar f.va.toNat
  let done (v : PX) (s2 : State) : State :=
    (s2.modCur (fun x => { x.setScalar f.vd.toNat v with monitor := none })).retire i
  if s1.isTrail c s.focus.fib then
    match s1.receive c s.focus.fib .value (fun _ => []) with
    | none => .next (s.wait .stall)
    | some (vs, s2) => .next (done (vs.getD 0 PX.zero) s2)
  else if (match s1.cur.monitor with
      | some m => m.triggered || m.written
      | none => true) then
    match s1.receive c s.focus.fib .value (fun _ => [PX.clean 1]) with
    | none => .next (s.wait .stall)
    | some (vs, s2) => .next (done (vs.getD 0 PX.zero) s2)
  else .next (s1.wait (.mwait f.vd.toNat t.toNat s1.time.toNat))

/-- MONITOR_TRIGGER: a written line triggers the monitor, and a waiting `mwait` returns 1. (DEDUCED: log entry 31) -/
def execMonitorTrigger (core fib : Nat) (s : State) : Out :=
  let x := s.fibre core fib
  match x.monitor with
  | some m =>
    if m.written then
      .next ((s.setFibre core fib { x with monitor := some { m with triggered := true } }).finishMwait
        core fib 1)
    else .next s
  | none => .next s

/-- MWAIT_TIMEOUT: a waiting `mwait` with a timeout that has passed returns 0. -/
def execMwaitTimeout (core fib : Nat) (s : State) : Out :=
  match (s.fibre core fib).mwaiting with
  | some (_, t, since) =>
    if t ≠ 0 ∧ t ≤ s.time.toNat - since then .next (s.finishMwait core fib 0) else .next s
  | none => .next s

/-! ### Remote register writes and arrivals (R263 to R265) -/

/-- The fibre of a resident block by slot and index within the block. -/
def CoreState.fibreAt (k : CoreState) (b slot index : Nat) : Option Nat :=
  (k.fibres.find? (fun e => e.2.block == b && e.2.bslot == slot && e.2.index == index &&
    e.2.resident)).map (fun e => e.1)

/-- The logical core that the target word of an `rwr` names (R263). -/
def rwrCore (b : Block) (w : DWord) : Nat × Nat :=
  (2 * (b.cx / 2) + bitsAt w.toNat 0 1, 2 * (b.cy / 2) + bitsAt w.toNat 1 1)

/-- What the check of an `rwr` finds (R263). -/
inductive RwrCheck where
  | invalid
  /-- The target's block is away: the check waits (R407). -/
  | away
  | ok
  deriving DecidableEq, Repr
def State.checkRwr (s : State) (w : DWord) : RwrCheck :=
  match s.curLaunch with
  | none => .invalid
  | some l =>
    let (cx, cy) := rwrCore s.curBlock w
    let reg := 224 + bitsAt w.toNat 8 4
    if w.extractLsb' 12 52 ≠ 0 ∨ l.depth = 0 ∨ l.gridW ≤ cx ∨ l.gridH ≤ cy then .invalid
    else
      match s.planeCore l.part l.lid cx cy with
      | none => .away
      | some (c, b) =>
        match (s.core c).fibreAt b (bitsAt w.toNat 2 4) (bitsAt w.toNat 6 2) with
        | none => .invalid
        | some f =>
          if (s.fibre c f).regs.units.getLsbD 11 || (s.block c b).inWindow reg then .ok else .invalid

def execRwr (f : LaneFields) (s : State) : Out :=
  let i : Instr := .rwr f
  let sh := Shape.rwr
  .next (s.accessFrame i f sh (fun _ _ => false) (fun s1 x =>
    let (w, s2) := s1.useScalar f.vb.toNat
    match s2.checkRwr w with
    | .invalid => s2.trap 0x0B x.part i
    | .away => s.wait .stall
    | .ok =>
      let part := x.part &&& ~~~s2.cur.sys.dead
      let (cx, cy) := rwrCore s2.curBlock w
      let r : RemoteWrite :=
        { sender := (s.focus.core, s.focus.fib), part := s2.curBlock.part, lid := s2.curBlock.lid,
          cx := cx, cy := cy, bslot := bitsAt w.toNat 2 4, index := bitsAt w.toNat 6 2,
          reg := 224 + bitsAt w.toNat 8 4, lanes := part, vals := allLanes.map x.a }
      let s3 := if part = 0 then s2 else { s2 with rwrs := s2.rwrs ++ [r] }
      s3.finishAccess i f sh part []))

/-- Two remote writes of one sender to one target (R264). -/
def RemoteWrite.sameWay (a b : RemoteWrite) : Bool :=
  a.sender == b.sender && a.part == b.part && a.lid == b.lid && a.cx == b.cx && a.cy == b.cy &&
  a.bslot == b.bslot && a.index == b.index

/-- A remote write lands in its target, or finds that it has exited (R264). -/
def State.land (s : State) (r : RemoteWrite) : State :=
  match s.planeCore r.part r.lid r.cx r.cy with
  | none => s
  | some (c, b) =>
    match (s.core c).fibreAt b r.bslot r.index with
    | none => s
    | some f =>
      let x := s.fibre c f
      let hit := lanesIn (r.lanes &&& x.live)
      let s1 := s.setLanesOf c f r.reg (hit.map (fun l =>
        (l, ⟨(r.vals.at l).bits.setWidth 32, (r.vals.at l).poison⟩)))
      s1.modFibre c f (fun y => { y with sys := { y.sys with
        arrivals := BitVec.ofNat 16 (min 0xFFFF (y.sys.arrivals.toNat + 1)) } })

/-- The launch of a remote write still has a block that may come back (R407). -/
def State.targetAway (s : State) (r : RemoteWrite) : Bool :=
  (s.planeCore r.part r.lid r.cx r.cy).isNone &&
  (match s.launch? r.part r.lid with
   | some l => l.stage == .running && l.ending.isNone
   | none => false)

/-- RWR_DELIVERY: the remote write at an index lands, unless an earlier one goes the same way. (DEDUCED: log entry 27) -/
def execRwrDelivery (index : Nat) (s : State) : Out :=
  match s.rwrs[index]? with
  | none => .next s
  | some r =>
    if (s.rwrs.take index).any r.sameWay || s.targetAway r then .next s
    else .next ({ s with rwrs := s.rwrs.eraseIdx index }.land r)

def execAwait (f : LaneFields) (s : State) : Out :=
  let (a, s1) := s.useScalar f.va.toNat
  let n := a.toNat % 65536
  if n ≤ s1.cur.sys.arrivals.toNat then .next (s1.retire (.await f)) else .next (s1.wait (.arrivals n))

def execArrc (f : LaneFields) (s : State) : Out :=
  let n := s.cur.sys.arrivals
  .next ((s.modCur (fun x => { x with sys := { x.sys with arrivals := 0 } }.setScalar f.vd.toNat
    (PX.clean (n.setWidth 64)))).retire (.arrc f))

/-! ### Queues (R266 to R268) -/

/-- The queue that VA or VD names. -/
def queueOf (n : BitVec 8) : Nat := n.toNat - 240

/-- `qtry` (R266). -/
def execQtry (f : LaneFields) (s : State) : Out :=
  let i : Instr := .qtry f
  let sh := Shape.qtry f
  let q := queueOf f.va
  let part := s.participating f.pg f.pn
  let pX := f.vc.toNat % 16
  if !s.holdsFields f sh then .next (s.trap 0x01 part i)
  else if part = 0 then .next (s.retire i)
  else if s.queueLength q = 0 then .next ((s.modCur (fun x => x.setPred pX part 0)).retire i)
  else
    match (if 240 ≤ f.vd.toNat then s.checkPush (f.vd.toNat - 240) (if queueOf f.vd = q then 1 else 0)
        else .go) with
    | .block w => .next (s.wait w)
    | .trap c => .next (s.trap c part i)
    | .go =>
      let raised := if q = 13 then
          (match s.cur.lq.q13 with
           | r :: _ => r.raised.foldl (fun a e => if e.2 &&& s.enabledTraps = 0 then a else a ||| e.1) 0
           | [] => 0)
        else 0
      if raised ≠ 0 then .next (s.trap 0x0D raised i)
      else
        let v := s.queueFront q
        let val (l : Nat) : PX :=
          if f.ty = 24 then v.at l else ⟨((v.at l).bits.setWidth 32).setWidth 64, (v.at l).poison⟩
        let outs := (lanesIn part).map (fun l => (⟨l, val l, 0, none⟩ : LaneOut))
        let s1 := (s.popQueue q).writeDest sh.vd f.vd.toNat outs
        .next ((s1.modCur (fun x => x.setPred pX part (BitVec.allOnes 64))).retire i)

/-- `qlen` (R267). -/
def execQlen (f : LaneFields) (s : State) : Out :=
  let q := queueOf f.va
  let closed := decide (8 ≤ q ∧ q < 12) && (s.slot s.focus.core s.curSlotNo).closed.getLsbD (q - 8)
  let v := s.queueLength q % 32 + (if closed then 256 else 0)
  .next ((s.modCur (fun x => x.setScalar f.vd.toNat (PX.clean (BitVec.ofNat 64 v)))).retire (.qlen f))

/-- `qcls` (R268). -/
def execQcls (f : LaneFields) (s : State) : Out :=
  let q := queueOf f.va
  let n := s.curSlotNo
  let k := s.slot s.focus.core n
  .next ((s.setSlot s.focus.core n
    { k with closed := k.closed ||| BitVec.ofNat 4 (2 ^ (q - 8)) }).retire (.qcls f))

end Sys2Proof.Machine
end

