-- ==== Sys2Proof/Machine/Launch.lean ====
section
/-! DEFINITION. Launches: the parameter block and its checks, submission by `sys launch` and the doorbell,
priority, placement, completion (R24, R29, R35, R179, R180, R385 to R396, R402, R403). -/

namespace Sys2Proof.Machine

/-! ### Words that firmware reads and writes in a context -/

/-- The physical address of a virtual one, by a walk; none where no page answers. (DEDUCED: log entry 69) -/
def State.walkAddr (s : State) (asid : BitVec 16) (va : Nat) (kind : AccessKind) : Option Nat :=
  match s.walk asid va kind with
  | .found e => some (e.frame + va % 2 ^ e.lsize)
  | .failed _ => none
/-- An aligned 64-bit word of a context; 0 where no page answers. (DESIGN CHOICE: log entry 47) -/
def State.ctxRead (s : State) (asid : BitVec 16) (va : Nat) : DWord :=
  match s.walkAddr asid va .load with
  | some a => BitVec.ofNat 64 (s.mem.num a 8)
  | none => 0

/-! ### Checks of a parameter block (R387) -/

/-- The reserved fields: word, lowest bit, bits (R385). -/
def reservedFields : List (Nat × Nat × Nat) :=
  [(0, 57, 7), (1, 50, 14), (1, 45, 2), (2, 53, 11), (2, 20, 12), (2, 7, 1), (3, 57, 7), (4, 57, 7),
   (5, 48, 16), (5, 15, 1), (5, 11, 1), (5, 7, 1), (7, 57, 7), (8, 57, 7), (9, 32, 32), (10, 57, 7),
   (11, 0, 64), (12, 0, 64), (13, 0, 64), (14, 0, 64), (15, 0, 64)]

def ParamBlock.entry (p : ParamBlock) : Nat := p.fld 0 0 57
def ParamBlock.brt (p : ParamBlock) : Nat := p.fld 3 0 57
def ParamBlock.trapt (p : ParamBlock) : Nat := p.fld 4 0 57
def ParamBlock.args (p : ParamBlock) : Nat := p.fld 7 0 57
def ParamBlock.crec (p : ParamBlock) : Nat := p.fld 8 0 57
def ParamBlock.fent (p : ParamBlock) : Nat := p.fld 10 0 57
def ParamBlock.nbuf (p : ParamBlock) : Nat := p.fld 5 0 7
def ParamBlock.cls (p : ParamBlock) : Nat := p.fld 5 8 3
def ParamBlock.prio (p : ParamBlock) : Nat := p.fld 5 12 3
def ParamBlock.dieMask (p : ParamBlock) : Nat := p.fld 5 16 4
def ParamBlock.sys (p : ParamBlock) : Bool := p.fld 5 22 1 == 1
def ParamBlock.audk (p : ParamBlock) : Nat := p.fld 5 30 5
def ParamBlock.redund (p : ParamBlock) : Bool := p.fld 5 36 1 == 1
def ParamBlock.slack (p : ParamBlock) : Nat := p.fld 5 37 11
def ParamBlock.ckint (p : ParamBlock) : Nat := p.fld 6 0 32
def ParamBlock.seed (p : ParamBlock) : Nat := p.fld 6 32 32
def ParamBlock.gridW (p : ParamBlock) : Nat := p.fld 1 0 16
def ParamBlock.gridH (p : ParamBlock) : Nat := p.fld 1 16 16
def ParamBlock.depth (p : ParamBlock) : Nat := p.fld 1 32 13
def ParamBlock.fixg (p : ParamBlock) : Bool := p.fld 1 48 1 == 1
def ParamBlock.acct (p : ParamBlock) : Bool := p.fld 1 49 1 == 1
def ParamBlock.slots (p : ParamBlock) : Nat := p.fld 2 0 5
def ParamBlock.fibres (p : ParamBlock) : Nat := p.fld 2 5 2 + 1
def ParamBlock.baseu (p : ParamBlock) : Nat := p.fld 2 8 4
def ParamBlock.winBase (p : ParamBlock) : Nat := p.fld 2 12 4
def ParamBlock.winCnt (p : ParamBlock) : Nat := p.fld 2 16 4
def ParamBlock.scratch (p : ParamBlock) : Nat := p.fld 2 32 21
def ParamBlock.actW (p : ParamBlock) : Nat := p.fld 9 0 16
def ParamBlock.actH (p : ParamBlock) : Nat := p.fld 9 16 16

/-- Extended units that a block takes from the pool at launch (R394). -/
def ParamBlock.extUnits (p : ParamBlock) : Nat := p.baseu * p.fibres * p.slots + p.winCnt * p.slots
/-- A block of the launch holds the accumulator tiles of its core (R386, R394). -/
def ParamBlock.holdsTiles (p : ParamBlock) : Bool := p.acct || p.depth != 0

/-- A reserved field is not 0, or an address is misaligned (code 0x01). -/
def ParamBlock.malformed (p : ParamBlock) : Bool :=
  reservedFields.any (fun e => p.fld e.1 e.2.1 e.2.2 != 0) ||
  p.entry % 4 != 0 || p.brt % 8 != 0 || p.trapt % 8 != 0 || p.crec % 64 != 0 || p.fent % 8 != 0
/-- An active extent outside the range of R24. -/
def extentBad (act grid : Nat) : Bool :=
  act != 0 && (decide (act ≤ 8 * (grid - 1)) || decide (8 * grid < act))

/-- The partition owns a core site. -/
def State.owns (s : State) (part c : Nat) : Bool := (s.partition part).clusters.contains (clusterOf c)
/-- Its cores on the dies of a mask. -/
def State.ownedCores (s : State) (part mask : Nat) : List Nat :=
  (List.range 784).filter (fun c => s.owns part c && mask.testBit (dieOf c))
/-- The sites that a fixed-geometry plane names on this device (R14, R467). -/
def State.fixedSites (s : State) (p : ParamBlock) : List Nat :=
  (List.range (p.gridW * p.gridH)).filterMap (fun b =>
    let cx := b % p.gridW
    let cy := b / p.gridW
    if s.torusW * s.torusH ≤ 1 ∨ s.torusW * (cy / 28) + cx / 28 = s.device.toNat then
      some (siteAt (cx % 28) (cy % 28))
    else none)

/-- Code 0x02. -/
def State.gridBad (s : State) (part : Nat) (p : ParamBlock) : Bool :=
  p.gridW == 0 || p.gridH == 0 || extentBad p.actW p.gridW || extentBad p.actH p.gridH ||
  (p.depth != 0 &&
    (if p.fixg then !(s.fixedSites p).all (fun c => s.owns part c)
     else decide (((s.ownedCores part p.dieMask).filter (fun c => (s.core c).enabled)).length < p.gridW * p.gridH)))
/-- Code 0x04 (R35, R394). -/
def ParamBlock.registersBad (p : ParamBlock) : Bool :=
  decide (4 < p.winCnt) || decide (12 < p.baseu) ||
  (p.winCnt != 0 && (decide (p.winBase < 8) || decide (12 < p.winBase + p.winCnt) ||
    decide (p.winBase < p.baseu))) ||
  decide (64 < p.extUnits)
/-- A trap table entry breaks R350 (code 0x07). -/
def trapEntryBad (cause : Nat) (e : DWord) : Bool :=
  e.getLsbD 63 &&
  (e.extractLsb' 57 6 != 0 || e.extractLsb' 0 2 != 0 ||
    [2, 5, 6, 0x10, 0x13, 0x14].contains cause || decide (0x15 ≤ cause))
/-- The trap table of a block, by cause. -/
def State.trapTable (s : State) (ctx : BitVec 16) (p : ParamBlock) : List DWord :=
  (List.range 32).map (fun c => s.ctxRead ctx (p.trapt + 8 * c))
/-- A cluster of the partition takes ordinary blocks of a class (R402, R403). -/
def State.inPool (s : State) (part k cls : Nat) : Bool :=
  (s.partition part).clusters.contains k && !(s.partition part).compPool.contains k &&
  (s.cluster k).cls == cls && (s.cluster k).moving.isNone && (s.cluster k).migrating.isNone
/-- Code 0x08. -/
def State.diesBad (s : State) (part : Nat) (p : ParamBlock) : Bool :=
  p.dieMask == 0 ||
  (List.range 4).any (fun d => p.dieMask.testBit d &&
    !(s.partition part).clusters.any (fun k => k / 49 == d)) ||
  !(s.partition part).clusters.any (fun k => s.inPool part k p.cls)
/-- Code 0x0A. -/
def ParamBlock.redundBad (p : ParamBlock) : Bool :=
  (p.redund && (decide (p.slack < 16) || decide (1024 < p.slack) || p.ckint == 0 || p.depth != 0)) ||
  decide (20 < p.audk)

/-- The rejection code of a block, in the order of the table (R387). (DEDUCED: log entry 46) -/
def State.rejection (s : State) (part : Nat) (ctx : BitVec 16) (p : ParamBlock) (firmware : Bool) :
    Option Nat :=
  if p.malformed then some 0x01
  else if s.gridBad part p then some 0x02
  else if p.slots = 0 ∨ 16 < p.slots then some 0x03
  else if p.registersBad then some 0x04
  else if 4096 < p.depth + (max 256 p.scratch + 255) / 256 then some 0x05
  else if 64 < p.nbuf then some 0x06
  else if (s.trapTable ctx p).zipIdx.any (fun e => trapEntryBad e.2 e.1) then some 0x07
  else if s.diesBad part p then some 0x08
  else if p.sys && !firmware then some 0x09
  else if p.redundBad then some 0x0A
  else none

/-! ### Submission (R180, R388 to R390) -/

def Partition.queue (p : Partition) (q : Nat) : LaunchQueue := Tab.get LaunchQueue.empty p.queues q
def Partition.setQueue (p : Partition) (q : Nat) (x : LaunchQueue) : Partition :=
  { p with queues := Tab.set LaunchQueue.empty p.queues q x }

/-- What a submission answers. -/
inductive Submission where
  | accepted (lid : BitVec 32)
  | full
  | rejected (code : Nat)
  deriving DecidableEq, Repr
/-- As `sys launch` reports it (R180). -/
def Submission.word : Submission → DWord
  | .accepted lid => BitVec.ofNat 64 (2 ^ 63 + lid.toNat)
  | .full => 0
  | .rejected code => BitVec.ofNat 64 (2 ^ 62 + code)

/-- The count that follows in a queue (R389). -/
def nextCount (n : Nat) : Nat := if n = 2 ^ 26 - 1 then 1 else n + 1

/-- A block enters a queue that has room, if it passes its checks. (DEDUCED: log entry 46) -/
def State.submit (s : State) (part q : Nat) (ctx : BitVec 16) (addr : Nat) (p : ParamBlock)
    (firmware : Bool) (cap : Nat) : Submission × State :=
  let pt := s.partition part
  let lq := pt.queue q
  if 32 ≤ lq.ids.length then (.full, s)
  else
    match s.rejection part ctx p firmware with
    | some code => (.rejected code, s)
    | none =>
      let n := nextCount lq.count
      let lid : BitVec 32 := BitVec.ofNat 32 (q % 64 * 2 ^ 26 + n)
      let l : Launch :=
        { lid := lid, part := part, queue := q, address := BitVec.ofNat 64 addr, ctx := ctx,
          level1 := firmware && p.sys, params := p, prio := min p.prio cap, stage := .queued,
          submitted := s.time.toNat, aged := 0, placed := 0, ended := 0, chki := 0, deadLanes := 0,
          tstart := 0, tend := 0, ending := Option.none, recorded := false, bufrecs := [], traps := [],
          entries := [], planeinit := [], opened := [], pushed := [] }
      let s1 := s.setPartition part (pt.setQueue q { lq with ids := lq.ids ++ [lid], count := n, last := lid })
      (.accepted lid, { s1 with launches := l :: s1.launches })

/-- The launch of a partition, queued or running, that was submitted from an address. -/
def State.submitted (s : State) (part addr : Nat) : Option (BitVec 32) :=
  (s.launches.find? (fun l => l.part == part && l.stage != .ended && l.address.toNat == addr)).map
    (fun l => l.lid)

/-- The sixteen words of a block at a virtual address of a context. -/
def State.paramsAt (s : State) (ctx : BitVec 16) (va : Nat) : ParamBlock :=
  (List.range 16).map (fun k => s.ctxRead ctx (va + 8 * k))

/-- `sys launch` as the device performs it for a fibre (R180). -/
def State.sysLaunch (s : State) (c f : Nat) (va : DWord) (q : Nat) : DWord × State :=
  let b := s.block c (s.fibre c f).block
  let ctx := s.ctxOf c (s.fibre c f).block
  let addr := (s.walkAddr ctx va.toNat .load).getD 0
  match s.submitted b.part addr with
  | some lid => ((Submission.accepted lid).word, s)
  | none =>
    let cap := match s.launchOf c (s.fibre c f).block with
      | some l => l.prio
      | none => 0
    let (r, s1) := s.submit b.part q ctx addr (s.paramsAt ctx va.toNat) false cap
    (r.word, s1)

/-- The context under which a driver of a partition submits: the model's choice where the partition
has several. (DESIGN CHOICE: log entries 14, 47) -/
def State.driverCtx (s : State) (part : Nat) : BitVec 16 :=
  let pick := BitVec.ofNat 16 (s.choices.headD 0)
  let mine (a : BitVec 16) : Bool := bitsAt (s.ctxWord a 0) 63 1 == 1 && s.partOfCtx a == part
  if mine pick then pick
  else
    match (List.range 65536).find? (fun a => mine (BitVec.ofNat 16 a)) with
    | some a => BitVec.ofNat 16 a
    | none => 0

/-- LAUNCH_DOORBELL: a write of a block's physical address to the doorbell of a queue (R390). -/
def execLaunchDoorbell (part queue : Nat) (address : BitVec 64) (firmware : Bool) (s : State) :
    Host.Outcome State Fault Refusal :=
  if 64 ≤ queue ∨ 8 ≤ part ∨ s.rot.phase ≠ .running then .next s
  else
    let a := bitsAt address.toNat 0 52
    let p : ParamBlock := (List.range 16).map (fun k => BitVec.ofNat 64 (s.mem.num (a + 8 * k) 8))
    let (r, s1) := s.submit part queue (s.driverCtx part) a p firmware 7
    let pt := s1.partition part
    let lq := pt.queue queue
    let lq' : LaunchQueue := match r with
      | .accepted _ => { lq with full := decide (32 ≤ lq.ids.length), rej := false, code := 0 }
      | .full => { lq with full := true, rej := true, code := 0 }
      | .rejected code => { lq with full := false, rej := true, code := BitVec.ofNat 8 code }
    .next (s1.setPartition part (pt.setQueue queue lq'))

/-- What a read of a doorbell returns (R390). -/
def LaunchQueue.status (q : LaunchQueue) : DWord :=
  BitVec.ofNat 64 (q.ids.length % 64 + (if q.full then 2 ^ 6 else 0) + (if q.rej then 2 ^ 7 else 0) +
    2 ^ 8 * q.code.toNat + 2 ^ 32 * q.last.toNat)

/-! ### The sys functions (R179, R180) -/

/-- `sys launch` of a queue. (DEDUCED: log entry 46) -/
def State.execSysLaunch (s : State) (i : Instr) (sd sa : BitVec 6) (q : Nat) : State :=
  let c := s.focus.core
  let f := s.focus.fib
  let (a, s1) := s.useScalar sa.toNat
  if badAddress a then s1.trap 0x08 0 i
  else if a.toNat % 64 ≠ 0 then s1.trap 0x07 0 i
  else
    match (if s1.isTrail c f then Except.ok [] else s1.range c s1.curCtx .load a.toNat 128) with
    | .error e => s1.pageFault e.1 e.2 false false s1.gangLanes
    | .ok _ =>
      if s1.isAlone c f then
        let (v, s2) := s1.sysLaunch c f a q
        (s2.modCur (fun x => x.setScalar sd.toNat (PX.clean v))).retire i
      else if s1.slackFull c f then s.wait .stall
      else
        let w : GlobalWrite :=
          { va := a.toNat, opSize := 0xFF, poison := false, data := bytesOf 8 a.toNat ++ bytesOf 8 q,
            puts := [], action := .keep, once := some (.launch a q) }
        ((s1.placeEntry c f w).owe c f
          { dest := .scalar sd.toNat, vals := [], lanes := [0], flag := none }).retire i
def execSysLaunch (f : ScalarImm) (s : State) : Out :=
  .next (s.execSysLaunch (.sysLaunch f) f.sd f.sa 0)
def execSysLaunchLong (f : ScalarLong) (s : State) : Out :=
  .next (s.execSysLaunch (.sysLaunchLong f) f.sd f.sa f.imm.toNat)

/-- What `sys lstat` returns for a launch id (R179). -/
def State.launchState (s : State) (part : Nat) (id : DWord) : DWord :=
  match (if id.extractLsb' 32 32 = 0 then s.launch? part (id.setWidth 32) else none) with
  | none => 4
  | some l =>
    match l.stage with
    | .queued => 0
    | .running => 1
    | .ended =>
      let st := match l.ending with
        | some e => if e.endCode = 0 then 2 else 3
        | none => 2
      BitVec.ofNat 64 (st + 2 ^ 32 * (l.chki.toNat % 2 ^ 11))
def State.lstat (s : State) (i : Instr) (sd sa : BitVec 6) : State :=
  let c := s.focus.core
  let f := s.focus.fib
  let (a, s1) := s.useScalar sa.toNat
  match s1.receive c f .value (fun t => [PX.clean (t.launchState t.curBlock.part a)]) with
  | none => s.wait .stall
  | some (vs, s2) => (s2.modCur (fun x => x.setScalar sd.toNat (vs.getD 0 PX.zero))).retire i
def execSysLstat (f : ScalarImm) (s : State) : Out := .next (s.lstat (.sysLstat f) f.sd f.sa)
def execSysLstatLong (f : ScalarLong) (s : State) : Out := .next (s.lstat (.sysLstatLong f) f.sd f.sa)

/-- `sys abort`: the issuing launch ends with a code; a copy of a pair waits until its pair is settled. (DEDUCED: log entry 34) -/
def State.abortLaunch (s : State) (sa : BitVec 6) : State :=
  let c := s.focus.core
  let f := s.focus.fib
  let (a, s1) := s.useScalar sa.toNat
  match (s1.side c f).pair? with
  | some p =>
    if s1.pairSettled p then s1.abortWork c f (EndInfo.plain 1 (a.setWidth 16)) else s.wait .stall
  | none => s1.abortWork c f (EndInfo.plain 1 (a.setWidth 16))
def execSysAbort (f : ScalarImm) (s : State) : Out := .next (s.abortLaunch f.sa)
def execSysAbortLong (f : ScalarLong) (s : State) : Out := .next (s.abortLaunch f.sa)

/-! ### Priority (R391) -/

/-- The head of a queue: its launch. -/
def State.headOf (s : State) (part q : Nat) : Option Launch :=
  match ((s.partition part).queue q).ids with
  | id :: _ => s.launch? part id
  | [] => none
/-- Effective priority. -/
def Launch.effective (l : Launch) : Nat := min 7 (l.prio + l.aged)

/-- LAUNCH_AGEING: a waiting head gains a step for each full ageing period. (DESIGN CHOICE: log entry 47) -/
def execLaunchAgeing (part queue : Nat) (s : State) : Out :=
  match s.headOf part queue with
  | some l =>
    let period := (s.partition part).ageing
    if l.stage = .queued ∧ l.effective < 7 ∧ period ≠ 0 ∧
        period * (l.aged + 1) ≤ s.time.toNat - l.submitted then
      .next (s.modLaunch part l.lid (fun l => { l with aged := l.aged + 1 }))
    else .next s
  | none => .next s

/-! ### Where a block fits (R394) -/

/-- A block table entry is in use, from its placement to its release. -/
def Block.taken (b : Block) : Bool := b.slots != 0
/-- The depths that a block holds: first, and one past the last. -/
def State.depthsOf (s : State) (c b : Nat) : Nat × Nat :=
  let k := s.block c b
  let lo := match s.launchOf c b with
    | some l => if l.depth = 0 then k.scrb else k.pdepth
    | none => k.scrb
  (lo, k.scrb + k.srows)
/-- The base units that a block holds. -/
def Block.baseUnits (b : Block) : Nat × Nat := (b.rbase, b.rbase + 3 * b.fibres * b.slots)
/-- Two half-open ranges share nothing. -/
def apart (a b : Nat × Nat) : Bool := decide (a.2 ≤ b.1) || decide (b.2 ≤ a.1)
/-- The block table entries of a core that are in use. -/
def CoreState.takenBlocks (k : CoreState) : List Nat :=
  (k.blocks.filter (fun e => e.2.taken)).map (fun e => e.1)
/-- Extended units that no fibre holds and no placed block has yet to take. (DEDUCED: log entry 48) -/
def State.spareUnits (s : State) (c : Nat) : Nat :=
  let k := s.core c
  k.freeUnits - (k.takenBlocks.foldl (fun n b =>
    if (k.block b).stage = .empty then
      match s.launchOf c b with
      | some l => n + l.params.baseu * (k.block b).fibres * (k.block b).slots
      | none => n
    else n) 0)

/-- What a block asks of its core: base blocks and extended units, depths, tiles, slots. -/
structure Needs where
  slots : Nat
  fibres : Nat
  ext : Nat
  depth : Nat
  rows : Nat
  tiles : Bool
  deriving DecidableEq, Repr
def State.needsOf (s : State) (l : Launch) (c : Nat) : Needs :=
  { slots := l.slots, fibres := l.fibres, ext := l.params.extUnits, depth := l.depth,
    rows := (s.core c).rowsFor l, tiles := l.params.holdsTiles }

/-- A place has the room that a block needs. -/
def State.roomFor (s : State) (n : Needs) (p : BlockPlace) : Bool :=
  let k := s.core p.core
  k.enabled && k.regs.corectl.getLsbD 2 && !k.regs.suspect && decide (p.entry < 16) && !(k.block p.entry).taken &&
  decide (p.slot + n.slots ≤ 16) && (List.range n.slots).all (fun j => !(k.slot (p.slot + j)).bound) &&
  decide (p.rbase + 3 * n.fibres * n.slots ≤ 192) &&
  k.takenBlocks.all (fun b => apart (p.rbase, p.rbase + 3 * n.fibres * n.slots) (k.block b).baseUnits) &&
  decide (n.ext ≤ s.spareUnits p.core) &&
  decide (p.depth + n.depth + n.rows ≤ 4096) &&
  k.takenBlocks.all (fun b => apart (p.depth, p.depth + n.depth + n.rows) (s.depthsOf p.core b)) &&
  (!n.tiles || k.takenBlocks.all (fun b => !(k.block b).acc))

/-- Firmware may place a block of the launch at a place (R14, R29, R394). (DEDUCED: log entry 48) -/
def State.fits (s : State) (l : Launch) (b : Nat × Nat) (p : BlockPlace) : Bool :=
  s.roomFor (s.needsOf l p.core) p && decide (p.core < 784) &&
  l.params.dieMask.testBit (dieOf p.core) && s.inPool l.part (clusterOf p.core) l.params.cls &&
  (!l.noHoles || (s.core p.core).holes == 0) &&
  (!(l.fixedGeometry && l.depth != 0) || p.core == siteAt (b.1 % 28) (b.2 % 28))

/-- The two copies of a pair stand in different clusters, and on different dies where the die mask allows
(R438). -/
def copiesApart (l : Launch) (p q : BlockPlace) : Bool :=
  clusterOf p.core != clusterOf q.core &&
  (decide (popCount 4 l.params.dieMask ≤ 1) || dieOf p.core != dieOf q.core)

/-! ### Placement (R392, R395, R396) -/

/-- The blocks that this device places, in order (R17, R392, R467). -/
def State.blocksOf (s : State) (l : Launch) : List (Nat × Nat) :=
  ((List.range (l.gridW * l.gridH)).map (fun b => (b % l.gridW, b / l.gridW))).filter (fun b =>
    !(l.fixedGeometry && l.depth != 0) ||
    ((!s.torus l || s.torusW * (b.2 / 28) + b.1 / 28 == s.device.toNat) &&
      (s.core (siteAt (b.1 % 28) (b.2 % 28))).enabled))

/-- A bind record (R395). (DEDUCED: log entry 49) -/
def bindRecord (ctx : BitVec 16) (entry bslot nfib rbase scrb pdepth : Nat) : DWord :=
  BitVec.ofNat 64 (pdepth % 4096 + 2 ^ 12 * (scrb % 4096) + 2 ^ 24 * (rbase % 256) +
    2 ^ 34 * ((nfib - 1) % 4) + 2 ^ 36 * (bslot % 16) + 2 ^ 40 * (entry % 16) + 2 ^ 47 +
    2 ^ 48 * ctx.toNat)

/-- Firmware writes a block table entry and the bind records of its slots. (DEDUCED: log entry 49) -/
def State.bindBlock (s : State) (ctx : BitVec 16) (p : BlockPlace) (b : Block) : State :=
  s.modCore p.core (fun k =>
    let k1 := k.setBlock p.entry b
    (List.range b.slots).foldl (fun k j =>
      let slot : Slot := { Slot.absent with bound := true, block := p.entry }
      let rec' := bindRecord ctx p.entry j b.fibres (b.rbase + 3 * b.fibres * j) b.scrb b.pdepth
      { k.setSlot (p.slot + j) slot with
        regs := { k.regs with slotbind := Tab.set 0 k.regs.slotbind (p.slot + j) rec' } }) k1)

/-- The entry of a block of a launch. -/
def State.newBlock (s : State) (l : Launch) (role : BlockRole) (b : Nat × Nat) (p : BlockPlace) : Block :=
  let pos := packagePos p.core
  let plane := l.depth != 0
  { Block.absent with
    part := l.part, lid := l.lid, bx := b.1, by' := b.2,
    cx := if plane then b.1 else pos.1, cy := if plane then b.2 else pos.2,
    srows := (s.core p.core).rowsFor l, acc := l.params.holdsTiles, slot0 := p.slot, slots := l.slots,
    fibres := l.fibres, rbase := p.rbase, pdepth := if plane then p.depth else 0,
    scrb := p.depth + l.depth, winBase := l.params.winBase, winCnt := l.params.winCnt, role := role }

/-- The lowest number that no pair has. -/
def State.freshPair (s : State) : Nat :=
  ((List.range (s.pairs.length + 1)).find? (fun n => !s.pairs.any (fun e => e.1 == n))).getD 0
/-- The redundancy register of a copy (R445). -/
def pairPeer (c : Nat) : BitVec 16 := BitVec.ofNat 16 (siteOf c + 2 ^ 8 * dieOf c)
def CoreState.joinPair (k : CoreState) (peer : Nat) (role : BitVec 2) : CoreState :=
  { k with regs := { k.regs with peer := pairPeer peer, role := role } }

/-- A block is placed, twice for a lead and trail launch. -/
def State.putBlock (s : State) (l : Launch) (b : Nat × Nat) (p : BlockPlace) : State :=
  s.bindBlock l.ctx p (s.newBlock l .ordinary b p)
def State.putPair (s : State) (l : Launch) (b : Nat × Nat) (p q : BlockPlace) : State :=
  let n := s.freshPair
  let s1 := (s.bindBlock l.ctx p (s.newBlock l (.lead n) b p)).bindBlock l.ctx q (s.newBlock l (.trail n) b q)
  let s2 := (s1.modCore p.core (fun k => k.joinPair q.core 1)).modCore q.core (fun k => k.joinPair p.core 2)
  s2.setPair n { Pair.absent with lead := (p.core, p.entry), trail := (q.core, q.entry),
                                  interval := l.params.ckint, slack := l.params.slack }

/-- Places blocks, first to last, as far as places are given; none where one does not fit. -/
def State.placeBlocks (s : State) (l : Launch) : List (Nat × Nat) → List BlockPlace → Option (State × Nat)
  | [], _ => some (s, 0)
  | _ :: _, [] => some (s, 0)
  | b :: bs, p :: ps =>
    if l.redund then
      match ps with
      | q :: qs =>
        let s1 := s.putPair l b p q
        if s.fits l b p && s.fits l b q && copiesApart l p q then
          (s1.placeBlocks l bs qs).map (fun r => (r.1, r.2 + 1))
        else none
      | [] => none
    else if s.fits l b p then ((s.putBlock l b p).placeBlocks l bs ps).map (fun r => (r.1, r.2 + 1))
    else none

/-- The tables of a launch, read when its first block is placed (R100, R349, R386, R388). (DESIGN CHOICE: log entry 47) -/
def State.readTables (s : State) (l : Launch) : Launch :=
  let p := l.params
  let recWord (n k : Nat) : Nat := (s.ctxRead l.ctx (p.brt + 40 * n + 8 * k)).toNat
  let record (n : Nat) : BitVec 320 :=
    BitVec.ofNat 320 ((List.range 5).foldl (fun a k => a + 2 ^ (64 * k) * recWord n k) 0)
  { l with
    bufrecs := Tab.setAll 0 [] ((List.range p.nbuf).map (fun n => (n, record n))),
    traps := Tab.setAll 0 [] ((s.trapTable l.ctx p).zipIdx.map (fun e => (e.2, e.1))),
    entries := if p.fent = 0 then []
      else Tab.setAll 0 [] ((List.range 64).map (fun n => (n, s.ctxRead l.ctx (p.fent + 8 * n)))),
    tstart := s.time, stage := .running }
/-- A word of the fibre entry table has a reserved bit set (R386). -/
def Launch.entryBad (l : Launch) : Bool :=
  l.entries.any (fun e => e.2.extractLsb' 57 7 != 0 || e.2.extractLsb' 0 2 != 0)

/-! ### What firmware would choose -/

/-- The first place on a core with the room that a block needs, at a depth if one is given. (DEDUCED: log entry 48) -/
def State.findRoom (s : State) (n : Needs) (c : Nat) (depth : Option Nat) : Option BlockPlace :=
  let k := s.core c
  let slot := (List.range 16).find? (fun j =>
    decide (j + n.slots ≤ 16) && (List.range n.slots).all (fun i => !(k.slot (j + i)).bound))
  let entry := (List.range 16).find? (fun b => !(k.block b).taken)
  let rbase := ((List.range 64).map (fun j => 3 * j)).find? (fun r =>
    k.takenBlocks.all (fun b => apart (r, r + 3 * n.fibres * n.slots) (k.block b).baseUnits))
  let depths := match depth with
    | some d => [d]
    | none => 0 :: k.takenBlocks.map (fun b => (s.depthsOf c b).2)
  match slot, entry, rbase with
  | some sl, some en, some rb =>
    (depths.map (fun d => ({ core := c, slot := sl, rbase := rb, depth := d, entry := en } : BlockPlace))).find?
      (fun p => s.roomFor n p)
  | _, _, _ => none
/-- The first core with room for a block of a launch, apart from another copy. -/
def State.findFor (s : State) (l : Launch) (b : Nat × Nat) (depth : Option Nat) (other : Option BlockPlace) :
    Option BlockPlace :=
  s.cores.findSome? (fun e =>
    match s.findRoom (s.needsOf l e.1) e.1 depth with
    | some p =>
      if s.fits l b p && (match other with
        | some q => copiesApart l q p
        | none => true) then some p else none
    | none => none)
/-- Places for all of some blocks at one depth. -/
def State.findAll (s : State) (l : Launch) (depth : Nat) : List (Nat × Nat) → Option (List BlockPlace)
  | [] => some []
  | b :: bs =>
    match s.findFor l b (some depth) none with
    | some p => ((s.putBlock l b p).findAll l depth bs).map (fun ps => p :: ps)
    | none => none
/-- Places for what a launch places next: all blocks of a plane, the next block otherwise. -/
def State.findPlaces (s : State) (l : Launch) : Option (List BlockPlace) :=
  let bs := (s.blocksOf l).drop l.placed
  if l.depth ≠ 0 then
    let ds := (0 :: s.cores.flatMap (fun e => e.2.takenBlocks.map (fun b => (s.depthsOf e.1 b).2))).eraseDups
    ds.findSome? (fun d => s.findAll l d bs)
  else
    match bs with
    | [] => none
    | b :: _ =>
      match s.findFor l b none none with
      | some p =>
        if l.redund then (s.findFor l b none (some p)).map (fun q => [p, q]) else some [p]
      | none => none

/-- A launch at the head of its queue that still has blocks to place. -/
def State.waitsForPlace (s : State) (l : Launch) : Bool :=
  l.ending.isNone && l.stage != .ended && decide (l.placed < (s.blocksOf l).length)
/-- The order in which firmware tries the heads of a partition: effective priority, then the queue number
after the one last served. -/
def State.headRank (s : State) (part q : Nat) (l : Launch) : Nat :=
  64 * (7 - l.effective) + (q + 127 - (s.partition part).lastServed % 64) % 64
/-- A head that firmware would place before this one. -/
def State.headBefore (s : State) (part q : Nat) (l : Launch) : Bool :=
  (List.range 64).any (fun r =>
    r != q &&
    (match s.headOf part r with
     | some m =>
       s.waitsForPlace m && decide (s.headRank part r m < s.headRank part q l) && (s.findPlaces m).isSome
     | none => false))

/-- The places of a plane's blocks name one depth (R38). -/
def oneDepth (ps : List BlockPlace) : Bool := ps.all (fun p => p.depth == (ps.headD p).depth)

/-- LAUNCH_PLACEMENT: firmware places blocks of the head of a queue. (DEDUCED: log entry 48) -/
def execLaunchPlacement (part queue : Nat) (places : List BlockPlace) (s : State) : Out :=
  match s.headOf part queue with
  | none => .next s
  | some l =>
    let todo := (s.blocksOf l).drop l.placed
    if !s.waitsForPlace l || s.headBefore part queue l || (l.depth != 0 && !oneDepth places) then .next s
    else
      match s.placeBlocks l todo places with
      | none => .next s
      | some (s1, n) =>
        if n = 0 ∨ (l.depth ≠ 0 ∧ n < todo.length) then .next s
        else
          let l1 := if l.stage = .queued then s.readTables l else l
          if l1.entryBad then
            .next ((s.setLaunch l1).endLaunch part l.lid { EndInfo.plain 2 0 with cause := 0x01 } true)
          else
            let pt := s1.partition part
            let lq := pt.queue queue
            let whole := n = todo.length
            let pt' := { pt.setQueue queue { lq with ids := if whole then lq.ids.drop 1 else lq.ids } with
                         lastServed := queue }
            .next ((s1.setPartition part pt').setLaunch { l1 with placed := l.placed + n })

/-! ### Completion (R174, R360, R393) -/

/-- The number of blocks, copies counted, that a launch has placed and that end. -/
def Launch.copies (l : Launch) : Nat := if l.redund then 2 else 1
/-- The resident blocks of a launch: core and entry. -/
def State.residentBlocks (s : State) (l : Launch) : List (Nat × Nat) :=
  s.cores.flatMap (fun e => (e.2.blocks.filter (fun b => b.2.taken && b.2.ofLaunch l.part l.lid)).map
    (fun b => (e.1, b.1)))
/-- Everything that a fibre has issued has completed (R174). -/
def Fibre.quiet (x : Fibre) : Bool :=
  x.ops.isEmpty && x.owed.isEmpty && x.lq.q4.isEmpty && x.eq.cmds.isEmpty &&
  x.eq.outstanding.all (fun e => e.2 == 0) && (x.lq.q12.isEmpty || decide (16 ≤ x.lq.q13.length))
/-- Every fibre of a block has ended, and everything that they issued has completed. -/
def State.blockDone (s : State) (c b : Nat) : Bool :=
  let k := s.core c
  k.blockEnded b &&
  k.fibres.all (fun e => e.2.block != b || e.2.quiet) &&
  (k.block b).nodes.isEmpty &&
  s.rwrs.all (fun r => !(r.sender.1 == c && (k.fibre r.sender.2).block == b))
/-- The final `CHKI` bits and the dead lanes of a block's fibres (R360). -/
def CoreState.blockChki (k : CoreState) (b : Nat) : BitVec 32 :=
  k.fibres.foldl (fun a e => if e.2.block = b then a ||| e.2.sys.chki else a) 0
def CoreState.blockDead (k : CoreState) (b : Nat) : Nat :=
  k.fibres.foldl (fun n e => if e.2.block = b then n + popCount 64 e.2.sys.dead.toNat else n) 0

/-- The launch has ended: every block by `exit`, or all its work after another end. -/
def State.launchDone (s : State) (l : Launch) : Bool :=
  let bs := s.residentBlocks l
  bs.all (fun e => s.blockDone e.1 e.2) &&
  match l.ending with
  | some _ => true
  | none =>
    decide ((s.blocksOf l).length = l.placed) &&
      bs.all (fun e => (s.block e.1 e.2).stage == .running) &&
      l.ended + bs.length == l.copies * (s.blocksOf l).length

/-- The seven words before DONE of a completion record (R393). -/
def Launch.record (l : Launch) (e : EndInfo) : List DWord :=
  let st := if e.endCode = 0 then 2 else 3
  let fault := e.endCode == 2 || e.endCode == 3
  let on (n : Nat) : Nat := if fault then n else 0
  [BitVec.ofNat 64 (st + 2 ^ 4 * e.endCode + 2 ^ 16 * e.abcode.toNat + 2 ^ 32 * l.lid.toNat),
   BitVec.ofNat 64 (l.chki.toNat % 2 ^ 11 + 2 ^ 32 * (l.deadLanes % 2 ^ 32)),
   BitVec.ofNat 64 (on (e.cause.toNat + 2 ^ 8 * e.cause2.toNat + 2 ^ 16 * (e.slot % 16) +
     2 ^ 20 * (e.fibre % 4) + 2 ^ 32 * (e.blockX % 2 ^ 16) + 2 ^ 48 * (e.blockY % 2 ^ 16))),
   BitVec.ofNat 64 (on e.pc.toNat), BitVec.ofNat 64 (on e.lanes.toNat), l.tstart, l.tend]

/-- Writes 64-bit words of a context, in order. -/
def State.ctxWrite (s : State) (asid : BitVec 16) (va : Nat) : List DWord → State
  | [] => s
  | w :: rest =>
    let s1 := match s.walkAddr asid va .store with
      | some a => s.writeMem a (bytesOf 8 w.toNat) false .clear
      | none => s
    s1.ctxWrite asid (va + 8) rest

/-- A launch that leaves its queue before all its blocks were placed. -/
def State.dropFromQueue (s : State) (l : Launch) : State :=
  let pt := s.partition l.part
  let lq := pt.queue l.queue
  s.setPartition l.part (pt.setQueue l.queue { lq with ids := lq.ids.filter (· != l.lid) })

/-- LAUNCH_COMPLETION: firmware writes the completion record of a launch that has ended. -/
def execLaunchCompletion (part : Nat) (lid : BitVec 32) (s : State) : Out :=
  match s.launch? part lid with
  | none => .next s
  | some l =>
    if l.stage ≠ .running ∨ !s.launchDone l then .next s
    else
      let bs := s.residentBlocks l
      let chki := bs.foldl (fun a e => a ||| (s.core e.1).blockChki e.2) l.chki
      let dead := bs.foldl (fun n e => n + (s.core e.1).blockDead e.2) l.deadLanes
      let info := l.ending.getD (EndInfo.plain 0 0)
      let l1 : Launch := { l with
        chki := chki, deadLanes := dead, tend := if l.ending.isSome then l.tend else s.time,
        ending := some info, stage := .ended, recorded := true }
      let s1 := ((s.dropFromQueue l).setLaunch l1).ctxWrite l.ctx l.params.crec (l1.record info)
      .next (s1.ctxWrite l.ctx (l.params.crec + 56) [1])

end Sys2Proof.Machine
end

