-- ==== Sys2Proof/Machine/Ascent.lean ====
section
/-! DEFINITION. Ascents: the table, the six instructions, landings that wait for audits (R310 to R316,
R318, R363, R372, R442). -/

namespace Sys2Proof.Machine

/-! ### The table (R310 to R313) -/

/-- An entry that is in use (R312). -/
def Ascent.inUse (e : Ascent) : Bool :=
  decide (e.generation ≠ 0) &&
  match e.stage with
  | .landed => false
  | .done => false
  | _ => true
/-- The entry of an id, for the fibres of a partition (R311, R363). (DEDUCED: log entry 45) -/
def Ascents.visible (a : Ascents) (part : Nat) (id : DWord) : Option Ascent :=
  match a.find id with
  | some e => if e.part = part then some e else none
  | none => none
/-- The entry that the next `asco` takes: one that was never used, else the one that closed first. (DEDUCED: log entry 45) -/
def Ascents.next (a : Ascents) : Option Nat :=
  match (List.range 4096).find? (fun n => (Tab.get Ascent.absent a.table n).generation = 0) with
  | some n => some n
  | none => (leastBy (fun e => e.2.closed) (a.table.filter (fun e => !e.2.inUse))).map (fun e => e.1)
/-- Ballast entries that a die holds. -/
def Ascents.onDie (a : Ascents) (d : Nat) : Nat :=
  a.table.foldl (fun n e => n + (e.2.stack.filter (fun b => b.die == d)).length) 0

/-- `asco` (R312): an id, or 0. (DEDUCED: log entry 69) -/
def State.openAscent (s : State) (c f : Nat) (handler : DWord) : DWord × State :=
  let b := s.block c (s.fibre c f).block
  let used := (s.asc.table.filter (fun e => e.2.inUse && e.2.part == b.part)).length
  match s.asc.next with
  | none => (0, s)
  | some n =>
    if (s.partition b.part).quota ≤ used then (0, s)
    else
      let g := (Tab.get Ascent.absent s.asc.table n).generation + 1
      let id : DWord := BitVec.ofNat 64 (g * 4096 + n)
      let e : Ascent := { Ascent.absent with generation := g, stage := .opened, handler := handler,
                                             part := b.part, lid := b.lid }
      let s1 := { s with asc := { s.asc with table := Tab.set Ascent.absent s.asc.table n e } }
      (id, s1.modLaunch b.part b.lid (fun l => { l with opened := l.opened ++ [id] }))

/-- `ascp` (R313): the sequence number, or 0. (DEDUCED: log entry 69) -/
def State.pushAscent (s : State) (c f : Nat) (id fn a0 a1 : DWord) : DWord × State :=
  let b := s.block c (s.fibre c f).block
  match s.asc.visible b.part id with
  | none => (0, s)
  | some e =>
    if e.stage ≠ .opened ∨ 2 ^ 20 ≤ s.asc.onDie (dieOf c) then (0, s)
    else
      let q := s.asc.nextSeq
      let entry : BallastEntry := { seq := q, fn := fn, a0 := a0, a1 := a1, die := dieOf c,
                                    part := b.part, lid := b.lid }
      let s1 := { s with asc := { s.asc.put id { e with stack := entry :: e.stack } with nextSeq := q + 1 } }
      (q, s1.modLaunch b.part b.lid (fun l =>
        { l with pushed := if l.pushed.contains id then l.pushed else l.pushed ++ [id] }))

/-- `ascl` (R311): whether it landed the ascent. -/
def State.landAscent (s : State) (c f : Nat) (id : DWord) : DWord × State :=
  let b := s.block c (s.fibre c f).block
  match s.asc.visible b.part id with
  | none => (0, s)
  | some e =>
    match e.stage with
    | .opened => (1, { s with asc := s.asc.close id e .landed })
    | .grounded => (1, { s with asc := s.asc.close id e .landed })
    | _ => (0, s)

/-- `ascr` (R311): whether it ripped the ascent. -/
def State.ripAscent (s : State) (c f : Nat) (id : DWord) : DWord × State :=
  let b := s.block c (s.fibre c f).block
  match s.asc.visible b.part id with
  | none => (0, s)
  | some e =>
    match e.stage with
    | .opened => (1, { s with asc := s.asc.rip id e })
    | .grounded => (1, { s with asc := s.asc.rip id e })
    | _ => (0, s)

/-- The state of an ascent as `ascq` reports it (R316). -/
def AscentStage.code : AscentStage → Nat
  | .opened => 0
  | .landed => 1
  | .ripping => 2
  | .grounded => 3
  | .done => 4
def State.queryAscent (s : State) (part : Nat) (id : DWord) : DWord :=
  match s.asc.visible part id with
  | none => 7
  | some e => BitVec.ofNat 64 (e.stage.code + 2 ^ 32 * e.stack.length)

/-- An operation that the ascent table or the firmware performs for a fibre (R442). -/
def State.doOnce (s : State) (c f : Nat) (op : OnceOp) : DWord × State :=
  match op with
  | .atomic _ => (0, s)
  | .open' h => s.openAscent c f h
  | .push id fn a0 a1 => s.pushAscent c f id fn a0 a1
  | .land id => s.landAscent c f id
  | .ripAll id => s.ripAscent c f id
  | .launch a q => s.sysLaunch c f a q

/-! ### Landing under audit (R372) -/

/-- Sampled `mma` of a launch that the auditor has yet to compare. -/
def State.auditsOpen (s : State) (part : Nat) (lid : BitVec 32) : Bool :=
  s.audit.any (fun r => r.part == part && r.lid == lid) ||
  s.cores.any (fun e => e.2.eng.matrix.any (fun a =>
    a.sampled && (e.2.block (e.2.fibre a.fib).block).ofLaunch part lid))
/-- An `ascl` of a fibre waits for audits. (DEDUCED: log entry 45) -/
def State.landHeld (s : State) (c f : Nat) (id : DWord) : Bool :=
  match s.launchOf c (s.fibre c f).block with
  | none => false
  | some l =>
    l.audited && l.audrip && l.pushed.contains id &&
    (match s.asc.find id with
     | some e => e.stage == .opened
     | none => false) &&
    (s.auditsOpen l.part l.lid ||
      (Tab.get [] (s.fibre c f).eq.cmds 0).any (fun d => d.op == 0x122))

/-- ASCL_AUDIT_RELEASE: a held landing is performed once its audits have been compared. -/
def execAsclAuditRelease (ascent : BitVec 64) (s : State) : Out :=
  match s.asc.find ascent with
  | none => .next s
  | some e =>
    match e.heldLands with
    | [] => .next s
    | (c, f, sd) :: rest =>
      if s.landHeld c f ascent then .next s
      else
        let s1 := { s with asc := s.asc.put ascent { e with heldLands := rest } }
        let (v, s2) := s1.landAscent c f ascent
        let o := ((s2.fibre c f).owed.filter (fun o => o.dest == OwedDest.scalar sd)).head?
        .next (s2.modFibre c f (fun x =>
          let y := { x with owed := x.owed.filter (fun o => !(o.dest == OwedDest.scalar sd)) }
          let z := match o.bind (fun o => o.flag) with
            | some n => y.decFlag n
            | none => y
          z.setScalar sd (PX.clean v)))

/-! ### The instructions -/

/-- Selects the flag of an `ascr` that ripped: it clears when the ascent is done or grounded (R314). -/
def State.selectRip (s : State) (fs : Bool) (id : DWord) : State :=
  match s.flagFor fs with
  | some n => s.modCur (fun x => { x.incFlag n with ops := x.ops ++ [.rip n id] })
  | none => s
/-- Selects a flag for a result that comes later. -/
def State.selectOwed (s : State) (fs : Bool) (dest : OwedDest) : State :=
  let flag := s.flagFor fs
  s.modCur (fun x =>
    let y := match flag with
      | some n => x.incFlag n
      | none => x
    { y with owed := y.owed ++ [{ dest := dest, vals := [], lanes := [0], flag := flag }] })

/-- An operation of a fibre that is not in a pair. -/
def State.ascAlone (s : State) (fs : Bool) (sd : Nat) (op : OnceOp) : State :=
  let c := s.focus.core
  let f := s.focus.fib
  let now (s1 : State) (v : DWord) : State := s1.modCur (fun x => x.setScalar sd (PX.clean v))
  match op with
  | .land id =>
    if s.landHeld c f id then
      match s.asc.find id with
      | some e =>
        { s.selectOwed fs (.scalar sd) with
          asc := s.asc.put id { e with heldLands := e.heldLands ++ [(c, f, sd)] } }
      | none => s
    else
      let (v, s1) := s.doOnce c f op
      (now s1 v).selectFlag fs
  | .ripAll id =>
    let (v, s1) := s.doOnce c f op
    if v = 1 then (now s1 v).selectRip fs id else (now s1 v).selectFlag fs
  | _ =>
    let (v, s1) := s.doOnce c f op
    (now s1 v).selectFlag fs

/-- Where a pair's result goes. -/
def OnceOp.dest (op : OnceOp) (sd : Nat) : OwedDest :=
  match op with
  | .ripAll id => .ripped sd id
  | _ => .scalar sd

/-- An ascent instruction whose operands, read in `s`, have passed their checks; `s0` is the state before. -/
def State.ascOp (s0 s : State) (i : Instr) (f : LaneFields) (op : OnceOp) (data : List DWord) : State :=
  let c := s.focus.core
  let fib := s.focus.fib
  let sd := f.vd.toNat % 64
  if s.flagFull f.fs || s.slackFull c fib then s0.wait .stall
  else if s.isAlone c fib then (s.ascAlone f.fs sd op).retire i
  else
    let w : GlobalWrite :=
      { va := 0, opSize := 0xFF, poison := false, data := data.flatMap (fun d => bytesOf 8 d.toNat),
        puts := [], action := .keep, once := some op }
    ((s.placeEntry c fib w).selectOwed f.fs (op.dest sd)).retire i

def execAsco (f : LaneFields) (s : State) : Out :=
  let (h, s1) := s.useScalar (f.va.toNat % 64)
  if badAddress h then .next (s1.trap 0x08 0 (.asco f))
  else if h.toNat % 4 ≠ 0 then .next (s1.trap 0x07 0 (.asco f))
  else .next (State.ascOp s s1 (.asco f) f (.open' h) [h])

def execAscp (f : LaneFields) (s : State) : Out :=
  let n := f.va.toNat % 64
  let (vs, s1) := s.useScalars [n, n + 1, n + 2, n + 3]
  let w (k : Nat) : DWord := vs.getD k 0
  if (w 1).toNat % 4 ≠ 0 then .next (s1.trap 0x07 0 (.ascp f))
  else .next (State.ascOp s s1 (.ascp f) f (.push (w 0) (w 1) (w 2) (w 3)) vs)

def execAscl (f : LaneFields) (s : State) : Out :=
  let (a, s1) := s.useScalar (f.va.toNat % 64)
  .next (State.ascOp s s1 (.ascl f) f (.land a) [a])

def execAscr (f : LaneFields) (s : State) : Out :=
  let (a, s1) := s.useScalar (f.va.toNat % 64)
  .next (State.ascOp s s1 (.ascr f) f (.ripAll a) [a])

/-- `ascf` (R315): the running compensation's entry is marked as failed. -/
def execAscf (f : LaneFields) (s : State) : Out :=
  let c := s.focus.core
  let (a, s1) := s.useScalar (f.va.toNat % 64)
  let k := s1.curBlock
  match k.role with
  | .compensation id q _ =>
    if s1.flagFull f.fs then .next (s.wait .stall)
    else
      .next (((s1.setBlock c s1.cur.block
        { k with role := .compensation id q (some (a.setWidth 16)) }).selectFlag f.fs).retire (.ascf f))
  | _ => .next (s1.trap 0x08 0 (.ascf f))

/-- `ascq` (R316). -/
def execAscq (f : LaneFields) (s : State) : Out :=
  let c := s.focus.core
  let fib := s.focus.fib
  let (a, s1) := s.useScalar (f.va.toNat % 64)
  if s1.flagFull f.fs then .next (s.wait .stall)
  else
    match s1.receive c fib .value (fun t => [PX.clean (t.queryAscent t.curBlock.part a)]) with
    | none => .next (s.wait .stall)
    | some (vs, s2) =>
      .next (((s2.modCur (fun x => x.setScalar (f.vd.toNat % 64) (vs.getD 0 PX.zero))).selectFlag f.fs).retire
        (.ascq f))

end Sys2Proof.Machine
end

