-- ==== Sys2Proof/Machine/Blocks.lean ====
section
/-! DEFINITION. Block commands: a block starts, parks, resumes and is freed; compensation and owner
blocks (R24 to R28, R42, R78, R98, R133, R314, R315, R355, R364, R365, R396, R404, R405). -/

namespace Sys2Proof.Machine

/-! ### The start of a fibre (R24, R25, R78, R98, R386) -/

/-- The active extent of a launch (R24). -/
def Launch.extent (l : Launch) : Nat × Nat :=
  (if l.params.actW = 0 then 8 * l.gridW else l.params.actW,
   if l.params.actH = 0 then 8 * l.gridH else l.params.actH)
/-- The lanes of a block that lie inside the extent. (DEDUCED: log entry 66) -/
def State.insideLanes (s : State) (c b : Nat) (l : Launch) : LaneMask :=
  let o := s.originOf c b
  maskOf (fun i => decide (o.1 + i % 8 < l.extent.1) && decide (o.2 + i / 8 < l.extent.2))
/-- The lanes that execute: those of quads with a lane inside, less holes (R25). (DEDUCED: log entry 66) -/
def executingLanes (inside holes : LaneMask) : LaneMask :=
  maskOf (fun i => inside &&& quadLanes (quadOfLane i) != 0 && !holes.getLsbD i)

/-- A quad at an entry address; a quad without lanes is switched off. (DEDUCED: log entry 66) -/
def startQuad (entry : VAddr) (lanes : LaneMask) : Quad :=
  if lanes = 0 then Quad.off
  else { Quad.off with pc := entry, active := lanes, region := entry, regionActive := lanes,
                       ended := false, mustRgn := true }
/-- The seeds of stochastic rounding at fibre start (R98). -/
def startSeeds (seed b slot index : Nat) : Tab Word :=
  Tab.setAll 0 [] (allLanes.map (fun i =>
    (i, BitVec.ofNat 32 seed ^^^ BitVec.ofNat 32 (((b * 64 + 4 * slot + index) * 64 + i) * 0x9E3779B9))))

/-- A fibre as it starts, with some scalar registers set. (DEDUCED: log entry 66) -/
def State.startFibre (s : State) (c b j f : Nat) (l : Launch) (entry : VAddr) (scalars : List (Nat × DWord)) :
    Fibre :=
  let k := s.block c b
  let inside := s.insideLanes c b l
  let present := executingLanes inside (s.core c).holes
  { Fibre.absent with
    block := b, bslot := j, index := f,
    regs := { RegFile.start with
      s := Tab.setAll PX.zero [] (scalars.map (fun e => (e.1, PX.clean e.2))),
      units := BitVec.ofNat 12 (2 ^ l.params.baseu - 1) },
    sys := { FibreRegs.start with rseed := startSeeds l.params.seed (k.by' * l.gridW + k.bx) j f },
    quads := Tab.setAll Quad.off [] ((List.range 16).map (fun q => (q, startQuad entry (present &&& quadLanes q)))),
    helpers := present &&& ~~~inside, present := present,
    run := if present = 0 then .exited else .running }

/-- The entry of a fibre: of the fibre entry table, else `ENTRY` (R386). -/
def Launch.entryOf (l : Launch) (slot f : Nat) : VAddr :=
  let e := Tab.get 0 l.entries (4 * slot + f)
  if e = 0 then BitVec.ofNat 57 l.params.entry else e.extractLsb' 0 57

/-! ### Fresh local memory (R42, R133, R256, R288) -/

/-- Depths from `lo` up to `hi` read 0 in every cell. -/
def CoreMem.clearDepths (m : CoreMem) (lo hi : Nat) : CoreMem :=
  { m with cells := m.cells.filter (fun e => decide (e.1 % 4096 < lo) || decide (hi ≤ e.1 % 4096)) }
/-- The 16 tiles and their marks read 0. -/
def CoreMem.clearTiles (m : CoreMem) : CoreMem :=
  { m with tiles := m.tiles.filter (fun e => decide (16 * 4096 ≤ e.1)), marks := m.marks &&& 0x30000 }
/-- Every barrier of a block at its reset value. -/
def CoreState.resetBarriers (k : CoreState) (scrb fibres : Nat) : CoreState :=
  (List.range 16).foldl (fun k n => k.setBarrier scrb n (Barrier.reset fibres)) k
/-- The words of `.planeinit` in the present cells of a core. -/
def CoreState.loadPlane (k : CoreState) (o : Nat × Nat) (pdepth : Nat) (ws : List ((Nat × Nat × Nat) × Word)) :
    CoreState :=
  ws.foldl (fun k e =>
    let (x, y, d) := e.1
    if o.1 ≤ x ∧ x < o.1 + 8 ∧ o.2 ≤ y ∧ y < o.2 + 8 then
      let i := 8 * (y - o.2) + (x - o.1)
      if k.holes.getLsbD i then k else k.setCell i (pdepth + d) (PW.clean e.2)
    else k) k

/-- The local memory of a block when it is first placed. (DEDUCED: log entry 48) -/
def State.freshMemory (s : State) (c b : Nat) (l : Launch) : State :=
  let k := s.block c b
  let span := s.depthsOf c b
  let o := s.originOf c b
  s.modCore c (fun x =>
    let x1 := (x.modMem (fun m => m.clearDepths span.1 span.2)).resetBarriers k.scrb (k.slots * k.fibres)
    let x2 := x1.loadPlane o k.pdepth l.planeinit
    if k.acc then x2.modMem CoreMem.clearTiles else x2)

/-- The fibres of a block start. -/
def State.startFibres (s : State) (c b : Nat) (l : Launch) : State :=
  let k := s.block c b
  let places := (List.range k.slots).flatMap (fun j => (List.range k.fibres).map (fun f => (j, f)))
  places.foldl (fun t e =>
    t.setFibre c (4 * (k.slot0 + e.1) + e.2)
      (s.startFibre c b e.1 e.2 l (l.entryOf e.1 e.2) [(1, BitVec.ofNat 64 l.params.args)])) s

/-! ### Commands (R396) -/

/-- A command that the state of an entry does not admit (R376, R396). (DEDUCED: log entry 68) -/
def State.refuseCommand (s : State) (c : Nat) : State :=
  s.modCore c (fun k => { k with regs := { k.regs with facterr := true } })
/-- Moves an entry of a block table to a state. -/
def State.setStage (s : State) (c b : Nat) (st : BlockStage) (busy : Bool) : State :=
  s.setBlock c b { s.block c b with stage := st, busy := busy }
/-- The launch of a block is over. -/
def State.launchEnding (s : State) (c b : Nat) : Bool :=
  match s.launchOf c b with
  | some l => l.ending.isSome || l.stage == .ended
  | none => true

/-- BLOCK_RUN: a placed block starts, or a parked one goes on (R396). (DEDUCED: log entry 48) -/
def execBlockRun (core block : Nat) (s : State) : Out :=
  let k := s.block core block
  match k.stage with
  | .parked =>
    .next (s.setBlock core block { k with stage := .running, busy := false, preempted := false, preemptLater := false })
  | .empty =>
    match (if k.taken && !s.launchEnding core block then s.launchOf core block else none) with
    | some l => .next (((s.freshMemory core block l).startFibres core block l).setStage core block .running false)
    | none => .next (s.refuseCommand core)
  | _ => .next (s.refuseCommand core)

/-- The other copy of a lead or trail block. -/
def State.otherBlock (s : State) (c b : Nat) : Option (Nat × Nat) :=
  match (s.block c b).role with
  | .lead p => some (s.pair p).trail
  | .trail p => some (s.pair p).lead
  | _ => none

/-- A running block begins to park. -/
def State.beginParking (s : State) (c b : Nat) : State :=
  let k := s.block c b
  if k.stage = .running then
    s.setBlock c b { k with stage := .parking, busy := true, parkSince := s.cycle }
  else s
/-- A pre-emption parks a block; one that comes during a migration waits for its end (R404, R408, R409). -/
def State.preempt (s : State) (c b : Nat) : State :=
  let k := s.block c b
  if k.stage = .running then
    let s1 := s.beginParking c b
    s1.setBlock c b { s1.block c b with preempted := true }
  else s.setBlock c b { k with preemptLater := true }
/-- A migration holds the block parking or parked. -/
def State.inMigration (s : State) (c b : Nat) : Bool :=
  let k := s.block c b
  (s.cluster (clusterOf c)).migrating.isSome && (k.stage == .parking || k.stage == .parked) && !k.preempted
/-- BLOCK_PREEMPT: the block begins to park, a lead and its trail together (R404, R405). -/
def execBlockPreempt (core block : Nat) (s : State) : Out :=
  let ok (c b : Nat) : Bool := (s.block c b).stage == .running || s.inMigration c b
  if !ok core block then .next (s.refuseCommand core)
  else
    let s1 := s.preempt core block
    match s.otherBlock core block with
    | some (c, b) => if ok c b then .next (s1.preempt c b) else .next s1
    | none => .next s1

/-! ### Parking (R273, R280, R355, R404) -/

/-- A quad restarts at its region start. Once a non-idempotent instruction has retired its region is
done, and the quad stays before the header that must follow (R111, R344). (DEDUCED: log entry 65) -/
def Quad.restart (y : Quad) (dead : LaneMask) : Quad :=
  if y.ended then y
  else if y.mustRgn then { y with wait := .none, again := false }
  else
    { y.jump y.region with active := y.regionActive &&& ~~~dead, stack := y.regionStack, wait := .none,
                           mustRgn := true, tail := false }
/-- A fibre that waits in `bars` or `barw` (R273). -/
def Fibre.atBarrier (x : Fibre) : Bool :=
  x.quads.any (fun e => match e.2.wait with
    | .barrier _ _ => true
    | _ => false)
/-- Frozen for a cause after which REPLAY restarts the fibre (R379, R404, R435). (DEDUCED: log entry 65) -/
def Run.replayable : Run → Bool
  | .frozen c => c == 0x06 || c == 0x81
  | _ => false
/-- A fibre of a parked block; a copy of a pair keeps its place, since its entries are counted. (DEDUCED: log entry 65) -/
def Fibre.park (x : Fibre) (paired : Bool) : Fibre :=
  let y : Fibre := { x with monitor := Option.none }
  if !x.resident || x.atBarrier then y
  else
    let z : Fibre := { y with fbarArrived := false,
                              run := if y.run.replayable then Run.running else y.run }
    if paired then { z with quads := z.quads.map (fun e => (e.1,
      if e.2.ended || e.2.wait == .heldExit || e.2.wait == .regang || e.2.wait == .tret then e.2
      else { e.2 with wait := .none })) }
    else { z with quads := z.quads.map (fun e => (e.1, e.2.restart z.sys.dead)) }

/-- Nothing of a fibre holds its block's parking back: its accesses have completed, its handler has
returned or is stopped, and no event that REPLAY does not answer awaits one. -/
def Fibre.parks (x : Fibre) (paired : Bool) : Bool :=
  !x.resident ||
  (x.ops.all (fun o => match o with
     | .access _ => false
     | .rip _ _ => true) &&
   (paired || x.owed.isEmpty) && x.lq.q4.isEmpty &&
   (match x.run with
    | .frozen _ => x.run.replayable
    | .stopped => true
    | _ => x.handler.isNone && x.quads.all (fun e => e.2.wait != .entering)))

/-- Every pending operation of a parking block has finished. -/
def State.parkReady (s : State) (c b : Nat) : Bool :=
  let k := s.core c
  let mine (f : Nat) : Bool := (k.fibre f).block == b
  let paired := (s.otherBlock c b).isSome
  k.fibres.all (fun e => e.2.block != b || e.2.parks paired) &&
  k.eng.accepted.all (fun a => !mine a.fib)

/-- Waiters on failed pages leave with their fibres. -/
def State.dropWaiters (s : State) (c : Nat) (fs : List Nat) : State :=
  { s with trans := { s.trans with faults := s.trans.faults.map (fun p =>
      { p with waiters := p.waiters.filter (fun w => match w with
          | .fibre c2 f => !(c2 == c && fs.contains f)
          | .engine _ _ => true) }) } }

/-- The fibres of a block, by their places on the core. -/
def CoreState.fibresOf (k : CoreState) (b : Nat) : List Nat :=
  (k.fibres.filter (fun e => e.2.block == b)).map (fun e => e.1)

/-- BLOCK_PARKED: a parking block whose operations have finished is parked (R404). -/
def execBlockParked (core block : Nat) (s : State) : Out :=
  if (s.block core block).stage ≠ .parking ∨ !s.parkReady core block then .next s
  else
    let paired := (s.otherBlock core block).isSome
    let fs := (s.core core).fibresOf block
    let s1 := s.dropWaiters core fs
    let s2 := fs.foldl (fun t f => t.modFibre core f (fun x => x.park paired)) s1
    .next (s2.setStage core block .parked false)

/-- HANDLER_OVERRUN: a handler that holds a parking block back for 65,536 cycles is treated as a double
fault (R354, R355). -/
def execHandlerOverrun (core fib : Nat) (s : State) : Out :=
  let x := s.fibre core fib
  let k := s.block core x.block
  match x.handler with
  | some h =>
    if x.run ≠ .running ∨ k.stage ≠ .parking ∨ s.cycle - k.parkSince < 65536 then .next s
    else
      let qs := (quadsIn h.quads).filter (fun q => !(x.quad q).ended)
      let pc := (x.quad (qs.headD 0)).pc
      let s1 := s.setFibre core fib { x.recordTrap 0x13 pc 0 with second := 0x13 }
      .next (s1.freeze core fib 0x13 false pc 0 (BitVec.ofNat 64 (h.cause.toNat + 2 ^ 8 * 0x13 + 2 ^ 16)))
  | none => .next s

/-! ### Releasing a block (R396) -/

/-- The slots, units, depths, tiles, claims and engine state of a block are free. -/
def CoreState.freeBlock (k : CoreState) (b : Nat) : CoreState :=
  let e := k.block b
  let slots := (List.range e.slots).map (fun j => e.slot0 + j)
  let mine (f : Nat) : Bool := slots.contains (f / 4)
  let owned := (k.mem.claims.filter (fun c => c.2 == b + 1)).map (fun c => c.1)
  let k1 := owned.foldl (fun k n => k.modMem (fun m => { m.clearSlot n with claims := Tab.set 0 m.claims n 0 })) k
  { k1 with
    slots := k1.slots.filter (fun x => !slots.contains x.1),
    fibres := k1.fibres.filter (fun x => !mine x.1),
    blocks := Tab.set Block.absent k1.blocks b Block.absent,
    mem := { k1.mem with releasing := k1.mem.releasing.filter (fun n => !owned.contains n) },
    eng := { k1.eng with
      scrolls := k1.eng.scrolls.filter (fun x => !mine x.1), pools := k1.eng.pools.filter (fun x => !mine x.1),
      carry := k1.eng.carry.filter (fun x => !mine x.1),
      matrix := k1.eng.matrix.filter (fun a => !mine a.fib), copies := k1.eng.copies.filter (fun a => !mine a.fib) },
    regs := { k1.regs with slotbind := k1.regs.slotbind.filter (fun x => !slots.contains x.1),
                           peer := if e.role.paired then 0 else k1.regs.peer,
                           role := if e.role.paired then 0 else k1.regs.role } }

/-- A block whose fibres have all ended is counted in its launch, once. -/
def State.countBlock (s : State) (c b : Nat) : State :=
  let k := s.block c b
  if k.ofLaunch k.part k.lid && (s.core c).blockEnded b && k.stage != .saved then
    s.modLaunch k.part k.lid (fun l =>
      if l.recorded then l
      else { l with ended := l.ended + 1, chki := l.chki ||| (s.core c).blockChki b,
                    deadLanes := l.deadLanes + (s.core c).blockDead b })
  else s
/-- A pair goes with the second of its copies that ends. -/
def State.dropPair (s : State) (role : BlockRole) : State :=
  let gone (p : Nat) (k : Nat × Nat) : Bool :=
    (s.block k.1 k.2).role != BlockRole.lead p && (s.block k.1 k.2).role != BlockRole.trail p
  let drop (p : Nat) : State :=
    if gone p (s.pair p).lead && gone p (s.pair p).trail then { s with pairs := Tab.drop p s.pairs } else s
  match role with
  | .lead p => drop p
  | .trail p => drop p
  | _ => s
/-- Frees a block and counts it. -/
def State.releaseBlock (s : State) (c b : Nat) : State :=
  let k := s.block c b
  let s1 := (s.countBlock c b).modCore c (fun x => x.freeBlock b)
  if k.stage = .saved then s1 else s1.dropPair k.role

/-- BLOCK_RELEASE: a parked or saved block is freed (R396). -/
def execBlockRelease (core block : Nat) (s : State) : Out :=
  let k := s.block core block
  if k.stage = .parked ∨ k.stage = .saved then .next (s.releaseBlock core block)
  else .next (s.refuseCommand core)

/-! ### Compensation and owner blocks (R314, R315, R364, R365, R403) -/

/-- The ripping ascent whose newest entry has the highest sequence number: its place in the table, and
the entry. -/
def Ascents.nextEntry (a : Ascents) : Option (Nat × Ascent × BallastEntry) :=
  let es := a.table.filterMap (fun e =>
    match e.2.stage, e.2.stack with
    | .ripping, b :: _ => some (e.1, e.2, b)
    | _, _ => none)
  leastBy (fun e => 2 ^ 64 - e.2.2.seq.toNat) es
/-- The id of an entry of the table. -/
def ascentId (n : Nat) (e : Ascent) : DWord := BitVec.ofNat 64 (e.generation * 4096 + n)

/-- A block of one fibre for an ascent, at a place of the compensation pool. -/
def State.startSpecial (s : State) (l : Launch) (role : BlockRole) (p : BlockPlace) (entry : VAddr)
    (scalars : List (Nat × DWord)) : State :=
  let v := l.solo
  let s1 := s.bindBlock l.ctx p { s.newBlock v role (0, 0) p with stage := .running }
  let s2 := s1.freshMemory p.core p.entry v
  s2.setFibre p.core (4 * p.slot) (s2.startFibre p.core p.entry 0 0 v entry scalars)

/-- A place for a block of an ascent, in the compensation pool of a partition. -/
def State.specialFits (s : State) (l : Launch) (p : BlockPlace) : Bool :=
  (s.partition l.part).compPool.contains (clusterOf p.core) && decide (p.core < 784) &&
  s.roomFor (s.needsOf l.solo p.core) p
/-- The place that firmware takes. -/
def State.specialPlace (s : State) (l : Launch) : Option BlockPlace :=
  s.cores.findSome? (fun e =>
    match s.findRoom (s.needsOf l.solo e.1) e.1 none with
    | some p => if s.specialFits l p then some p else none
    | none => none)

/-- COMPENSATION_LAUNCH: the entry with the highest sequence number runs, one at a time (R314). -/
def execCompensationLaunch (place : BlockPlace) (s : State) : Out :=
  match s.asc.running, s.asc.nextEntry with
  | none, some (n, a, e) =>
    match s.launch? e.part e.lid with
    | some l =>
      if s.specialFits l place then
        let id := ascentId n a
        let s1 := s.startSpecial l (.compensation id e.seq none) place (e.fn.extractLsb' 0 57)
          [(2, id), (3, e.a0), (4, e.a1), (5, e.seq)]
        .next { s1 with asc := { s1.asc with running := some (place.core, place.entry) } }
      else .next s
    | none => .next s
  | _, _ => .next s

/-- The owner block of a grounded ascent, at the place that its compensation leaves (R315, R365). -/
def State.startOwner (s : State) (p : BlockPlace) (id : DWord) (a : Ascent) (seq : DWord) (code : BitVec 16) :
    State :=
  match (if a.handler = 0 then none else s.launch? a.part a.lid) with
  | none => s
  | some l =>
    let s1 := s.startSpecial l (.owner id) p (a.handler.extractLsb' 0 57)
      [(2, id), (3, seq), (4, code.setWidth 64)]
    s1.modFibre p.core (4 * p.slot) (fun x => { x with sys := { x.sys with trapCause := 0x14 } })

/-- The place of a block. -/
def Block.place (k : Block) (c b : Nat) : BlockPlace :=
  { core := c, slot := k.slot0, rbase := k.rbase, depth := k.scrb, entry := b }

/-- COMPENSATION_EXIT: a compensation block has ended: its entry is popped, or its ascent is grounded and
the owner block starts (R314, R315). -/
def execCompensationExit (core block : Nat) (s : State) : Out :=
  let k := s.block core block
  match k.role with
  | .compensation id seq failed =>
    if !s.blockDone core block ∨ k.stage ≠ .running then .next s
    else
      let s1 := s.releaseBlock core block
      let s2 := { s1 with asc := { s1.asc with running := none } }
      match s2.asc.find id with
      | none => .next s2
      | some a =>
        if a.stage ≠ .ripping then .next s2
        else
          match failed with
          | none =>
            let rest := a.stack.filter (fun e => e.seq != seq)
            let asc' := if rest.isEmpty then s2.asc.close id a .done else s2.asc.put id { a with stack := rest }
            .next { s2 with asc := asc' }
          | some code =>
            let s3 := { s2 with asc := s2.asc.put id { a with stage := .grounded } }
            .next (s3.startOwner (k.place core block) id a seq code)
  | _ => .next s

end Sys2Proof.Machine
end

