-- ==== Sys2Proof/Machine/Saves.lean ====
section
/-! DEFINITION. Save areas of blocks and save records of fibres (R85, R381, R396, R406). -/

namespace Sys2Proof.Machine

/-- Bytes that a save writes and whose layout the spec does not give: free values. -/
def freeBytes (n count : Nat) : List PByte :=
  (List.range count).map (fun i => ((Config.free32 n i).setWidth 8, false))
/-- Clean bytes of a number. -/
def plainBytes (n x : Nat) : List PByte := pbytes n x false
/-- Writes bytes with their poison to physical memory. -/
def State.writeImage (s : State) (a : Nat) (bs : List PByte) : State :=
  s.putAll (putsOfBytes (bs.length + 1) [{ addr := a, len := bs.length, por := false }] bs) .clear

/-! ### The block save area (R406) -/

/-- Slots that a block has claimed, in ascending order. -/
def CoreState.claimsOf (k : CoreState) (b : Nat) : List Nat :=
  (List.range 128).filter (fun n => Tab.get 0 k.mem.claims n == b + 1)
/-- Words of the cells, depth by depth, cell by cell. -/
def CoreState.depthImage (k : CoreState) (lo n : Nat) : List PByte :=
  (List.range n).flatMap (fun d => allLanes.flatMap (fun i => wordBytes (k.cell i (lo + d))))
/-- The registers of the shared window of a slot. -/
def Slot.windowImage (x : Slot) (base cnt : Nat) : List PByte :=
  (List.range (16 * cnt)).flatMap (fun r =>
    allLanes.flatMap (fun i => wordBytes (Tab.get PW.zero x.window (64 * (48 + 16 * base + r) + i))))
/-- Bytes of the header whose layout the model fixes: magic, version, SROWS, D, marks, claims. (DESIGN CHOICE: log entry 67) -/
def saveHeader (srows depth marks : Nat) (claims : List Nat) : List PByte :=
  plainBytes 4 0x4B425352 ++ plainBytes 2 1 ++ plainBytes 2 srows ++ plainBytes 2 depth ++ plainBytes 2 0 ++
  plainBytes 4 marks ++ plainBytes 16 (claims.foldl (fun m n => m + 2 ^ n) 0)
/-- The save area of a block; `n` selects the free values. (DESIGN CHOICE: log entry 67) -/
def CoreState.blockImage (k : CoreState) (b depth n : Nat) : List PByte :=
  let e := k.block b
  let claims := k.claimsOf b
  saveHeader e.srows depth k.mem.marks.toNat claims ++ freeBytes n 224 ++
  k.depthImage e.scrb e.srows ++ k.depthImage e.pdepth depth ++
  claims.flatMap (fun c => k.slotImage c) ++
  (if e.acc then (List.range 16).flatMap (fun t => k.tileImage t) else []) ++
  freeBytes (n + 1) (8192 + 32768) ++
  (List.range e.slots).flatMap (fun j =>
    (k.slot (e.slot0 + j)).windowImage e.winBase e.winCnt ++ freeBytes (n + 2 + j) 16400)

/-- The parts of a table of fibres that belong to a block, by relative fibre. -/
def fromSlot {α : Type} (e : Block) (t : Tab α) : Tab α :=
  (t.filter (fun x => decide (4 * e.slot0 ≤ x.1) && decide (x.1 < 4 * (e.slot0 + e.slots)))).map
    (fun x => (x.1 - 4 * e.slot0, x.2))
def toSlot {α : Type} (e : Block) (t : Tab α) : Tab α := t.map (fun x => (x.1 + 4 * e.slot0, x.2))

/-- What the save of a block keeps beside its area. (DESIGN CHOICE: log entry 67) -/
def CoreState.sideSave (k : CoreState) (b : Nat) : SavedBlock :=
  let e := k.block b
  { block := e, scrolls := fromSlot e k.eng.scrolls, pools := fromSlot e k.eng.pools,
    carry := fromSlot e k.eng.carry, cells := k.mem.cells, tiles := k.mem.tiles,
    window := (List.range e.slots).flatMap (fun j =>
      (k.slot (e.slot0 + j)).window.map (fun x => (65536 * j + x.1, x.2))),
    queues := (List.range e.slots).map (fun j => (j, (k.slot (e.slot0 + j)).queues)) }

/-- The blocks of a plane are all parked, or further on (R405). -/
def State.planeParked (s : State) (c b : Nat) : Bool :=
  match s.launchOf c b with
  | some l =>
    l.depth == 0 || (s.residentBlocks l).all (fun e =>
      [BlockStage.parked, .saving, .saved].contains (s.block e.1 e.2).stage)
  | none => true
/-- The plane depth of a block. -/
def State.depthOf (s : State) (c b : Nat) : Nat :=
  match s.launchOf c b with
  | some l => l.depth
  | none => 0

/-- BLOCK_SAVE: the save area of a parked block is written (R406). -/
def execBlockSave (core block : Nat) (s : State) : Out :=
  let k := s.block core block
  if k.stage ≠ .parked then .next (s.refuseCommand core)
  else if !s.planeParked core block then .next s
  else
    let a := bitsAt k.save 8 44 * 256
    let s1 := s.writeImage a ((s.core core).blockImage block (s.depthOf core block) s.fresh)
    let s2 := { s1 with fresh := s1.fresh + 2 + k.slots,
                        savedBlocks := Tab.set none s1.savedBlocks a (some ((s.core core).sideSave block)) }
    .next (s2.setStage core block .saving true)

/-- A word read back from an area: its poison from the side save where there is one. -/
def Memory.savedWord (m : Memory) (a : Nat) (side : Option PW) : PW :=
  ⟨BitVec.ofNat 32 (m.num a 4), match side with
    | some w => w.poison
    | none => m.poisoned a⟩

/-- Reads cells back. -/
def CoreState.restoreDepths (k : CoreState) (m : Memory) (a lo n : Nat) (side : Option (Tab PW)) (sideLo : Nat) :
    CoreState :=
  (List.range n).foldl (fun k d => k.presentCells.foldl (fun k i =>
    k.setCell i (lo + d) (m.savedWord (a + 256 * d + 4 * i)
      (side.map (fun t => Tab.get PW.zero t (4096 * i + sideLo + d))))) k) k
/-- Bytes with their poison. -/
def Memory.image (m : Memory) (a n : Nat) : List PByte :=
  (List.range n).map (fun j => (m.byte (a + j), m.poisoned (a + j)))

/-- Reads the parts of a save area into the core of an entry. -/
def CoreState.restoreBlock (k : CoreState) (m : Memory) (a b depth : Nat) (side : Option SavedBlock) :
    CoreState :=
  let e := k.block b
  let claims := (List.range 128).filter (fun n => (m.num (a + 16) 16).testBit n)
  let scr := a + 256
  let pl := scr + 256 * e.srows
  let sl := pl + 256 * depth
  let ti := sl + slotSpace * claims.length
  let wi := ti + (if e.acc then 262144 else 0) + 8192 + 32768
  let cells := side.map (fun x => x.cells)
  let old := (side.map (fun x => x.block)).getD e
  let k1 := (k.restoreDepths m scr e.scrb e.srows cells old.scrb).restoreDepths m pl e.pdepth depth cells old.pdepth
  let k2 := claims.zipIdx.foldl (fun k c => k.modMem (fun x =>
    { x.writeSlot (slotSpace * c.1) (m.image (sl + slotSpace * c.2) slotSpace) with
      claims := Tab.set 0 x.claims c.1 (b + 1) })) k1
  let k3 := if e.acc then
      (List.range 16).foldl (fun k t => k.modMem (fun x => x.setTile t ((List.range 4096).map (fun j =>
        m.savedWord (ti + 16384 * t + 4 * j) (side.map (fun y => Tab.get PW.zero y.tiles (4096 * t + j)))))))
        (k2.modMem (fun x => { x with marks := (x.marks &&& 0x30000) |||
                                (BitVec.ofNat 18 (m.num (a + 12) 4) &&& 0xFFFF) }))
    else k2
  let size := 4096 * e.winCnt + 16400
  let k4 := (List.range e.slots).foldl (fun k j =>
    let x := k.slot (e.slot0 + j)
    let regs := (List.range (16 * e.winCnt)).flatMap (fun r => allLanes.map (fun i =>
      let key := 64 * (48 + 16 * e.winBase + r) + i
      (key, m.savedWord (wi + size * j + 256 * r + 4 * i)
        (side.map (fun y => Tab.get PW.zero y.window (65536 * j + key))))))
    k.setSlot (e.slot0 + j) { x with
      window := Tab.setAll PW.zero [] regs,
      queues := match side with
        | some y => ((y.queues.find? (fun q => q.1 == j)).map (fun q => q.2)).getD []
        | none => x.queues }) k3
  match side with
  | some y =>
    { k4.setBlock b { e with nodes := y.block.nodes, role := y.block.role } with
      eng := { k4.eng with
        scrolls := Tab.setAll none k4.eng.scrolls (toSlot e y.scrolls),
        pools := Tab.setAll none k4.eng.pools (toSlot e y.pools),
        carry := Tab.setAll none k4.eng.carry (toSlot e y.carry) } }
  | none => k4

/-- The block is in its place again, for its pair and for its ascent. -/
def State.rejoinRole (s : State) (c b : Nat) : State :=
  match (s.block c b).role with
  | .lead p =>
    (s.setPair p { s.pair p with lead := (c, b) }).modCore c (fun k => k.joinPair (s.pair p).trail.1 1)
  | .trail p =>
    (s.setPair p { s.pair p with trail := (c, b) }).modCore c (fun k => k.joinPair (s.pair p).lead.1 2)
  | .compensation _ _ _ => { s with asc := { s.asc with running := some (c, b) } }
  | _ => s

/-- A fibre of a restored block before its own record is restored. -/
def State.blankFibre (s : State) (c b j f : Nat) : Fibre :=
  let present := match s.launchOf c b with
    | some l => executingLanes (s.insideLanes c b l) (s.core c).holes
    | none => 0
  let inside := match s.launchOf c b with
    | some l => s.insideLanes c b l
    | none => 0
  { Fibre.absent with block := b, bslot := j, index := f, present := present, helpers := present &&& ~~~inside }

/-- BLOCK_RESTORE: a save area is read into an empty entry whose bind records have been written (R406). (DEDUCED: log entry 68) -/
def execBlockRestore (core block : Nat) (s : State) : Out :=
  let k := s.block core block
  let a := bitsAt k.save 8 44 * 256
  let depth := s.depthOf core block
  let good := s.mem.num a 4 == 0x4B425352 && s.mem.num (a + 4) 2 == 1 && s.mem.num (a + 6) 2 == k.srows &&
    s.mem.num (a + 8) 2 == depth
  if k.stage ≠ .empty ∨ !k.taken ∨ !good then .next (s.refuseCommand core)
  else
    let side := Tab.get none s.savedBlocks a
    let s1 := s.modCore core (fun x => x.restoreBlock s.mem a block depth side)
    let s2 := (List.range (4 * k.slots)).foldl (fun t n =>
      if n % 4 < k.fibres then
        t.setFibre core (4 * k.slot0 + n) (t.blankFibre core block (n / 4) (n % 4))
      else t) s1
    .next ((s2.rejoinRole core block).setStage core block .restoring true)

/-- BLOCK_COMMAND_COMPLETE: a save or a restore has finished (R396). -/
def execBlockCommandComplete (core block : Nat) (s : State) : Out :=
  match (s.block core block).stage with
  | .saving => .next (s.setStage core block .saved false)
  | .restoring => .next (s.setStage core block .parked false)
  | _ => .next s

/-! ### The fibre save record (R381) -/

/-- A fibre that `FXCMD` may act on: frozen, stopped, or of a parked block. -/
def State.mayMove (s : State) (c f : Nat) : Bool :=
  let x := s.fibre c f
  let st := (s.block c x.block).stage
  (match x.run with
   | .frozen _ => true
   | .stopped => true
   | _ => false) || st == .parked
/-- State and wait kind in the header: codes of the model. -/
def Run.code : Run → Nat
  | .running => 0
  | .frozen _ => 1
  | .stopped => 2
  | .exited => 3
def Wait.code : Wait → Nat
  | .none => 0
  | .regang => 1
  | .tret => 2
  | .fbar => 3
  | .barrier _ _ => 4
  | .mwait _ _ _ => 5
  | .arrivals _ => 6
  | .flags _ => 7
  | .pop _ => 8
  | .push _ => 9
  | .xacq _ _ _ _ => 10
  | .stall => 11
  | .heldExit => 12
  | .entering => 13
  | .resuming => 14
  | .checkpoint => 15

/-- The lane words of a register of a file. -/
def laneImage (t : Tab PW) (r : Nat) : List PByte :=
  allLanes.flatMap (fun i => wordBytes (Tab.get PW.zero t (64 * r + i)))
/-- The fill cursor in 16 bits: slot, row, valid. -/
def cursorBits (c : Option (Nat × Nat)) : Nat :=
  match c with
  | some (n, r) => n % 128 + 128 * (r % 32) + 32768
  | none => 0
/-- The header of a record. (DESIGN CHOICE: log entry 67) -/
def Fibre.recordHeader (x : Fibre) (closed : BitVec 4) (spill : Nat) : List PByte :=
  let q (n : Nat) : Nat := (Tab.get [] x.eq.recs n).length
  let wait := match x.quads.find? (fun e => !e.2.ended) with
    | some e => e.2.wait.code
    | none => 0
  plainBytes 4 0x4B465352 ++ plainBytes 2 1 ++ plainBytes 1 x.run.code ++ plainBytes 1 wait ++
  plainBytes 2 x.regs.units.toNat ++ plainBytes 2 (cursorBits x.lq.cursor) ++
  plainBytes 1 (q 0) ++ plainBytes 1 (q 1) ++ plainBytes 1 (q 2) ++ plainBytes 1 (q 3) ++
  plainBytes 1 x.lq.q4.length ++ plainBytes 1 x.lq.q5.length ++ plainBytes 1 x.lq.q12.length ++
  plainBytes 1 x.lq.q13.length ++ plainBytes 1 closed.toNat ++ plainBytes 11 0 ++ plainBytes 8 spill ++
  plainBytes 216 0
/-- The lanes that wait for the fall-through path of a quad's top record. -/
def Quad.pending (y : Quad) : LaneMask :=
  match y.stack with
  | r :: _ => r.pend
  | [] => 0
/-- A fibre save record; `n` selects the free values of the parts whose layout the spec leaves open. (DESIGN CHOICE: log entry 67) -/
def Fibre.saveImage (x : Fibre) (closed : BitVec 4) (spill n : Nat) : List PByte :=
  let w (v : Nat) : List PByte := plainBytes 8 v
  let y := x.sys
  x.recordHeader closed spill ++
  (List.range 64).flatMap (fun i => pbytes 8 (x.scalar i).bits.toNat (x.scalar i).poison) ++
  w y.chki.toNat ++ w y.satc.toNat ++ w y.sprog.toNat ++ w y.arrivals.toNat ++ w y.trapCause.toNat ++
  w y.trapPc.toNat ++ w y.trapLanes.toNat ++ w y.dead.toNat ++
  (List.range 12).flatMap (fun i => plainBytes 2 (x.flag i)) ++ plainBytes 40 0 ++
  (List.range 16).flatMap (fun i => w (x.pred i).toNat) ++
  (List.range 16).flatMap (fun q =>
    let z := x.quad q
    w z.pc.toNat ++ w z.active.toNat ++ w z.pending.toNat ++ w z.region.toNat) ++
  freeBytes n 4096 ++
  allLanes.flatMap (fun i => plainBytes 4 (Tab.get 0 y.rseed i).toNat) ++
  (List.range 16).flatMap (fun r => laneImage x.regs.h r) ++
  (List.range 4).flatMap (fun q => (List.range 16).flatMap (fun j => w ((Tab.get [] x.eq.recs q).getD j 0).toNat)) ++
  freeBytes (n + 1) 16384 ++
  (List.range 48).flatMap (fun r => laneImage x.regs.v r)

/-- FIBRE_SAVE: the record of a frozen, stopped or parked fibre is written at `FXADDR`. -/
def execFibreSave (core fib : Nat) (s : State) : Out :=
  let k := s.core core
  let x := k.fibre fib
  if k.regs.fxbusy then .next s
  else if !s.mayMove core fib then
    .next (s.setCore core { k with regs := { k.regs with fxresult := 1 } })
  else
    let a := bitsAt k.regs.fxaddr.toNat 8 44 * 256
    let s1 := s.writeImage a (x.saveImage (k.slot (fib / 4)).closed a s.fresh)
    let units := (List.range 12).filter (fun u => x.regs.units.getLsbD u)
    let s2 := units.foldl (fun t u => t.writeImage (a + 0x9900 + 0x1000 * u)
      ((List.range 16).flatMap (fun r => laneImage x.regs.v (48 + 16 * u + r)))) s1
    .next ({ s2 with fresh := s2.fresh + 2, savedFibres := Tab.set none s2.savedFibres a (some x) }.modCore core
      (fun k => { k with regs := { k.regs with fxbusy := true, fxresult := 0 } }))

/-- The header, the pool and the reserved bytes of a record are in order. (DEDUCED: log entry 68) -/
def State.recordGood (s : State) (c f a : Nat) : Bool :=
  let m := s.mem
  let units := BitVec.ofNat 12 (m.num (a + 8) 2)
  let own := popCount 12 (s.fibre c f).regs.units.toNat
  m.num a 4 == 0x4B465352 && m.num (a + 4) 2 == 1 && decide (m.num (a + 8) 2 < 4096) &&
  decide (popCount 12 units.toNat ≤ (s.core c).freeUnits + own) &&
  m.num (a + 40) 216 == 0 && m.num (a + 0x358) 40 == 0

/-- Lane words read back, with the poison of the fibre kept beside the record. -/
def Memory.lanesAt (m : Memory) (a r : Nat) (side : Option (Tab PW)) : List (Nat × PW) :=
  allLanes.map (fun i => (64 * r + i, m.savedWord (a + 4 * i) (side.map (fun t => Tab.get PW.zero t (64 * r + i)))))

/-- The fibre that a record holds. (DESIGN CHOICE: log entry 67) -/
def Memory.fibreAt (m : Memory) (a : Nat) (here : Fibre) (side : Option Fibre) : Fibre :=
  let old := side.getD here
  let d (o : Nat) : Nat := m.num (a + o) 8
  let units := BitVec.ofNat 12 (m.num (a + 8) 2)
  let v := side.map (fun x => x.regs.v)
  let unitRegs := ((List.range 12).filter (fun u => units.getLsbD u)).flatMap (fun u =>
    (List.range 16).flatMap (fun r => m.lanesAt (a + 0x9900 + 0x1000 * u + 256 * r) (48 + 16 * u + r) v))
  let regs : RegFile :=
    { s := Tab.setAll PX.zero [] (((List.range 64).drop 1).map (fun i =>
        (i, ⟨BitVec.ofNat 64 (d (0x100 + 8 * i)), match side with
              | some x => (x.scalar i).poison
              | none => m.poisoned (a + 0x100 + 8 * i)⟩))),
      v := Tab.setAll PW.zero [] ((List.range 48).flatMap (fun r => m.lanesAt (a + 0x6900 + 256 * r) r v) ++ unitRegs),
      p := Tab.setAll 0 [] (((List.range 15).drop 1).map (fun i => (i, BitVec.ofNat 64 (d (0x380 + 8 * i))))),
      h := Tab.setAll PW.zero [] ((List.range 16).flatMap (fun r =>
        m.lanesAt (a + 0x1700 + 256 * r) r (side.map (fun x => x.regs.h)))),
      units := units }
  let sys : FibreRegs :=
    { chki := BitVec.ofNat 32 (d 0x300), satc := BitVec.ofNat 32 (d 0x308), sprog := BitVec.ofNat 64 (d 0x310),
      arrivals := BitVec.ofNat 16 (d 0x318), trapCause := BitVec.ofNat 8 (d 0x320),
      trapPc := BitVec.ofNat 57 (d 0x328), trapLanes := BitVec.ofNat 64 (d 0x330), dead := BitVec.ofNat 64 (d 0x338),
      rseed := Tab.setAll 0 [] (allLanes.map (fun i => (i, BitVec.ofNat 32 (m.num (a + 0x1600 + 4 * i) 4)))) }
  let quads := Tab.setAll Quad.off [] ((List.range 16).map (fun q =>
    let lanes := BitVec.ofNat 64 (d (0x408 + 32 * q))
    let z := match side with
      | some x => x.quad q
      | none => { Quad.off with regionActive := lanes, ended := lanes == 0, mustRgn := true }
    (q, { z with pc := BitVec.ofNat 57 (d (0x400 + 32 * q)), active := BitVec.ofNat 64 (d (0x408 + 32 * q)),
                 region := BitVec.ofNat 57 (d (0x418 + 32 * q)) })))
  let recs := Tab.setAll [] [] ((List.range 4).map (fun q =>
    (q, (List.range (m.num (a + 12 + q) 1)).map (fun j => BitVec.ofNat 64 (d (0x2700 + 128 * q + 8 * j))))))
  { old with
    run := match side with
      | some x => x.run
      | none => if m.num (a + 6) 1 = 2 then .stopped else if m.num (a + 6) 1 = 3 then .exited else .running,
    block := here.block, bslot := here.bslot, index := here.index, regs := regs, sys := sys, quads := quads,
    flags := Tab.setAll 0 [] ((List.range 12).map (fun i => (i, m.num (a + 0x340 + 2 * i) 2))),
    eq := { old.eq with recs := recs }, helpers := here.helpers, present := here.present }

/-- FIBRE_RESTORE: a record at `FXADDR` is read back into a fibre (R381). (DEDUCED: log entry 68) -/
def execFibreRestore (core fib : Nat) (s : State) : Out :=
  let k := s.core core
  if k.regs.fxbusy then .next s
  else if !s.mayMove core fib then
    .next (s.setCore core { k with regs := { k.regs with fxresult := 1 } })
  else
    let a := bitsAt k.regs.fxaddr.toNat 8 44 * 256
    if !s.recordGood core fib a then
      .next (s.setCore core { k with regs := { k.regs with fxresult := 2 } })
    else
      let x := s.mem.fibreAt a (k.fibre fib) (Tab.get none s.savedFibres a)
      .next ((s.setFibre core fib x).modCore core
        (fun k => { k with regs := { k.regs with fxbusy := true, fxresult := 0 } }))

/-- FIBRE_SAVE_RECORD_DONE: the save or restore in progress has ended, and BUSY clears. -/
def execFibreSaveRecordDone (core : Nat) (s : State) : Out :=
  .next (s.modCore core (fun k => { k with regs := { k.regs with fxbusy := false } }))

end Sys2Proof.Machine
end

