-- ==== Sys2Proof/Machine/Actions.lean ====
section
/-! DEFINITION. Completions of long-latency operations, waking, handlers, fibre actions of firmware and
of a debugger (R178, R314, R345 to R353, R377 to R384). -/

namespace Sys2Proof.Machine

/-! ### Completions and waking (R31, R90, R314) -/

/-- LONG_LATENCY_COMPLETION: an operation that has been performed completes, and its flag counts one less;
that of an `ascr` completes once its ascent no longer rips (R90, R314). (DEDUCED: log entry 9) -/
def execLongLatencyCompletion (core fib index : Nat) (s : State) : Out :=
  let x := s.fibre core fib
  let done (n : Nat) : Out :=
    .next (s.setFibre core fib ({ x with ops := x.ops.eraseIdx index }.decFlag n))
  match x.ops[index]? with
  | some (.access n) => done n
  | some (.rip n id) =>
    match s.asc.find id with
    | some e => if e.stage = .ripping then .next s else done n
    | none => done n
  | none => .next s

/-- What a quad of a fibre waits for has come: it goes past `bars` or `barw`, or issues its instruction
again. -/
def State.wakes (s : State) (c f : Nat) (w : Wait) : Bool :=
  let x := s.fibre c f
  let t := { s with focus := ⟨c, f, 0⟩ }
  match w with
  | .barrier n phase => s.barrierOpen c f n phase
  | .arrivals n => decide (n ≤ x.sys.arrivals.toNat)
  | .flags m => x.flagsClear m
  | .pop q => t.queueLength q != 0 || t.orphanPop q
  | .push q =>
    (match t.checkPush q 0 with
     | .block _ => false
     | _ => true)
  | _ => false
/-- A quad of a fibre wakes. -/
def Quad.wake (y : Quad) : Quad :=
  match y.wait with
  | .barrier _ _ => { y.advance (nextPc y.pc 3) true with wait := .none }
  | _ => { y with wait := .none, again := true }
/-- The quads of a fibre that may wake. -/
def State.waking (s : State) (c f : Nat) : List Nat :=
  let x := s.fibre c f
  (List.range 16).filter (fun q => !(x.quad q).ended && s.wakes c f (x.quad q).wait)
/-- FIBRE_WAKE: the quads of a fibre whose waits are over are ready again (R31, R33, R257, R273). -/
def execFibreWake (core fib : Nat) (s : State) : Out :=
  .next (s.modFibre core fib (fun x =>
    (s.waking core fib).foldl (fun x q => x.setQuad q (x.quad q).wake) x))

/-! ### Handlers (R178, R351) -/

/-- The quads that wait for one thing go on. -/
def Fibre.clearWait (x : Fibre) (w : Wait) : Fibre :=
  { x with quads := x.quads.map (fun e => (e.1, if e.2.wait == w then { e.2 with wait := .none } else e.2)) }
/-- USER_HANDLER_ENTRY: the handler's first header may issue. -/
def execUserHandlerEntry (core fib : Nat) (s : State) : Out :=
  .next (s.modFibre core fib (fun x => x.clearWait .entering))
/-- TRET_RESUME: the gangs that the handler held may issue. -/
def execTretResume (core fib : Nat) (s : State) : Out :=
  .next (s.modFibre core fib (fun x => x.clearWait .resuming))

/-- EVENT_RECORD_RELEASE: held events enter the queue as far as it has room (R377). -/
def execEventRecordRelease (core : Nat) (s : State) : Out :=
  .next (s.releaseEvents core ((s.core core).heldEvents.length + 1))

/-! ### Actions of firmware (R378, R379) -/

/-- A `FACT` write that has no effect (R376). (DEDUCED: log entry 84) -/
def State.refuseAction (s : State) (c : Nat) : State := s.refuseCommand c
/-- A fibre is a copy of a pair. -/
def State.paired (s : State) (c f : Nat) : Bool := !s.isAlone c f

/-- The quads of the trapping gang restart at their region starts; those of a pair issue again where they
stand, since their entries are counted. (DEDUCED: log entry 65) -/
def Fibre.replay (x : Fibre) (paired : Bool) : Fibre :=
  ({ x with run := .running, frozenQuads := 0 }).modQuads x.frozenQuads (fun _ y =>
    if paired then { y with wait := .none } else y.restart x.sys.dead)
/-- A fibre that is frozen for 0x06, or for a lane residue failure, restarts (R379, R435). -/
def State.replayFibre (s : State) (c f : Nat) : State :=
  if (s.fibre c f).run.replayable then s.modFibre c f (fun x => x.replay (s.paired c f)) else s
def execReplay (core fib : Nat) (s : State) : Out :=
  if (s.fibre core fib).run.replayable then .next (s.replayFibre core fib)
  else .next (s.refuseAction core)

/-- The address, the lanes (none for a scalar instruction, R155) and the parcels of the instruction
that froze a fibre for 0x02. -/
def State.frozenAt (s : State) (c f : Nat) : Option (VAddr × LaneMask × Nat) :=
  let x := s.fibre c f
  let pc := (x.quad ((quadsIn x.frozenQuads).headD 0)).pc
  match s.fetchAt c (s.ctxOf c x.block) pc with
  | .parcels ps =>
    some (pc, if ps.length ≤ 2 then 0 else x.activeIn x.frozenQuads, ps.length)
  | _ => none
/-- NEXT: the gang goes on after the instruction (R178, R379). -/
def execNext (core fib : Nat) (s : State) : Out :=
  let x := s.fibre core fib
  if x.run ≠ Run.frozen 0x02 then .next (s.refuseAction core)
  else
    match s.frozenAt core fib with
    | some (pc, _, n) =>
      .next (s.setFibre core fib (({ x with run := .running, frozenQuads := 0 }).modQuads x.frozenQuads
        (fun _ y => y.advance (nextPc pc n) false)))
    | none => .next s
/-- USER: the instruction raises a user trap (R126, R379). -/
def execUser (core fib : Nat) (ucause : BitVec 8) (s : State) : Out :=
  let x := s.fibre core fib
  if x.run ≠ Run.frozen 0x02 then .next (s.refuseAction core)
  else
    match s.frozenAt core fib with
    | some (pc, lanes, n) =>
      let y := x.quad ((quadsIn x.frozenQuads).headD 0)
      .next ((s.setFibre core fib { x with run := .running, frozenQuads := 0 }).userTrap core fib x.frozenQuads
        ucause pc lanes (nextPc pc n) (y.within (nextPc pc n)))
    | none => .next s
/-- KILL: the fibre ends (R37, R174). (DEDUCED: log entry 84) -/
def execKill (core fib : Nat) (s : State) : Out :=
  if (s.fibre core fib).resident then .next (s.endFibre core fib) else .next (s.refuseAction core)

/-- How a launch ends that ABORT ends: by the trap that froze the fibre, else by firmware (R347, R354, R393). -/
def State.abortInfo (s : State) (c f : Nat) (code : BitVec 16) : EndInfo :=
  let x := s.fibre c f
  let k := s.block c x.block
  let trap (e : Nat) (cause cause2 : BitVec 8) : EndInfo :=
    { endCode := e, abcode := code, blockX := k.bx, blockY := k.by', slot := x.bslot, fibre := x.index,
      cause := cause, cause2 := cause2, pc := x.sys.trapPc, lanes := x.sys.trapLanes }
  match x.run with
  | .frozen cause =>
    if cause = 0x13 then
      trap 3 (match x.handler with
        | some h => h.cause
        | none => 0) x.second
    else if cause = 0x02 ∨ cause = 0x06 ∨ cause = 0x81 then EndInfo.plain 4 code
    else trap 2 cause 0
  | _ => EndInfo.plain 4 code
/-- ABORT: the work of the fibre ends (R179, R347, R364, R379). (DEDUCED: log entry 84) -/
def execAbort (core fib : Nat) (code : BitVec 16) (s : State) : Out :=
  if (s.fibre core fib).resident then .next (s.abortWork core fib (s.abortInfo core fib code))
  else .next (s.refuseAction core)

/-! ### Stopping, resuming, stepping (R383, R384) -/

/-- A stopped fibre resumes. (DESIGN CHOICE: log entry 86) -/
def Fibre.resume (x : Fibre) : Fibre :=
  if x.run = Run.stopped then { x with run := .running, skipBreak := true, stopSoon := none, stepping := 0 } else x
def execCont (core fib : Nat) (s : State) : Out :=
  if (s.fibre core fib).run = Run.stopped then .next (s.modFibre core fib Fibre.resume)
  else .next (s.refuseAction core)

/-- A quad may issue, or stalls before its instruction. -/
def Quad.canStep (y : Quad) : Bool := !y.ended && (y.wait == .none || y.wait == .stall)
/-- The quads that a handler leaves to the fibre. -/
def Fibre.allowed (x : Fibre) (q : Nat) : Bool :=
  match x.handler with
  | some h => h.quads.getLsbD q
  | none => true
/-- The steppable quads of a fibre (R384). -/
def Fibre.steppable (x : Fibre) : List Nat :=
  (List.range 16).filter (fun q => (x.quad q).canStep && x.allowed q)
/-- The gang of a quad: the quads of a list that stand where it stands (R18). -/
def Fibre.gangIn (x : Fibre) (qs : List Nat) (q : Nat) : QuadMask :=
  quadsOf (fun m => qs.contains m && (x.quad m).pc == (x.quad q).pc && (x.quad m).inClause == (x.quad q).inClause)
/-- A stopped fibre begins a step of some quads. -/
def Fibre.beginStep (x : Fibre) (m : QuadMask) : Fibre :=
  { x with run := .running, skipBreak := true, stopSoon := some 2, stepping := m }
/-- A step of a stopped fibre: none of its gangs, or those that a choice of quads gives. -/
def State.stepFibre (s : State) (c f : Nat) (all : Bool) : State :=
  let x := s.fibre c f
  match x.steppable with
  | [] => s.stopFibre c f 5 (x.quad 0).pc 0
  | q :: rest =>
    let m := if all then quadsOf (fun n => (q :: rest).contains n) else x.gangIn (q :: rest) q
    s.setFibre c f (x.beginStep m)
def execStep (core fib : Nat) (s : State) : Out :=
  if (s.fibre core fib).run = Run.stopped then .next (s.stepFibre core fib false)
  else .next (s.refuseAction core)
def execStepall (core fib : Nat) (s : State) : Out :=
  if (s.fibre core fib).run = Run.stopped then .next (s.stepFibre core fib true)
  else .next (s.refuseAction core)
/-- STOP: the fibre stops before its next issue (R379). -/
def execStop (core fib : Nat) (s : State) : Out :=
  let x := s.fibre core fib
  if x.run = Run.running then
    .next (s.setFibre core fib { x with stopSoon := some (x.stopSoon.getD 4) })
  else .next (s.refuseAction core)

/-- DBGCTL_WRITE: clearing ATT resumes every stopped fibre (R382, R383). -/
def execDbgctlWrite (core : Nat) (value : BitVec 64) (s : State) : Out :=
  let old := (s.core core).regs.dbgctl
  let new := value &&& 0xFFFF00000000000D
  let s1 := s.modCore core (fun k => { k with regs := { k.regs with dbgctl := new } })
  if old.getLsbD 0 && !new.getLsbD 0 then
    .next (s1.modCore core (fun k => { k with fibres := k.fibres.map (fun e => (e.1, e.2.resume)) }))
  else .next s1

end Sys2Proof.Machine
end

