-- ==== Sys2Proof/Machine/Registers.lean ====
section
/-! DEFINITION. The registers that firmware writes on the control bus, emulated and failed `mma`
commands, errors in storage, the in-field scan (R376, R380, R395, R396, R399, R419, R431 to R437, R445,
R450, R452, R453, R456, R458). -/

namespace Sys2Proof.Machine

/-! ### Register writes (R376) -/

/-- The configuration record in force (R470). -/
def RootOfTrust.config (r : RootOfTrust) : ConfigRecord := if r.copy0.signatureOk then r.copy0 else r.copy1

/-- A field that reads and that a write of zero clears. (DEDUCED: log entry 51) -/
def clearedBy (value : BitVec 64) (lo n old : Nat) : Nat := if bitsAt value.toNat lo n = 0 then 0 else old

/-- A write of a core's register without a behaviour of its own. (DEDUCED: log entry 51; DESIGN CHOICE: log entry 50) -/
def CoreRegs.write (r : CoreRegs) (diagnostics : Bool) (off : Nat) (v : DWord) : CoreRegs :=
  match off with
  | 0x000 => { r with corectl := v &&& 7 }
  | 0x008 =>
    { r with facterr := r.facterr && !v.getLsbD 0, evfull := r.evfull && !v.getLsbD 1,
             suspect := r.suspect && !v.getLsbD 2 }
  | 0x100 => { r with evqbase := v &&& ~~~0x1F }
  | 0x110 => { r with evqhead := v }
  | 0x148 => { r with fxaddr := v &&& 0x000FFFFFFFFFFF00 }
  | 0x200 => { r with engsel := v &&& 0xFFFF, engIndex := bitsAt v.toNat 0 8 }
  | 0x308 =>
    { r with matched := BitVec.ofNat 32 (clearedBy v 32 32 r.matched.toNat),
             reruns := BitVec.ofNat 16 (clearedBy v 16 16 r.reruns.toNat),
             ckpts := BitVec.ofNat 16 (clearedBy v 0 16 r.ckpts.toNat) }
  | 0x500 => if diagnostics then { r with inject := v &&& 0xF0000000FFFFF000 } else r
  | 0x508 => if diagnostics then { r with injectMask := v.setWidth 32 } else r
  | _ =>
    if 0x1C0 ≤ off ∧ off ≤ 0x1D8 ∧ off % 8 = 0 then
      { r with ibka := Tab.set 0 r.ibka ((off - 0x1C0) / 8) (v &&& 0x81FFFFFFFFFFFFFF) }
    else if 0x1E0 ≤ off ∧ off ≤ 0x1F8 ∧ off % 8 = 0 then
      { r with dwa := Tab.set 0 r.dwa ((off - 0x1E0) / 8) v }
    else r

/-- A bind record ties its slot to an entry of the block table that is not running (R395). (DEDUCED: log entry 49) -/
def CoreState.bindSlot (k : CoreState) (n part : Nat) (v : DWord) : CoreState :=
  let x := v.toNat
  let b := bitsAt x 40 4
  let e := k.block b
  let bslot := bitsAt x 36 4
  let nfib := bitsAt x 34 2 + 1
  let k1 := { k with regs := { k.regs with slotbind := Tab.set 0 k.regs.slotbind n (v &&& 0xFFFF8FFCFFFFFFFF) } }
  if (k.block (k.slot n).block).stage ≠ .empty ∧ (k.slot n).bound then k1
  else if !v.getLsbD 47 then k1.setSlot n Slot.absent
  else if e.stage ≠ .empty then k1
  else
    (k1.setSlot n { Slot.absent with bound := true, block := b }).setBlock b
      { e with part := part, slot0 := n - bslot, slots := max e.slots (bslot + 1), fibres := nfib,
               rbase := bitsAt x 24 8 - 3 * nfib * bslot, scrb := bitsAt x 12 12, pdepth := bitsAt x 0 12 }

/-- A write of a word of a block table entry; a command has steps of its own (R396). (DESIGN CHOICE: log entry 50) -/
def Block.write (e : Block) (word : Nat) (v : DWord) : Block :=
  let x := v.toNat
  match word with
  | 0 => { e with lid := v.extractLsb' 32 32, by' := bitsAt x 16 16, bx := bitsAt x 0 16 }
  | 1 => { e with snap := bitsAt x 0 52 }
  | 2 => { e with srows := bitsAt x 20 12, acc := v.getLsbD 16, cy := bitsAt x 8 8, cx := bitsAt x 0 8 }
  | 4 => { e with save := bitsAt x 8 44 * 256 }
  | _ => e
/-- The shared window of an entry is that of its launch (R35). -/
def State.windowFor (s : State) (e : Block) : Block :=
  match s.launch? e.part e.lid with
  | some l => { e with winBase := l.params.winBase, winCnt := l.params.winCnt }
  | none => e

/-- A write of a cluster's power registers (R399). (DEDUCED: log entry 51; DESIGN CHOICE: log entry 50) -/
def Cluster.write (k : Cluster) (off : Nat) (v : DWord) : Cluster :=
  match off with
  | 0x00 => { k with pacnt := v.setWidth 32 }
  | 0x08 => { k with refill := v.setWidth 16 }
  | 0x10 => { k with pacap := v.setWidth 32 }
  | 0x18 => { k with step := v.extractLsb' 32 16, thi := v.setWidth 32 }
  | 0x20 => { k with wheld := BitVec.ofNat 32 (clearedBy v 0 32 k.wheld.toNat) }
  | _ => k

/-- A write of a die's registers (R419, R450). The command register is written without GO. (DEDUCED: log entry 51; DESIGN CHOICE: log entry 50) -/
def DieRegs.write (d : DieRegs) (off : Nat) (v : DWord) : DieRegs :=
  match off with
  | 0x020 => { d with ctxbase := v &&& 0x000FFFFFFFFFF000 }
  | 0x030 => { d with invva := v &&& 0x01FFFFFFFFFFF000 }
  | 0x038 => { d with invcmd := v &&& 0x0000FFFF000000FF }
  | 0x080 => { d with audbase := v &&& 0x000FFFFFFFFFF000 }
  | 0x088 => { d with audsize := v.setWidth 16 }
  | 0x090 =>
    { d with mismatch := BitVec.ofNat 32 (clearedBy v 32 32 d.mismatch.toNat),
             sampled := BitVec.ofNat 32 (clearedBy v 0 32 d.sampled.toNat) }
  | _ => d

/-- REGISTER_WRITE: selectors below 0x1000 are offsets of the core's register block; from 0x10000 on the
block table of the core, from 0x20000 on the power registers of its cluster, from 0x30000 on the
registers of its die. (DESIGN CHOICE: log entry 50) -/
def execRegisterWrite (core selector : Nat) (value : BitVec 64) (s : State) : Out :=
  if selector < 0x1000 then
    if 0x040 ≤ selector ∧ selector ≤ 0x0B8 ∧ selector % 8 = 0 then
      .next (s.modCore core (fun k => k.bindSlot ((selector - 0x40) / 8) (s.partOfCtx (value.extractLsb' 48 16)) value))
    else
      .next (s.modCore core (fun k => { k with regs := k.regs.write s.rot.config.diagnostics selector value }))
  else if 0x10000 ≤ selector ∧ selector < 0x10400 ∧ selector % 8 = 0 then
    let b := (selector - 0x10000) / 64
    .next (s.setBlock core b (s.windowFor ((s.block core b).write (selector % 64 / 8) value)))
  else if 0x20000 ≤ selector ∧ selector < 0x30000 then
    .next (s.setCluster (clusterOf core) ((s.cluster (clusterOf core)).write (selector - 0x20000) value))
  else if 0x30000 ≤ selector then
    .next (s.setDie (dieOf core) ((s.die (dieOf core)).write (selector - 0x30000) value))
  else .next s

/-! ### Emulated and failed products (R380, R436) -/

/-- The word that `ENGSEL` selects: of a slot, or of a tile from 0x80 on, the audit pair included. -/
inductive EngWord where
  | slot (addr : Nat)
  | tile (t entry : Nat)
  | nothing
  deriving DecidableEq, Repr
def CoreRegs.engWord (r : CoreRegs) : EngWord :=
  let n := bitsAt r.engsel.toNat 8 8
  if n < 128 then (if r.engIndex < 544 then .slot (slotSpace * n + 8 * r.engIndex) else .nothing)
  else if n < 128 + 18 ∧ r.engIndex < 2048 then .tile (n - 128) (2 * r.engIndex)
  else .nothing
/-- Firmware writes the selected word. (DEDUCED: log entry 54) -/
def CoreState.engWrite (k : CoreState) (v : DWord) : CoreState :=
  match k.regs.engWord with
  | .slot a => k.modMem (fun m => m.writeSlot a (pbytes 8 v.toNat false))
  | .tile t i =>
    let put (m : CoreMem) : CoreMem :=
      let es := [(4096 * t + i, PW.clean (v.setWidth 32)), (4096 * t + i + 1, PW.clean (v.extractLsb' 32 32))]
      { m with tiles := Tab.setAll PW.zero m.tiles es }
    (k.modMem put).modEng (fun g =>
      let mark (a : Accepted) : Accepted :=
        if a.held && a.cmd.tiles.contains t then { a with progress := 1 } else a
      { g with matrix := g.matrix.map mark })
  | .nothing => k
/-- ENGDATA_ACCESS: firmware reads or writes the selected word, and the index advances (R376). (DEDUCED: log entry 52) -/
def execEngdataAccess (core : Nat) (write : Option (BitVec 64)) (s : State) : Out :=
  .next (s.modCore core (fun k =>
    let k1 := match write with
      | some v => k.engWrite v
      | none => k
    { k1 with regs := { k1.regs with engIndex := k1.regs.engIndex + 1 } }))

/-- The oldest held `mma` that nothing accepted earlier holds up. (DESIGN CHOICE: log entry 53) -/
def Engines.heldMma (g : Engines) : Option Accepted :=
  g.matrix.find? (fun a => a.held && g.matrix.all (fun b => decide (a.seq ≤ b.seq) || !a.cmd.after b.cmd))
/-- ENGDONE: the held command ends (R380, R436); where firmware has not written its tile, the result
that firmware computes is that of the product. (DESIGN CHOICE: log entry 53) -/
def execEngdone (core : Nat) (_value : BitVec 64) (s : State) : Out :=
  match (s.core core).eng.heldMma with
  | some a => .next (s.finishMma core a (a.progress == 0))
  | none => .next s

/-- MATRIX_RESIDUE_FAILURE: an `mma` whose retry also mismatched is held for firmware (R436). (DESIGN CHOICE: log entry 55) -/
def execMatrixResidueFailure (core : Nat) (s : State) : Out :=
  let k := s.core core
  let ready := k.eng.matrix.find? (fun a => a.cmd.op == 0x122 && !a.held &&
    k.eng.matrix.all (fun b => decide (a.seq ≤ b.seq) || !a.cmd.after b.cmd))
  match ready with
  | some a =>
    let hold (b : Accepted) : Accepted := if b.seq = a.seq then { b with held := true } else b
    let s1 := s.setCore core ({ k.count 25 with
      eng := { k.eng with matrix := k.eng.matrix.map hold }, regs := { k.regs with suspect := true } })
    .next (s1.postEvent core a.fib 0x82 false a.cmd.pc 0 (matrixDetail a.cmd))
  | none => .next s

/-! ### Errors in storage (R431 to R433) -/

/-- The counter of a corrected error in a structure (R456). -/
def eccCounter : EccPlace → Nat
  | .laneReg _ _ _ _ => 17
  | .handlerReg _ _ _ _ => 17
  | .cell _ _ _ => 18
  | .slot _ _ _ => 19
  | .tile _ _ _ => 20
  | .icache _ => 21
  | .home _ _ => 23
  | .hbm _ _ _ _ => 23
  | .laneAlu _ _ => 24
/-- A word is poisoned in place. -/
def poisonAt (t : Tab PW) (n : Nat) : Tab PW := Tab.set PW.zero t n ⟨(Tab.get PW.zero t n).bits, true⟩
/-- A word of a lane register of a fibre is poisoned, in its own file or in its slot's window. -/
def State.poisonLane (s : State) (c f r i : Nat) : State :=
  if (s.block c (s.fibre c f).block).inWindow r then
    s.setSlot c (f / 4) { s.slot c (f / 4) with window := poisonAt (s.slot c (f / 4)).window (64 * r + i) }
  else s.modFibre c f (fun x => { x with regs := { x.regs with v := poisonAt x.regs.v (64 * r + i) } })
/-- A granule of memory is poisoned. -/
def State.poisonGranule (s : State) (a : Nat) : State :=
  { s with mem := s.mem.markPoison (a / 32 * 32) 32 true }
/-- Adds to an error count of a stack's channel (R456). -/
def countChannel (t : Tab DWord) (stack channel : Nat) : Tab DWord :=
  let n := 64 * stack + channel
  Tab.set 0 t n (BitVec.ofNat 64 (min (2 ^ 64 - 1) ((Tab.get 0 t n).toNat + 1)))
/-- The cores of a cluster. (DEDUCED: log entry 73) -/
def coresOf (k : Nat) : List Nat := (List.range 784).filter (fun c => clusterOf c == k)

/-- An error that the code corrects changes no visible state and is counted (R431, R456). -/
def State.corrected (s : State) (p : EccPlace) : State :=
  let on (c : Nat) : State := s.modCore c (fun k => k.count (eccCounter p))
  match p with
  | .laneReg c _ _ _ => on c
  | .handlerReg c _ _ _ => on c
  | .cell c _ _ => on c
  | .slot c _ _ => on c
  | .tile c _ _ => on c
  | .icache c => on c
  | .home k _ => (coresOf k).foldl (fun t c => t.modCore c (fun x => x.count 23)) s
  | .hbm d st ch _ => s.setDie d { s.die d with hbmCorrected := countChannel (s.die d).hbmCorrected st ch }
  | .laneAlu c f => s.modFibre c f (fun x => { x with residue := some true })
/-- An error that it does not correct poisons the word (R431). -/
def State.uncorrected (s : State) (p : EccPlace) : State :=
  match p with
  | .laneReg c f r i => s.poisonLane c f (r % 240) (i % 64)
  | .handlerReg c f r i =>
    s.modFibre c f (fun x => { x with regs := { x.regs with h := poisonAt x.regs.h (64 * (r % 16) + i % 64) } })
  | .cell c i d =>
    s.modCore c (fun k => k.modMem (fun m => { m with cells := poisonAt m.cells (4096 * (i % 64) + d % 4096) }))
  | .slot c n g =>
    s.modCore c (fun k => k.modMem (fun m => { m with slotPoison := Tab.set false m.slotPoison (136 * (n % 128) + g % 136) true }))
  | .tile c t e =>
    s.modCore c (fun k => k.modMem (fun m => { m with tiles := poisonAt m.tiles (4096 * (t % 18) + e % 4096) }))
  | .icache c => s.modCore c (fun k => k.count 21)
  | .home _ a => if populated a then s.poisonGranule a else s
  | .hbm d st ch a =>
    (if populated a then s.poisonGranule a else s).setDie d
      { s.die d with hbmBad := countChannel (s.die d).hbmBad st ch }
  | .laneAlu c f => s.modFibre c f (fun x => { x with residue := some false })
/-- A place that holds state. -/
def State.placeExists (s : State) (p : EccPlace) : Bool :=
  match p with
  | .laneReg c f r _ =>
    (s.fibre c f).resident && (decide (r < 48) || (decide (r < 240) &&
      ((s.block c (s.fibre c f).block).inWindow r || (s.fibre c f).regs.units.getLsbD ((r - 48) / 16))))
  | .handlerReg c f _ _ => (s.fibre c f).resident
  | .laneAlu c f => (s.fibre c f).resident
  | .cell c i _ => decide (c < 784) && !(s.core c).holes.getLsbD (i % 64)
  | .slot c _ _ => decide (c < 784)
  | .tile c _ _ => decide (c < 784)
  | .icache c => decide (c < 784)
  | .home k _ => decide (k < 196)
  | .hbm d _ _ _ => decide (d < 4)

/-- REGISTER_ECC_ERROR: an error appears in a storage word, or in a residue-checked result. (DESIGN CHOICE: log entry 55) -/
def execRegisterEccError (place : EccPlace) (correctable : Bool) (s : State) : Out :=
  if !s.placeExists place then .next s
  else if correctable then .next (s.corrected place)
  else .next (s.uncorrected place)

/-- The launches with a block on a core. -/
def CoreState.launchesOn (k : CoreState) : List (Nat × BitVec 32) :=
  ((k.blocks.filter (fun e => e.2.taken)).map (fun e => (e.2.part, e.2.lid))).eraseDups
/-- An entry of the ascent table is lost: its ascent becomes grounded (R433). -/
def State.groundEntry (s : State) (n : Nat) : State :=
  let e := Tab.get Ascent.absent s.asc.table n
  if e.generation = 0 ∨ !e.inUse then s
  else
    let id := ascentId n e
    { s with asc := s.asc.put id { e with stage := .grounded } }.postEvent 0 0 0x80 false 0 0 5

/-- UNCORRECTABLE_CONTROL_ERROR: state that is not lane data is lost, and firmware ends the work that
depends on it (R433). (DESIGN CHOICE: log entry 55) -/
def execUncorrectableControlError (place : ControlPlace) (s : State) : Out :=
  match place with
  | .parcel c f =>
    if (s.fibre c f).resident then .next (s.abortControl c f 1 0xE001 ((s.fibre c f).quad 0).pc) else .next s
  | .barrier c b =>
    (match (s.core c).fibresOf b with
     | f :: _ => .next (s.abortControl c f 2 0xE002 0)
     | [] => .next s)
  | .fibre c f => if (s.fibre c f).resident then .next (s.abortControl c f 3 0xE003 0) else .next s
  | .table c =>
    let s1 := s.postEvent c 0 0x80 false 0 0 (BitVec.ofNat 64 (4 + 2 ^ 16 * 0xE004))
    .next ((s.core c).launchesOn.foldl (fun t e => t.endLaunch e.1 e.2 (EndInfo.plain 4 0xE004) true) s1)
  | .ascent n => .next (s.groundEntry n)

/-- SCRUB_VISIT: a scrub writes a granule back, corrected or poisoned (R432). -/
def execScrubVisit (addr : Nat) (bad : Bool) (s : State) : Out :=
  if bad && populated addr then .next (s.poisonGranule addr) else .next s

/-! ### The life log (R457) -/

/-- Records that the log holds. -/
abbrev lifeLogRoom : Nat := 65536
/-- The oldest counter record leaves a full log; removals and trips stay. -/
def dropCounters : List LifeRecord → List LifeRecord
  | [] => []
  | .counters _ _ _ _ :: rest => rest
  | r :: rest => r :: dropCounters rest
/-- A record enters the log. (DEDUCED: log entry 80) -/
def State.appendLife (s : State) (r : LifeRecord) : State :=
  let old := if lifeLogRoom ≤ s.rot.lifeLog.length then dropCounters s.rot.lifeLog else s.rot.lifeLog
  { s with rot := { s.rot with lifeLog := old ++ [r] } }
/-- The counters of every core and stack, with `TIME` and the boot count. -/
def State.logCounters (s : State) : State :=
  let cores := s.cores.map (fun e => (e.1, e.2.life))
  let banks := s.dies.map (fun e => (e.1, e.2.hbmCorrected, e.2.hbmBad))
  s.appendLife (.counters s.time s.rot.boots cores banks)
/-- LIFE_LOG_APPEND: firmware appends the counters. -/
def execLifeLogAppend (s : State) : Out := .next s.logCounters

/-! ### In-field scan (R452, R453) -/

/-- Every register, cell, slot and tile of the core reads zero. -/
def CoreState.scrubbed (k : CoreState) : CoreState :=
  { k with mem := CoreMem.empty, slots := [], fibres := [], blocks := [], eng := Engines.empty }
/-- SCAN_START: START on an idle core that takes no blocks. -/
def execScanStart (core : Nat) (s : State) : Out :=
  let k := s.core core
  if k.regs.corectl.getLsbD 2 || k.slots.any (fun e => e.2.bound) || k.takenBlocks != [] || k.scan.state == 1 then
    .next (s.refuseCommand core)
  else .next (s.setCore core { k with scan := { k.scan with state := 1, aborted := false } })
/-- SCAN_ABORT: the scan stops, the core is cleared, and blocks may be placed on it again. -/
def execScanAbort (core : Nat) (s : State) : Out :=
  let k := s.core core
  if k.scan.state ≠ 1 then .next s
  else
    .next (s.setCore core { k.scrubbed with scan := { k.scan with state := 0, aborted := true },
                                            regs := { k.regs with corectl := k.regs.corectl ||| 4 } })
/-- SCAN_COMPLETE: the signature decides; a core that fails is removed from the logical core map. -/
def execScanComplete (core : Nat) (sig : BitVec 32) (s : State) : Out :=
  let k := s.core core
  if k.scan.state ≠ 1 then .next s
  else if sig = s.rot.config.scanSig then
    .next (s.setCore core { k.scrubbed.count 26 with
      scan := { state := 2, aborted := false, sig := sig },
      regs := { k.regs with corectl := k.regs.corectl ||| 4, suspect := false } }).logCounters
  else
    let s1 := s.setCore core { k.scrubbed.count 27 with
      scan := { state := 3, aborted := false, sig := sig }, enabled := false }
    .next (s1.appendLife (.removal core)).logCounters

end Sys2Proof.Machine
end

