-- ==== Sys2Proof/Machine/Translation.lean ====
section
/-! DEFINITION. Page walks, fault replies, invalidations, and accesses from outside the cores: PCIe
requesters, application cores, other devices (R335, R411 to R424, R430, R462 to R464). -/

namespace Sys2Proof.Machine

/-! ### Walks (R414 to R418) -/

/-- An entry joins a TLB of some size in place of an older one for its pages. -/
def tlbAdd (size : Nat) (e : TlbEntry) (es : List TlbEntry) : List TlbEntry :=
  (e :: es.filter (fun x => !(x.asid == e.asid && x.base == e.base && x.lsize == e.lsize))).take size
/-- A core runs a block of a context. -/
def State.runsCtx (s : State) (c : Nat) (asid : BitVec 16) : Bool :=
  (s.core c).takenBlocks.any (fun b => s.ctxOf c b == asid)
/-- A walk's result enters the die's TLB and those of the cores that run the context. -/
def State.fillTlbs (s : State) (die : Nat) (e : TlbEntry) : State :=
  let t := s.trans
  let cores := (s.cores.map (fun x => x.1)).filter (fun c => dieOf c == die && s.runsCtx c e.asid)
  let coreTlb := cores.foldl (fun m c => Tab.set [] m c (tlbAdd 64 e (Tab.get [] m c))) t.coreTlb
  { s with trans := { t with coreTlb := coreTlb,
                             dieTlb := Tab.set [] t.dieTlb die (tlbAdd 8192 e (Tab.get [] t.dieTlb die)) } }
/-- PAGE_WALK: a walker of a die completes a walk; a failed walk is never cached (R417, R418). -/
def execPageWalk (die : Nat) (asid : BitVec 16) (va : VAddr) (write : Bool) (s : State) : Out :=
  match s.walk asid va.toNat (if write then .store else .load) with
  | .found e => if die < 4 then .next (s.fillTlbs die e) else .next s
  | .failed _ => .next s

/-! ### Fault replies (R421) -/

def State.faultOf (s : State) (part : Nat) (token : BitVec 16) : Option PageFault :=
  s.trans.faults.find? (fun p => p.part == part && p.token == token.toNat)
/-- A fault is closed: its record leaves the queue. (DESIGN CHOICE: log entry 86) -/
def State.closeFault (s : State) (part : Nat) (token : BitVec 16) : State :=
  let p := s.partition part
  let s1 := s.setPartition part { p with faults := p.faults.filter (fun r => r.extractLsb' 128 16 != token) }
  let keep (f : PageFault) : Bool := !(f.part == part && f.token == token.toNat)
  { s1 with trans := { s1.trans with faults := s1.trans.faults.filter keep } }
/-- FAULT_REPLY_GRANT: every frozen waiter is replayed, and held commands walk again. -/
def execFaultReplyGrant (part : Nat) (token : BitVec 16) (s : State) : Out :=
  match s.faultOf part token with
  | none => .next s
  | some f =>
    .next (f.waiters.foldl (fun t w => match w with
      | .fibre c x => t.replayFibre c x
      | .engine _ _ => t) (s.closeFault part token))
/-- FAULT_REPLY_REFUSE: the launch of every waiter ends by ABORT with 0xF000 and the reason. -/
def execFaultReplyRefuse (part : Nat) (token : BitVec 16) (s : State) : Out :=
  match s.faultOf part token with
  | none => .next s
  | some f =>
    let info := EndInfo.plain 4 (BitVec.ofNat 16 (0xF000 + f.reason))
    .next (f.waiters.foldl (fun t w => match w with
      | .fibre c x => if (t.fibre c x).run == Run.frozen 0x06 then t.abortWork c x info else t
      | .engine c x => t.abortWork c x info) (s.closeFault part token))

/-! ### Invalidation (R419, R424) -/

/-- The greatest range: LSIZE values outside 12 to 57 act as 57. -/
def rangeSize (lsize : Nat) : Nat := if 12 ≤ lsize ∧ lsize ≤ 57 then lsize else 57
/-- The command register of a die without GO. -/
def invWord (kind : Nat) (asid : BitVec 16) (lsize : Nat) : DWord :=
  BitVec.ofNat 64 (2 ^ 32 * asid.toNat + 2 ^ 6 * kind + lsize)
/-- A command starts, unless one is in progress. -/
def State.startInvalidation (s : State) (die kind : Nat) (asid : BitVec 16) (base lsize : Nat) : State :=
  if s.trans.inv.isSome then s
  else
    let d := s.die die
    let s1 := s.setDie die { d with invcmd := invWord kind asid lsize,
                                    invva := BitVec.ofNat 64 (base / 4096 * 4096) }
    { s1 with trans := { s1.trans with
        inv := some { kind := kind, asid := asid, base := base, lsize := rangeSize lsize } } }
def execInvalidateRange (die : Nat) (asid : BitVec 16) (base : VAddr) (lsize : BitVec 6) (s : State) : Out :=
  .next (s.startInvalidation die 0 asid base.toNat lsize.toNat)
/-- The LSIZE and base that the die's registers hold for a command that reads neither. -/
def State.keptSize (s : State) (die : Nat) : Nat := bitsAt (s.die die).invcmd.toNat 0 6
def execInvalidateAsid (die : Nat) (asid : BitVec 16) (s : State) : Out :=
  .next (s.startInvalidation die 1 asid (s.die die).invva.toNat (s.keptSize die))
def execInvalidateAll (die : Nat) (s : State) : Out :=
  .next (s.startInvalidation die 2 ((s.die die).invcmd.extractLsb' 32 16) (s.die die).invva.toNat (s.keptSize die))
def execInvalidateHandles (die : Nat) (asid : BitVec 16) (s : State) : Out :=
  .next (s.startInvalidation die 3 asid (s.die die).invva.toNat (s.keptSize die))

/-- A TLB entry that a command covers. (DEDUCED: log entry 70) -/
def Invalidation.covers (i : Invalidation) (e : TlbEntry) : Bool :=
  let size := 2 ^ i.lsize
  let lo := i.base / size * size
  match i.kind with
  | 0 => e.asid == i.asid && decide (e.base < lo + size) && decide (lo < e.base + 2 ^ e.lsize)
  | 1 => e.asid == i.asid
  | 2 => true
  | _ => false
/-- A table of TLBs without the entries that a command covers. (DEDUCED: log entry 70) -/
def Invalidation.drop (i : Invalidation) (t : Tab (List TlbEntry)) : Tab (List TlbEntry) :=
  Tab.setAll [] [] (t.map (fun x => (x.1, x.2.filter (fun e => !i.covers e))))
/-- INVALIDATION_DONE: every covered entry has been dropped, and BUSY clears. Accesses are performed
whole, so that none that used such an entry is still under way. -/
def execInvalidationDone (s : State) : Out :=
  match s.trans.inv with
  | none => .next s
  | some i =>
    let keep (e : BitVec 16 × Nat × List DWord) : Bool := !(decide (1 ≤ i.kind) && (i.kind == 2 || e.1 == i.asid))
    .next { s with trans := { s.trans with
      coreTlb := i.drop s.trans.coreTlb, dieTlb := i.drop s.trans.dieTlb,
      handleCache := s.trans.handleCache.filter keep, inv := none } }

/-! ### Requester DMA (R463) -/

/-- The pieces of a range, each page walked; none where a walk fails. -/
def State.walkPieces (s : State) (asid : BitVec 16) (kind : AccessKind) : Nat → Nat → Nat → Option (List Piece)
  | 0, _, _ => some []
  | fuel + 1, va, n =>
    if n = 0 then some []
    else
      let m := min n (4096 - va % 4096)
      match (if va < 2 ^ 57 then s.walk asid va kind else .failed 0) with
      | .failed _ => none
      | .found e =>
        (s.walkPieces asid kind fuel (va + m) (n - m)).map (fun ps =>
          { addr := e.frame + va % 2 ^ e.lsize, len := m, por := e.por } :: ps)
/-- What an agent outside the device reads: bytes of poisoned granules are free values. (DEDUCED: log entry 71) -/
def Memory.outsideBytes (m : Memory) (n : Nat) (ps : List Piece) : List (BitVec 8) :=
  (m.pbytesOf ps).zipIdx.map (fun e => if e.1.2 then (Config.free32 n e.2).setWidth 8 else e.1.1)
/-- DMA_REQUEST: a PCIe requester reads or writes memory of a context; a failed walk is answered with a
completer abort. (DEDUCED: log entry 71) -/
def execDmaRequest (asid : BitVec 16) (va : BitVec 64) (size : Nat) (data : Option (List (BitVec 8))) (s : State) :
    Out :=
  let reply (t : State) (r : Option (List (BitVec 8))) : State :=
    { t with trans := { t.trans with dmaReplies := t.trans.dmaReplies ++ [r] } }
  match data with
  | none =>
    (match s.walkPieces asid .load (size / 4096 + 2) va.toNat size with
     | some ps => .next (reply { s with fresh := s.fresh + 1 } (some (s.mem.outsideBytes s.fresh ps)))
     | none => .next (reply s none))
  | some bs =>
    match s.walkPieces asid .store (bs.length / 4096 + 2) va.toNat bs.length with
    | some ps => .next (reply (s.putAll (putsTo false ps bs []) .clear) (some []))
    | none => .next (reply s none)

/-! ### Harts and other devices (R335, R412, R462, R464) -/

/-- A range of physical addresses is populated. -/
def rangePopulated (a n : Nat) : Bool := populated a && populated (a + n - 1)
/-- The range belongs to this device's memory. -/
def State.ownRange (s : State) (a : Nat) : Bool := a / 2 ^ 41 == s.device.toNat
/-- APPLICATION_CORE_ACCESS: a hart's load, store or fence. Accesses are performed one after another, so
that a fence has nothing to order; a store to another device's memory leaves for it. -/
def execApplicationCoreAccess (hart : Nat) (access : HartAccess) (s : State) : Out :=
  if 32 ≤ hart then .next s
  else
    match access with
    | .load a n => if rangePopulated a n then .next s else .fault (.unpopulatedAddress a)
    | .store a bs =>
      if !rangePopulated a bs.length then .fault (.unpopulatedAddress a)
      else if s.ownRange a then .next (s.writeMem a bs false .clear)
      else .next s
    | .fence => .next s

/-- A replay of the flit in front of a port; the sixteenth makes it retrain (R464). -/
def Link.replayed (l : Link) : Link := { l with flitReplays := min 16 (l.flitReplays + 1) }
/-- TETHER_FLIT_DELIVERY: a good flit arrives on a port that is up: a request of another device, a word of a
scroll, an answer, a request to replay. (DESIGN CHOICE: log entry 61) -/
def execTetherFlitDelivery (port : Nat) (flit : Flit) (s : State) : Out :=
  let l := s.link port
  if 36 ≤ port ∨ l.state ≠ 2 then .next s
  else
    let s1 := s.setLink port { l with flitReplays := 0 }
    match flit with
    | .read a n => if rangePopulated a n then .next s1 else .fault (.unpopulatedAddress a)
    | .write a bs =>
      if !rangePopulated a bs.length then .fault (.unpopulatedAddress a)
      else .next (s1.writeMem a bs false .clear)
    | .scrollWord c i d w =>
      if (s.core c).holes.getLsbD (i % 64) then .next s1
      else .next (s1.modCore c (fun k => k.setCell (i % 64) (d % 4096) w))
    | .retry => .next s1
    | .replay => .next (s.setLink port l.replayed)

end Sys2Proof.Machine
end

