-- ==== Sys2Proof/Machine/Pairs.lean ====
section
/-! DEFINITION. Lead and trail pairs: forwarded values, comparison, checkpoints and restores (R438 to
R445, R459 to R461). -/

namespace Sys2Proof.Machine

/-! ### Forwarding (R439, R442) -/

/-- The fibre of a copy, by its relative number. -/
def State.copyFibre (s : State) (copy : Nat × Nat) (rel : Nat) : Option Nat :=
  ((s.core copy.1).fibres.find? (fun e => e.2.block == copy.2 && e.2.relative == rel)).map (fun e => e.1)

/-- LOAD_VALUE_FORWARD: the oldest value on its way reaches the trail; the result of an operation that was
performed once goes to the register that waits for it. (DEDUCED: log entry 36) -/
def execLoadValueForward (pair : Nat) (s : State) : Out :=
  let q := s.pair pair
  match q.lvq with
  | [] => .next s
  | e :: rest =>
    let s1 := s.setPair pair { q with lvq := rest }
    if e.kind = .once then
      match s.copyFibre q.trail e.fib with
      | some f => .next (s1.deliverOwed q.trail.1 f (e.vals.getD 0 PX.zero) ((e.vals.getD 1 PX.zero).bits != 0))
      | none => .next s1
    else .next (s1.setPair pair { q with lvq := rest, ready := q.ready ++ [e] })

/-! ### Checkpoints (R443, R459, R461) -/

/-- The block of a copy. -/
def State.copyBlock (s : State) (copy : Nat × Nat) : Block := s.block copy.1 copy.2

/-- Depths of a block's scratch, counted from its base. -/
def fromDepth (lo n : Nat) (t : Tab PW) : Tab PW :=
  (t.filter (fun e => decide (lo ≤ e.1 % 4096) && decide (e.1 % 4096 < lo + n))).map (fun e => (e.1 - lo, e.2))
/-- Puts such words back in place of what the depths hold. -/
def intoDepth (lo n : Nat) (t : Tab PW) (ws : Tab PW) : Tab PW :=
  Tab.setAll PW.zero (t.filter (fun e => decide (e.1 % 4096 < lo) || decide (lo + n ≤ e.1 % 4096)))
    (ws.map (fun e => (e.1 + lo, e.2)))

/-- The snapshot of a copy. (DEDUCED: log entry 35) -/
def State.snapshot (s : State) (copy : Nat × Nat) : CopySnapshot :=
  let k := s.core copy.1
  let b := k.block copy.2
  let claims := k.claimsOf copy.2
  { fibres := (k.fibres.filter (fun e => e.2.block == copy.2)).map (fun e => (e.2.relative, e.2)),
    cells := fromDepth b.scrb b.srows k.mem.cells, claims := claims,
    slotBytes := k.mem.slotBytes.filter (fun e => claims.contains (e.1 / slotSpace)),
    slotPoison := k.mem.slotPoison.filter (fun e => claims.contains (e.1 / 136)),
    tiles := if b.acc then k.mem.tiles.filter (fun e => decide (e.1 < 65536)) else [],
    marks := if b.acc then k.mem.marks &&& 0xFFFF else 0,
    slots := (k.slots.filter (fun e => e.2.bound && e.2.block == copy.2)).map (fun e => (e.1 - b.slot0, e.2)),
    nodes := b.nodes }

/-- A copy as its snapshot has it; what it has in flight is dropped. (DEDUCED: log entry 35) -/
def CoreState.rewind (k : CoreState) (entry : Nat) (p : CopySnapshot) : CoreState :=
  let b := k.block entry
  let mine (f : Nat) : Bool := (k.fibre f).block == entry
  let lost := (k.claimsOf entry).filter (fun n => !p.claims.contains n)
  let m := lost.foldl (fun (m : CoreMem) n => { m.clearSlot n with claims := Tab.set 0 m.claims n 0 }) k.mem
  let claims := p.claims.foldl (fun t n => Tab.set 0 t n (entry + 1)) m.claims
  let slotBytes := Tab.setAll 0 (m.slotBytes.filter (fun e => !p.claims.contains (e.1 / slotSpace))) p.slotBytes
  let slotPoison := Tab.setAll false (m.slotPoison.filter (fun e => !p.claims.contains (e.1 / 136))) p.slotPoison
  let tiles := if b.acc then p.tiles ++ m.tiles.filter (fun e => decide (65536 ≤ e.1)) else m.tiles
  { k with
    mem := { m with cells := intoDepth b.scrb b.srows m.cells p.cells, claims := claims, slotBytes := slotBytes,
                    slotPoison := slotPoison, tiles := tiles,
                    marks := if b.acc then (m.marks &&& 0x30000) ||| p.marks else m.marks,
                    releasing := m.releasing.filter (fun n => !p.claims.contains n && !lost.contains n) },
    fibres := Tab.setAll Fibre.absent (k.fibres.filter (fun e => e.2.block != entry))
      (p.fibres.map (fun e => (4 * b.slot0 + e.1, e.2))),
    slots := Tab.setAll Slot.absent k.slots (p.slots.map (fun e => (b.slot0 + e.1, { e.2 with block := entry }))),
    blocks := Tab.set Block.absent k.blocks entry { b with nodes := p.nodes },
    eng := { k.eng with matrix := k.eng.matrix.filter (fun a => !mine a.fib),
                        copies := k.eng.copies.filter (fun a => !mine a.fib) } }

/-- Counts an event in the redundancy registers of both cores. -/
def State.countPair (s : State) (q : Pair) (g : CoreRegs → CoreRegs) : State :=
  (s.modCore q.lead.1 (fun k => { k with regs := g k.regs })).modCore q.trail.1 (fun k => { k with regs := g k.regs })

/-- The quads of a fibre that stay where they are: each has ended, waits in a long wait, or stands at a
region start. -/
def Fibre.settled (x : Fibre) : Bool :=
  x.quads.all (fun e => e.2.ended || e.2.wait.long || e.2.wait == .heldExit || e.2.wait == .checkpoint)
/-- Two copies of a fibre stand at the same place. -/
def Fibre.alignedWith (x y : Fibre) : Bool :=
  (!x.resident && !y.resident) ||
  (x.resident && y.resident && x.settled && y.settled && x.regions == y.regions &&
   (List.range 16).all (fun q => (x.quad q).pc == (y.quad q).pc && (x.quad q).ended == (y.quad q).ended))
/-- The fibres of a copy. -/
def State.copyFibres (s : State) (copy : Nat × Nat) : List (Nat × Fibre) :=
  (s.core copy.1).fibres.filter (fun e => e.2.block == copy.2)
/-- Each fibre of the lead stands where its twin stands, one at least at a region start. -/
def State.pairAligned (s : State) (q : Pair) : Bool :=
  let xs := s.copyFibres q.lead
  xs.any (fun e => e.2.atStart) &&
  xs.all (fun e =>
    match s.copyFibre q.trail e.2.relative with
    | some f => e.2.alignedWith (s.fibre q.trail.1 f)
    | none => false)
/-- Everything that both copies issued has completed, and every owed value has been delivered. -/
def State.pairQuiet (s : State) (q : Pair) : Bool :=
  q.leadBuf.isEmpty && q.trailBuf.isEmpty && q.lvq.isEmpty && q.ready.isEmpty &&
  (s.copyFibres q.lead).all (fun e => e.2.quiet) && (s.copyFibres q.trail).all (fun e => e.2.quiet) &&
  (s.core q.lead.1).eng.accepted.all (fun a => (s.fibre q.lead.1 a.fib).block != q.lead.2) &&
  (s.core q.trail.1).eng.accepted.all (fun a => (s.fibre q.trail.1 a.fib).block != q.trail.2)
/-- No fibre of the pair can go on of itself. -/
def State.pairStuck (s : State) (q : Pair) : Bool :=
  let still (copy : Nat × Nat) : Bool :=
    (s.copyFibres copy).all (fun e => !e.2.resident || (e.2.settled && s.waking copy.1 e.1 == []))
  still q.lead && still q.trail && q.lvq.isEmpty &&
  q.leadBuf.all (fun e => q.trailBuf.all (fun t => t.fib != e.fib))
/-- Both copies pass the region starts at which they stand. -/
def State.passStarts (s : State) (q : Pair) : State :=
  let pass (t : State) (copy : Nat × Nat) : State :=
    (t.copyFibres copy).foldl (fun u e => if e.2.atStart then u.modFibre copy.1 e.1 Fibre.leaveStart else u) t
  pass (pass s q.lead) q.trail

/-- CHECKPOINT: both copies stand at a region start with nothing in flight, and their state is kept; a start
at which that can never be passes (R443). (DEDUCED: log entry 35) -/
def execCheckpoint (pair : Nat) (s : State) : Out :=
  let q := s.pair pair
  if q.busy || !q.due s.time.toNat then .next s
  else if s.pairAligned q && s.pairQuiet q then
    let s1 := s.setPair pair { q with busy := true, snap := [s.snapshot q.lead, s.snapshot q.trail],
                                      lastCkpt := s.time.toNat, forced := false, index := [], mismatched := none }
    .next (s1.countPair q (fun r => { r with ckpts := r.ckpts + 1 }))
  else if s.pairStuck q && !(s.pairAligned q) then .next (s.passStarts q)
  else .next s

/-- CHECKPOINT_COMPLETE: both copies issue again (R461). -/
def execCheckpointComplete (pair : Nat) (s : State) : Out :=
  let q := s.pair pair
  if q.busy && !q.restoring then .next ((s.setPair pair { q with busy := false }).passStarts q)
  else .next s

/-! ### Comparison (R440 to R444) -/

/-- The first relative fibre with an entry in both buffers. (DEDUCED: log entry 32) -/
def Pair.decidable (q : Pair) : Option (CompareEntry × CompareEntry) :=
  q.leadBuf.findSome? (fun a => (q.trailBuf.find? (fun b => b.fib == a.fib)).map (fun b => (a, b)))
/-- Drops the first entry of a fibre. -/
def dropEntry (f : Nat) : List CompareEntry → List CompareEntry
  | [] => []
  | e :: rest => if e.fib = f then rest else e :: dropEntry f rest
/-- Saturating count of matched entries (R445). -/
def CoreRegs.matchOne (r : CoreRegs) : CoreRegs :=
  if r.matched = BitVec.allOnes 32 then r else { r with matched := r.matched + 1 }

/-- The operation of a matched entry is performed, once: its result goes to the lead and on its way to the
trail (R442). (DEDUCED: log entry 34) -/
def State.performOnce (s : State) (p : Nat) (rel : Nat) (op : OnceOp) : State :=
  let q := s.pair p
  match s.copyFibre q.lead rel with
  | none => s
  | some f =>
    let (v, drop, s1) := match op with
      | .atomic a => s.performAtomic q.lead.1 f a
      | _ =>
        let (v, t) := s.doOnce q.lead.1 f op
        (PX.clean v, false, t)
    let s2 := s1.deliverOwed q.lead.1 f v drop
    let q2 := s2.pair p
    s2.setPair p { q2 with forced := true, lvq := q2.lvq ++
      [{ fib := rel, kind := .once, vals := [v, PX.clean (if drop then 1 else 0)] }] }

/-- Twins match: the lead's entry is released, the trail's discarded. -/
def State.matchEntry (s : State) (p : Nat) (a : CompareEntry) : State :=
  let q := s.pair p
  let q1 := { q with leadBuf := dropEntry a.fib q.leadBuf, trailBuf := dropEntry a.fib q.trailBuf,
                     index := Tab.set 0 q.index a.fib (Tab.get 0 q.index a.fib + 1) }
  let s1 := ((s.setPair p q1).countPair q CoreRegs.matchOne).putFrom q.lead.1 a.puts a.action
  match a.once with
  | some op => s1.performOnce p a.fib op
  | none => s1

/-- Both copies are restored from the last checkpoint (R444). -/
def State.restorePair (s : State) (p f k : Nat) : State :=
  let q := s.pair p
  let s1 := match q.snap with
    | [a, b] => (s.modCore q.lead.1 (fun x => x.rewind q.lead.2 a)).modCore q.trail.1 (fun x => x.rewind q.trail.2 b)
    | _ => s
  let s2 := (s1.modCore q.lead.1 (fun x => x.count 28)).modCore q.trail.1 (fun x => x.count 28)
  (s2.countPair q (fun r => { r with reruns := r.reruns + 1 })).setPair p
    { q with leadBuf := [], trailBuf := [], lvq := [], ready := [], index := [], busy := true, restoring := true,
             mismatched := some (f, k) }

/-- A second mismatch at the same entry after the same checkpoint ends the launch (R444, R451). -/
def State.escalate (s : State) (p f k : Nat) : State :=
  let q := s.pair p
  match s.copyFibre q.lead f with
  | none => s
  | some x =>
    let suspect (r : CoreRegs) : CoreRegs := { r with suspect := true }
    let detail := BitVec.ofNat 64 (k % 2 ^ 32 + 2 ^ 32 * (pairPeer q.trail.1).toNat)
    ((s.countPair q suspect).postEvent q.lead.1 x 0x83 false 0 0 detail).abortWork q.lead.1 x
      (EndInfo.plain 4 0xE101)

/-- The operation of an entry has to wait: a landing under audit (R372), or a full queue (R439). -/
def State.onceWaits (s : State) (q : Pair) (a : CompareEntry) : Bool :=
  (match a.once with
   | some (.land id) =>
     (match s.copyFibre q.lead a.fib with
      | some f => s.landHeld q.lead.1 f id
      | none => false)
   | _ => false) || (a.once.isSome && decide (4096 ≤ q.queued))

/-- COMPARE_DECISION: the first entries of a fibre of both copies match or mismatch. -/
def execCompareDecision (pair : Nat) (s : State) : Out :=
  let q := s.pair pair
  match (if q.busy then none else q.decidable) with
  | none => .next s
  | some (a, b) =>
    if a.sig = b.sig then (if s.onceWaits q a then .next s else .next (s.matchEntry pair a))
    else
      let k := Tab.get 0 q.index a.fib
      if q.mismatched = some (a.fib, k) then .next (s.escalate pair a.fib k)
      else .next (s.restorePair pair a.fib k)

/-- PAIR_RESTORE_DONE: the restore ends, and both copies issue again (R461). -/
def execPairRestoreDone (pair : Nat) (s : State) : Out :=
  let q := s.pair pair
  if q.restoring then .next ((s.setPair pair { q with busy := false, restoring := false }).passStarts q)
  else .next s

end Sys2Proof.Machine
end

