-- ==== Sys2Proof/Machine/Auditor.lean ====
section
/-! DEFINITION. The drogue auditor: replays of sampled products (R318, R373, R446 to R451). -/

namespace Sys2Proof.Machine

/-- The command that replays a record: A in `o124`, B in `o126`, the accumulator in the audit pair (R448). (DEDUCED: log entry 72) -/
def AuditRecord.replayCommand (r : AuditRecord) : Command :=
  { op := 0x122, m1 := 0, vd := 16, va := 124, vb := 126, vc := 0, imm := 0, desc := [], word := r.word,
    flag := none, cseq := 0, node := none, pc := 0, uncovered := false }
/-- A host's memories with the record loaded: the audit pair's mark is that of the record's group. -/
def CoreMem.loadRecord (m : CoreMem) (r : AuditRecord) : CoreMem :=
  let m1 := (m.writeSlot (slotSpace * 124) r.slotsA).writeSlot (slotSpace * 126) r.slotsB
  (m1.setTile 16 r.tile).setTile 17 r.tile2
/-- The replay on a host: its memories after it, and the signature of its result. (DEDUCED: log entry 72) -/
def CoreMem.replay (m : CoreMem) (r : AuditRecord) : CoreMem × DWord :=
  let cmd := r.replayCommand
  let m1 := m.loadRecord r
  let v := m1.product cmd r.free
  let half := halfStep (fwAf r.word)
  (cmd.tiles.foldl (fun m t => m.setMark t half) (m1.setAccumulator cmd.tiles v), resultCrc half v)

/-- The audit hosts that may replay a record: idle, on another die where there is one, else another core
(R448). -/
def State.hostFits (s : State) (r : AuditRecord) (host : Nat) : Bool :=
  let hosts := (s.partition r.part).auditHosts
  hosts.contains host && host != r.core && (s.core host).eng.matrix.isEmpty &&
  (dieOf host != dieOf r.core || hosts.all (fun h => dieOf h == dieOf r.core))

/-- Adds to a saturating 32-bit count. -/
def satInc (n : BitVec 32) : BitVec 32 := if n = BitVec.allOnes 32 then n else n + 1

/-- A mismatch: the rip of R318, the third replay, the event, SUSPECT (R449). (DEDUCED: log entry 72) -/
def State.auditMismatch (s : State) (r : AuditRecord) (host : Nat) (agrees : Bool) : State :=
  let l? := s.launch? r.part r.lid
  let rip := match l? with
    | some l => l.audrip
    | none => false
  let pushed := match l? with
    | some l => l.pushed
    | none => []
  let ripped := rip && pushed.any (fun id => match s.asc.find id with
    | some e => e.stage == .opened
    | none => false)
  let s1 := if rip then { s with asc := s.asc.ripOpen pushed } else s
  let detail := siteOf host + 2 ^ 8 * dieOf host + (if agrees then 2 ^ 10 else 0) + (if ripped then 2 ^ 11 else 0) +
    2 ^ 16 * r.lid.toNat
  let s2 := s1.postEvent r.core 0 0x84 false 0 0 (BitVec.ofNat 64 detail)
  let d := dieOf r.core
  let s3 := s2.setDie d { s2.die d with mismatch := satInc (s2.die d).mismatch }
  s3.modCore r.core (fun k =>
    let k1 := k.count 29
    if agrees then { k1 with regs := { k1.regs with suspect := true } } else k1)

/-- AUDIT_REPLAY: the oldest record of a partition is replayed on a host; where the signatures differ, on a
third core too. (DEDUCED: log entry 72) -/
def execAuditReplay (part host third : Nat) (s : State) : Out :=
  match s.audit.find? (fun r => r.part == part) with
  | none => .next s
  | some r =>
    if !s.hostFits r host then .next s
    else
      let (m, crc) := (s.core host).mem.replay r
      let d := dieOf r.core
      let s1 := s.modCore host (fun k => { k with mem := m })
      let s2 := s1.setDie d { s1.die d with sampled := satInc (s1.die d).sampled }
      let s3 := { s2 with audit := s2.audit.eraseP (fun x => x.part == part) }
      if crc = r.crc then .next s3
      else if third = host ∨ third = r.core ∨ 784 ≤ third ∨ !(s.core third).eng.matrix.isEmpty then .next s
      else
        let (m3, crc3) := (s.core third).mem.replay r
        .next ((s3.modCore third (fun k => { k with mem := m3 })).auditMismatch r host (crc3 == crc))

end Sys2Proof.Machine
end

