-- ==== Sys2Proof/Machine/Power.lean ====
section
/-! DEFINITION. The engine-aware issue of a cycle, slot switches, power allowance, class pools, thermal
migration (R31 to R33, R45, R106, R108, R397 to R403, R408, R409, R473, R474). -/

namespace Sys2Proof.Machine

/-! ### Target classes and costs (R397, R399) -/

/-- The target class, in table order from 0 (R397). -/
def classOf (i : Instr) : Nat :=
  match i.form with
  | .lane op _ _ =>
    if op = 0x008 ∨ op = 0x009 ∨ (0x041 ≤ op ∧ op ≤ 0x048) then 2
    else if op ≤ 0x0DF ∨ op = 0x180 ∨ op = 0x181 then 1
    else if (0x0E0 ≤ op ∧ op ≤ 0x0E5) ∨ (0x100 ≤ op ∧ op ≤ 0x107) ∨ (0x10A ≤ op ∧ op ≤ 0x10D) ∨
        (0x110 ≤ op ∧ op ≤ 0x115) then 3
    else if op = 0x109 ∨ (0x120 ≤ op ∧ op ≤ 0x125) ∨ op = 0x138 then 5
    else if op = 0x128 ∨ op = 0x129 then 6
    else if op = 0x130 ∨ op = 0x139 then 7
    else if op = 0x116 ∨ (0x140 ≤ op ∧ op ≤ 0x142) then 8
    else 4
  | _ => 0

/-- The cost of an `mma` by its A format (R399). -/
def mmaCost (af bf : Nat) : Nat :=
  if emulated af || emulated bf then 64
  else if af = 0 ∨ af = 3 then 768
  else if codeWidth af = 16 then 1024
  else 1536
/-- The cost of a lane instruction in allowance units; `w` is the format word of an `mma` (R399). (DEDUCED: log entry 74) -/
def laneCost (op ty : Nat) (w : BitVec 32) : Nat :=
  let floats (n : Nat) : Nat := if tyWidth ty = 64 then 12 else n
  if op = 0x122 then mmaCost (fwAf w) (fwBf w)
  else if op = 0x138 then 160
  else if op = 0x124 then 256
  else if op = 0x125 then 64
  else if op = 0x123 then 16
  else if op = 0x128 ∨ op = 0x129 then 32
  else if op = 0x130 ∨ op = 0x139 then 64
  else if op = 0x008 ∨ op = 0x009 ∨ (0x041 ≤ op ∧ op ≤ 0x048) then 12
  else if op = 0x0A6 ∨ op = 0x0A7 ∨ op = 0x180 then 16
  else if 0x0A0 ≤ op ∧ op ≤ 0x0AA then 8
  else if (0x080 ≤ op ∧ op ≤ 0x084) ∨ op = 0x181 then floats 6
  else if op ≤ 0x05F then (if floatTy ty then floats 6 else 4)
  else if op ≤ 0x0DF then 4
  else if (0x0E0 ≤ op ∧ op ≤ 0x0E5) ∨ (0x100 ≤ op ∧ op ≤ 0x107) then 6
  else if (0x0E6 ≤ op ∧ op ≤ 0x0FD) ∨ op = 0x182 then 10
  else 2
/-- The cost of an instruction of the gang in focus. (DEDUCED: log entry 74) -/
def State.costOf (s : State) (i : Instr) : Nat :=
  match i.form with
  | .lane op f _ =>
    let n := (lowestLane (s.participating f.pg f.pn)).getD 0
    laneCost op f.ty.toNat (if op = 0x122 then (s.lane f.vc.toNat n).bits else 0)
  | _ => 2

/-! ### The candidates of a cycle (R18, R22, R33, R106, R108, R384) -/

/-- What the current fibre of a slot would issue: its gang, its age and key, the class and cost of the
instruction. -/
structure Candidate where
  slot : Nat
  gang : Focus
  age : Nat
  cls : Nat
  cost : Nat
  key : Nat
  /-- The cycle of a WAIT test: the gang issues nothing (R108). -/
  test : Bool
  deriving DecidableEq, Repr

/-- The quads of a fibre that may issue: those that wait for nothing, else those that stall. While a step
is in progress only its own (R384). (DEDUCED: log entry 74) -/
def Fibre.issuable (x : Fibre) : List Nat :=
  let mine := x.steppable.filter (fun q => x.stopSoon != some 2 || x.stepping.getLsbD q)
  let free := mine.filter (fun q => (x.quad q).wait == .none)
  if free.isEmpty then mine else free
/-- The gangs of some quads of a fibre, by their lowest quads. -/
def Fibre.gangsOf (x : Fibre) (qs : List Nat) : List QuadMask := (qs.map (fun q => x.gangIn qs q)).eraseDups
/-- The gang that comes next: the order of a fibre's gangs is unspecified (R22); that of a step is
ascending. (DESIGN CHOICE: log entry 14) -/
def State.gangOf (s : State) (x : Fibre) : Option QuadMask :=
  let gs := x.gangsOf x.issuable
  if x.stopSoon = some 2 then gs.head? else gs[s.choices.headD 0 % max 1 gs.length]?

/-- The withholding key of a fibre's work apart from its class (R400, R403). -/
def State.issuePrio (s : State) (c b : Nat) : Nat :=
  match (s.block c b).role with
  | .compensation _ _ _ => 7
  | .owner _ => 7
  | _ => (s.launchOf c b).elim 0 (fun l => l.prio)

/-- The instruction at an address as the gang in focus would fetch it. -/
def State.peek (s : State) (pc : VAddr) : Option Instr :=
  match s.fetchAt s.focus.core s.curCtx pc with
  | .parcels ps =>
    (match decode ps with
     | .instr i => some i
     | _ => none)
  | _ => none

/-- The candidate of a slot: what the gang of its current fibre would issue (R398). (DEDUCED: log entry 74) -/
def State.candidate (s : State) (c slot : Nat) : Option Candidate :=
  let z := s.slot c slot
  let f := 4 * slot + z.current
  let x := s.fibre c f
  if z.switching || x.run != .running || !(s.block c x.block).issues x.handler.isSome || s.pairBusy c f then none
  else
    match s.gangOf x with
    | none => none
    | some g =>
      let gang : Focus := ⟨c, f, g⟩
      let t := { s with focus := gang }
      let p := s.issuePrio c x.block
      let make (i : Option Instr) : Candidate :=
        let cls := i.elim 0 classOf
        { slot := slot, gang := gang, age := x.age, cls := cls, cost := i.elim 0 t.costOf,
          key := 2 * p + (if cls = 5 then 0 else 1), test := false }
      if t.leadQuad.inClause then some (make (t.peek t.pc))
      else
        match t.peek t.pc with
        | some (.clauseWaitTest h) =>
          if h.wait = 0 then some (make (t.peek (nextPc t.pc 1)))
          else some { make none with test := true }
        | _ => some (make none)

/-! ### The passes (R398, R400) -/

/-- What a cluster grants in a cycle: the gangs in order, the classes and slots served on each core, the
running allowance, the instructions withheld. -/
structure Grants where
  gangs : List Focus
  served : List (Nat × Nat × Nat)
  power : Int
  withheld : Nat
  deriving DecidableEq, Repr

/-- A candidate issues. A header whose WAIT is 0 grants its first instruction itself (R106). (DEDUCED: log entry 74) -/
def Grants.take (g : Grants) (x : Candidate) : Grants :=
  { g with gangs := g.gangs ++ [x.gang],
           served := (x.gang.core, x.slot, x.cls) :: g.served, power := g.power - (x.cost : Nat) }
/-- A WAIT test: nothing issues. -/
def Grants.test (g : Grants) (x : Candidate) : Grants := { g with gangs := g.gangs ++ [x.gang] }

/-- The first candidate of a class that power withholding lets issue; those refused are counted. -/
def Grants.pick (g : Grants) (limit : Nat) : List Candidate → Grants
  | [] => g
  | x :: rest =>
    if x.key < limit ∨ g.power < (x.cost : Nat) then { g with withheld := g.withheld + 1 }.pick limit rest
    else g.take x

/-- Elements in descending order of a key, equal ones in their order. -/
def insertBy {α : Type} (key : α → Nat) (x : α) : List α → List α
  | [] => [x]
  | y :: rest => if key y < key x then x :: y :: rest else y :: insertBy key x rest
def descending {α : Type} (key : α → Nat) (xs : List α) : List α :=
  xs.foldl (fun ys x => insertBy key x ys) []

/-- The slots of a core that issue in the cycle. -/
def State.boundSlots (s : State) (c : Nat) : List Nat :=
  (List.range 16).filter (fun n => (s.slot c n).bound)
/-- The passes of one core. -/
def State.passes (s : State) (c limit : Nat) (g : Grants) : Grants :=
  let xs := (s.boundSlots c).filterMap (s.candidate c)
  let ready := xs.filter (fun x => !x.test)
  let g1 := (xs.filter (fun x => x.test)).foldl Grants.test g
  let g2 := (ready.filter (fun x => decide (250 ≤ x.age))).foldl Grants.take g1
  let young := ready.filter (fun x => decide (x.age < 250))
  let classes := descending (fun n => Tab.get 0 (s.core c).idle n) (List.range 9)
  classes.foldl (fun h n => h.pick limit (descending Candidate.age (young.filter (fun x => x.cls == n)))) g2

/-- F of R400. -/
def Cluster.withholding (k : Cluster) : Nat :=
  let a := k.pacnt.toInt
  let thi : Int := k.thi.toNat
  let step : Nat := max 1 k.step.toNat
  if thi ≤ a then 0 else min 16 (((thi - a).toNat + step - 1) / step)
/-- A signed allowance as its register holds it. (DESIGN CHOICE: log entry 76) -/
def Cluster.setPower (k : Cluster) (a : Int) (withheld : Nat) : Cluster :=
  { k with pacnt := BitVec.ofInt 32 (max (-(2 ^ 31 : Int)) a),
           wheld := BitVec.ofNat 32 (min (2 ^ 32 - 1) (k.wheld.toNat + withheld)) }
/-- PACNT := min(PACAP, PACNT + REFILL), once in a cycle (R399). (DESIGN CHOICE: log entry 76) -/
def Cluster.refillOnce (k : Cluster) : Cluster :=
  if k.refilled then k
  else { k with pacnt := BitVec.ofInt 32 (min (k.pacap.toNat : Int) (k.pacnt.toInt + k.refill.toNat)), refilled := true }
/-- ALLOWANCE_REFILL: the refill of the present cycle. (DESIGN CHOICE: log entry 76) -/
def execAllowanceRefill (cluster : Nat) (s : State) : Out :=
  if cluster < 196 then .next (s.setCluster cluster (s.cluster cluster).refillOnce) else .next s

/-! ### One cycle (R5, R31, R398) -/

/-- `TIME` counts ns, two for three cycles of class 0. (DEDUCED: log entry 73; DESIGN CHOICE: log entry 8) -/
def State.tick (s : State) : State :=
  { s with time := s.time + BitVec.ofNat 64 (2 * (s.cycle + 1) / 3 - 2 * s.cycle / 3), cycle := s.cycle + 1 }

/-- A fibre that stalls: it holds its slot, and its age does not count (R31, R32, R398). (DEDUCED: log entry 75) -/
def Fibre.stalls (x : Fibre) : Bool :=
  x.run == .running && x.quads.any (fun e => !e.2.ended &&
    (e.2.wait == .stall || e.2.wait == .heldExit || e.2.wait == .checkpoint)) &&
  x.quads.all (fun e => e.2.ended || e.2.wait != .none)
/-- Ages and stalls of a core's fibres, one cycle on. (DEDUCED: log entry 75; DESIGN CHOICE: log entry 8) -/
def CoreState.growOld (k : CoreState) : CoreState :=
  let older (f : Nat) (x : Fibre) : Fibre :=
    { x with age := if k.ready f then x.age + 1 else 0,
             stall := if x.stalls && (k.slot (f / 4)).current == f % 4 then x.stall + 1 else 0 }
  { k with fibres := k.fibres.map (fun e => (e.1, older e.1 e.2)) }
/-- The idle counts of a core's classes after a cycle. (DESIGN CHOICE: log entry 8) -/
def CoreState.countIdle (k : CoreState) (served : List Nat) : CoreState :=
  let idle (n : Nat) : Nat := if served.contains n then 0 else min 65535 (Tab.get 0 k.idle n + 1)
  { k with idle := Tab.setAll 0 [] ((List.range 9).map (fun n => (n, idle n))),
           slots := k.slots.map (fun e => (e.1, { e.2 with switching := false })) }
/-- A gang that is granted an issue: its stall is over for this cycle, its fibre's age starts anew. -/
def State.release (s : State) (g : Focus) (issues : Bool) : State :=
  s.modFibre g.core g.fib (fun x =>
    let y : Fibre := if issues then { x with age := 0 } else x
    y.modQuads g.quads (fun _ q => if q.wait == .stall then { q with wait := .none } else q))

/-- Fibres that stop before their next issue stop; a step whose gangs have issued ends (R383, R384). -/
def State.stopDue (s : State) (c f : Nat) : State :=
  let x := s.fibre c f
  if x.run != .running then s
  else
    let q := (x.issuable.head?).getD 0
    match x.stopSoon with
    | none => s
    | some n =>
      if n = 2 ∧ !x.issuable.isEmpty then s
      else if n = 2 then s.stopFibre c f 2 (x.quad q).pc 0
      else s.stopFibre c f n (x.quad q).pc 0

/-- The cores of the device that hold slots, by cluster. -/
def State.busyClusters (s : State) : List Nat :=
  ((s.cores.filter (fun e => e.2.slots.any (fun z => z.2.bound))).map (fun e => clusterOf e.1)).eraseDups
/-- The passes of a cluster's cores, in ascending order. -/
def State.clusterPasses (s : State) (k : Nat) : Grants :=
  let cs := (s.cores.map (fun e => e.1)).filter (fun c => clusterOf c == k)
  let z := s.cluster k
  cs.foldl (fun g c => s.passes c z.withholding g) { gangs := [], served := [], power := z.pacnt.toInt, withheld := 0 }
/-- A cluster's part of the cycle. -/
def State.issueCluster (s : State) (k : Nat) : State :=
  let g := s.clusterPasses k
  let cs := (s.cores.map (fun e => e.1)).filter (fun c => clusterOf c == k)
  let s1 := s.setCluster k ((s.cluster k).setPower g.power g.withheld)
  let s2 := g.gangs.foldl (fun t x =>
    t.release x (g.served.any (fun e => e.1 == x.core && e.2.1 == x.fib / 4))) s1
  let s3 := cs.foldl (fun t c =>
    t.modCore c (fun x => x.countIdle ((g.served.filter (fun e => e.1 == c)).map (fun e => e.2.2)))) s2
  { s3 with granted := s3.granted ++ g.gangs }

/-- Every core and cluster, one cycle on. -/
def State.ageAll (s : State) : State :=
  { s with cores := s.cores.map (fun e => (e.1, e.2.growOld)),
           clusters := s.clusters.map (fun e => (e.1, e.2.refillOnce)) }
/-- Every fibre that is to stop stops. -/
def State.stopAll (s : State) : State :=
  s.cores.foldl (fun t (e : Nat × CoreState) =>
    e.2.fibres.foldl (fun t (x : Nat × Fibre) => t.stopDue e.1 x.1) t) s
/-- The cycle is over. -/
def State.endCycle (s : State) : State :=
  { s with choices := s.choices.tail, clusters := s.clusters.map (fun e => (e.1, { e.2 with refilled := false })) }
/-- ISSUE_CYCLE: time advances, allowances are refilled, and every core issues from the current fibres of
its slots (R398). (DESIGN CHOICE: log entry 8) -/
def execIssueCycle (s : State) : Out :=
  let s1 := s.tick.ageAll.stopAll
  .next (s1.busyClusters.foldl State.issueCluster s1).endCycle

/-! ### Switches (R31) -/

/-- The gang of a stalled fibre waits before an instruction that carries `hop` (R32). -/
def State.hops (s : State) (c f : Nat) : Bool :=
  let x := s.fibre c f
  x.stalls && x.steppable.any (fun q => (x.quad q).wait == .stall && (x.quad q).inClause &&
    (match { s with focus := ⟨c, f, BitVec.ofNat 16 (2 ^ q)⟩ }.peek (x.quad q).pc with
     | some i => (match i.form with
        | .lane _ f _ => f.hop
        | _ => false)
     | none => false))
/-- The current fibre of a slot gives it up: it has ended, is frozen or stopped, blocks, or stalls with
`hop`. -/
def State.yields (s : State) (c slot : Nat) : Bool :=
  let f := 4 * slot + (s.slot c slot).current
  let x := s.fibre c f
  x.run != .running || x.quads.all (fun e => e.2.ended || e.2.wait.long) || s.hops c f
/-- The slot's current fibre becomes another. -/
def State.switch (s : State) (c slot g : Nat) : State :=
  s.setSlot c slot { s.slot c slot with current := g, switchTo := none, switching := true }
/-- SLOT_SWITCH: a switch that `fsw` asked for, or from a fibre that gives the slot up. -/
def execSlotSwitch (core slot : Nat) (s : State) : Out :=
  let z := s.slot core slot
  match z.switchTo with
  | some g => .next (s.switch core slot g)
  | none =>
    match (if z.bound && s.yields core slot then (s.core core).nextReady slot z.current else none) with
    | some g => .next (s.switch core slot g)
    | none => .next s
/-- STALL_SWITCH: the current fibre has stalled without `hop` for 128 cycles. -/
def execStallSwitch (core slot : Nat) (s : State) : Out :=
  let z := s.slot core slot
  let f := 4 * slot + z.current
  match (if 128 ≤ (s.fibre core f).stall then (s.core core).nextReady slot z.current else none) with
  | some g => .next ((s.modFibre core f (fun x => { x with stall := 0 })).switch core slot g)
  | none => .next s
/-- The fibre that takes the slot by its age: the oldest, the lower index on a tie. -/
def CoreState.oldest (k : CoreState) (slot : Nat) : Option Nat :=
  let cur := (k.slot slot).current
  let age (g : Nat) : Nat := (k.fibre (4 * slot + g)).age
  let gs := (List.range 4).filter (fun g => g != cur && k.ready (4 * slot + g) && decide (248 ≤ age g) &&
    (decide (age cur < age g) || !k.ready (4 * slot + cur)))
  leastBy (fun g => 2 ^ 64 - age g) gs
/-- AGE_SWITCH: a fibre whose age has reached 248 takes the slot. -/
def execAgeSwitch (core slot : Nat) (s : State) : Out :=
  match (s.core core).oldest slot with
  | some g => .next (s.switch core slot g)
  | none => .next s

/-! ### Class pools (R402, R403) -/

/-- The cluster holds no block. -/
def State.clusterEmpty (s : State) (k : Nat) : Bool := (coresOf k).all (fun c => (s.core c).takenBlocks == [])
/-- The cluster is held back for compensation. (DEDUCED: log entry 77) -/
def State.inCompPool (s : State) (k : Nat) : Bool := s.partitions.any (fun e => e.2.compPool.contains k)
/-- POOL_MOVE: firmware begins to move an empty cluster to another class. (DEDUCED: log entry 77) -/
def execPoolMove (cluster cls : Nat) (s : State) : Out :=
  let k := s.cluster cluster
  if cluster < 196 ∧ cls < 8 ∧ s.clusterEmpty cluster ∧ !s.inCompPool cluster ∧ k.moving.isNone ∧ k.migrating.isNone then
    .next (s.setCluster cluster { k with moving := some cls })
  else .next s
/-- POOL_MOVE_COMPLETE: its clock and supply have changed. -/
def execPoolMoveComplete (cluster : Nat) (s : State) : Out :=
  let k := s.cluster cluster
  match k.moving with
  | some cls => .next (s.setCluster cluster { k with moving := none, cls := cls })
  | none => .next s

/-! ### Thermal migration (R408, R409) -/

/-- A cluster can take the blocks of another: same die, pool and partition, empty, and with the same lanes. (DEDUCED: log entry 77) -/
def State.canMigrate (s : State) (a b : Nat) : Bool :=
  let pool (k : Nat) : Bool := s.inCompPool k
  let free (k : Nat) : Bool := (s.cluster k).moving.isNone && (s.cluster k).migrating.isNone
  decide (a < 196) && decide (b < 196) && a != b && a / 49 == b / 49 && (s.cluster a).cls == (s.cluster b).cls &&
  free a && free b && pool a == pool b && s.clusterEmpty b && !s.clusterEmpty a &&
  s.partitions.any (fun e => e.2.clusters.contains a && e.2.clusters.contains b) &&
  (List.zip (coresOf a) (coresOf b)).all (fun e =>
    (s.core e.1).takenBlocks == [] || ((s.core e.2).enabled && (s.core e.1).holes == (s.core e.2).holes &&
      !(s.core e.2).regs.suspect && (s.core e.2).regs.corectl.getLsbD 2))
/-- The running blocks of a core begin to park. -/
def State.parkCore (s : State) (c : Nat) : State :=
  (s.core c).takenBlocks.foldl (fun t b => t.beginParking c b) s
/-- THERMAL_MIGRATION: firmware parks every block of a hot cluster. (DEDUCED: log entry 77) -/
def execThermalMigration (source target : Nat) (s : State) : Out :=
  if s.canMigrate source target then
    let s1 := s.setCluster source { s.cluster source with migrating := some target }
    .next ((coresOf source).foldl State.parkCore s1)
  else .next s

/-- Where core sites stand after a migration. -/
abbrev CoreMap := List (Nat × Nat)
def CoreMap.at (m : CoreMap) (c : Nat) : Nat := ((m.find? (fun e => e.1 == c)).map (fun e => e.2)).getD c
/-- A core takes the work of another. -/
def CoreState.takeWork (k old : CoreState) : CoreState :=
  { k with slots := old.slots, fibres := old.fibres, blocks := old.blocks, mem := old.mem, eng := old.eng,
           heldEvents := k.heldEvents ++ old.heldEvents, xacqOrder := old.xacqOrder,
           regs := { k.regs with slotbind := old.regs.slotbind, peer := old.regs.peer, role := old.regs.role,
                                 dbgctl := old.regs.dbgctl, ibka := old.regs.ibka, dwa := old.regs.dwa } }
/-- A core without its work. -/
def CoreState.leftEmpty (k : CoreState) : CoreState :=
  { k with slots := [], fibres := [], blocks := [], mem := CoreMem.empty, eng := Engines.empty, heldEvents := [],
           regs := { k.regs with slotbind := [], peer := 0, role := 0 } }
/-- A parked block on its new cluster: it runs on, but for a pre-emption before or during the migration. -/
def Block.afterMigration (b : Block) (cycle : Nat) : Block :=
  if b.stage ≠ .parked ∨ b.preempted then b
  else if b.preemptLater then
    { b with stage := .parking, busy := true, parkSince := cycle, preempted := true, preemptLater := false }
  else { b with stage := .running }
/-- What names cores follows the map. -/
def State.remap (s : State) (m : CoreMap) : State :=
  let waiter (w : FaultWaiter) : FaultWaiter := match w with
    | .fibre c f => .fibre (m.at c) f
    | .engine c f => .engine (m.at c) f
  let peer (k : CoreState) : CoreState :=
    let p := k.regs.peer.toNat
    if k.regs.role = 0 then k
    else { k with regs := { k.regs with peer := pairPeer (m.at (196 * (p / 2 ^ 8 % 4) + p % 2 ^ 8)) } }
  { s with
    cores := s.cores.map (fun e => (e.1, peer e.2)),
    pairs := s.pairs.map (fun e => (e.1, { e.2 with lead := (m.at e.2.lead.1, e.2.lead.2),
                                                    trail := (m.at e.2.trail.1, e.2.trail.2) })),
    rwrs := s.rwrs.map (fun r => { r with sender := (m.at r.sender.1, r.sender.2) }),
    trans := { s.trans with faults := s.trans.faults.map (fun p => { p with waiters := p.waiters.map waiter }) },
    asc := { s.asc with
      running := s.asc.running.map (fun r => (m.at r.1, r.2)),
      table := s.asc.table.map (fun e => (e.1, { e.2 with heldLands := e.2.heldLands.map (fun h => (m.at h.1, h.2)) })) } }
/-- The blocks of a cluster are all parked or saved. -/
def State.allParked (s : State) (k : Nat) : Bool :=
  (coresOf k).all (fun c => (s.core c).takenBlocks.all (fun b =>
    !((s.block c b).stage == .running || (s.block c b).stage == .parking || (s.block c b).busy)))
/-- MIGRATION_COMPLETE: parked work stands on the new cluster, and resumes there. -/
def execMigrationComplete (source : Nat) (s : State) : Out :=
  match (s.cluster source).migrating with
  | none => .next s
  | some target =>
    if !s.allParked source then .next s
    else
      let m := List.zip (coresOf source) (coresOf target)
      let s1 := m.foldl (fun t e =>
        let old := t.core e.1
        (t.modCore e.2 (fun k => k.takeWork old)).setCore e.1 old.leftEmpty) s
      let s2 := (s1.remap m).setCluster source { s1.cluster source with migrating := none }
      .next ((coresOf target).foldl (fun t c => t.modCore c (fun k =>
        { k with blocks := k.blocks.map (fun e => (e.1, e.2.afterMigration s.cycle)) })) s2)

/-! ### Power limit and temperature (R473, R474) -/

/-- POWER_LIMIT_SET: firmware scales REFILL with the limit, which lies from 800 W to 3,200 W. (DESIGN CHOICE: log entry 76) -/
def execPowerLimitSet (watts : Nat) (s : State) : Out :=
  if 800 ≤ watts ∧ watts ≤ 3200 then
    let scale (k : Cluster) : Cluster := { k with refill := BitVec.ofNat 16 (k.refill.toNat * watts / s.powerLimit) }
    .next { s with powerLimit := watts, clusters := s.clusters.map (fun e => (e.1, scale e.2)) }
  else .next s
/-- DIE_OVERHEAT: above 105 °C REFILL is lower on the whole die; the spec states no amount. (DESIGN CHOICE: log entry 76) -/
def execDieOverheat (die celsius : Nat) (s : State) : Out :=
  if celsius ≤ 105 then .next s
  else
    let lower (n : Nat) (k : Cluster) : Cluster :=
      if k.refill = 0 ∨ n / 49 ≠ die then k
      else { k with refill := BitVec.ofNat 16 ((Config.free32 s.fresh n).toNat % k.refill.toNat) }
    .next { s with fresh := s.fresh + 1, clusters := s.clusters.map (fun e => (e.1, lower e.1 e.2)) }

end Sys2Proof.Machine
end

