-- ==== Sys2Proof/Machine/Links.lean ====
section
/-! DEFINITION. Tether ports and die-to-die links: width, clock, retraining, replays, control registers
(R410, R464 to R468). Links 0 to 35 are the tether ports, 36 to 39 the links of dies 0 and 1, 1 and 2, 2 and
3, 3 and 0. -/

namespace Sys2Proof.Machine

/-- The dies at the ends of a link. -/
def linkDies (n : Nat) : List Nat :=
  if n < 36 then [n / 9] else if n < 40 then [n - 36, (n - 35) % 4] else []
/-- The links that end at a die. (DESIGN CHOICE: log entry 78) -/
def linksOf (d : Nat) : List Nat := (List.range 40).filter (fun n => (linkDies n).contains d)
/-- A width code: 3 acts as 0. -/
def widthCode (w : BitVec 2) : BitVec 2 := if w = 3 then 0 else w
/-- The ROLE of a port: 5 to 7 act as 0. (DESIGN CHOICE: log entry 78) -/
def Link.group (l : Link) : Nat := if l.role.toNat < 5 then l.role.toNat else 0

/-- The device at the far end of a port in torus mode (R466); 0 for the switched group. (DESIGN CHOICE: log entry 61) -/
def State.farDevice (s : State) (group : Nat) : BitVec 11 :=
  let w := max 1 s.torusW
  let h := max 1 s.torusH
  let x := s.device.toNat % w
  let y := s.device.toNat / w
  let at' (x y : Nat) : BitVec 11 := BitVec.ofNat 11 (w * y + x)
  match group with
  | 1 => at' ((x + 1) % w) y
  | 2 => at' ((x + w - 1) % w) y
  | 3 => at' x ((y + h - 1) % h)
  | 4 => at' x ((y + 1) % h)
  | _ => 0

/-! ### Width and clock (R410) -/

/-- A link begins to retrain at a width. -/
def Link.retrain (l : Link) (w : BitVec 2) : Link := { l with state := 3, width := w, pending := none }
/-- A link retrains at present. -/
def Link.busy (l : Link) : Bool := l.state == 3 || l.state == 1
/-- A clock change of a die at either end has not begun. -/
def State.clockPending (s : State) (n : Nat) : Bool := (linkDies n).any (fun d => (s.die d).pendingMhz.isSome)
/-- A width request (R410): a reduction comes before a clock change that has not begun, an increase after
it; a later request replaces one that has not begun. -/
def State.requestWidth (s : State) (n : Nat) (width : BitVec 2) : State :=
  let l := s.link n
  let w := widthCode width
  if l.state ≠ 2 ∧ l.state ≠ 3 then s.setLink n { l with pending := none }
  else if w = l.width then s.setLink n { l with pending := none }
  else if l.state = 3 ∨ (w < l.width ∧ s.clockPending n) then s.setLink n { l with pending := some w }
  else s.setLink n (l.retrain w)
/-- LINK_WIDTH_CHANGE. -/
def execLinkWidthChange (link : Nat) (width : BitVec 2) (s : State) : Out :=
  if link < 40 then .next (s.requestWidth link width) else .next s

/-- A die's clock changes, and its links that are up retrain at the new frequency. (DESIGN CHOICE: log entry 78) -/
def State.changeClock (s : State) (d mhz : Nat) : State :=
  let s1 := s.setDie d { s.die d with fabricMhz := mhz, pendingMhz := none }
  (linksOf d).foldl (fun t n =>
    if (t.link n).state = 2 then t.setLink n { t.link n with state := 3 } else t) s1
/-- Some link of a die still has to retrain before the clock may change. -/
def State.clockWaits (s : State) (d : Nat) : Bool := (linksOf d).any (fun n => (s.link n).busy)
/-- LINK_FREQUENCY_CHANGE. -/
def execLinkFrequencyChange (die mhz : Nat) (s : State) : Out :=
  if 4 ≤ die then .next s
  else if s.clockWaits die then .next (s.setDie die { s.die die with pendingMhz := some mhz })
  else .next (s.changeClock die mhz)

/-- The clock changes of some dies that nothing holds back any more. -/
def State.proceed (s : State) (force : Bool) : List Nat → State
  | [] => s
  | d :: rest =>
    match (s.die d).pendingMhz with
    | some mhz => if force || !s.clockWaits d then (s.changeClock d mhz).proceed force rest else s.proceed force rest
    | none => s.proceed force rest

/-- Every enabled port of a group is down (R464). -/
def State.groupDown (s : State) (group : Nat) : Bool :=
  (List.range 36).all (fun n => !(s.link n).en || (s.link n).group != group || (s.link n).state == 0)
/-- Firmware requests a warm reset (R454). -/
def State.requestReset (s : State) : State := { s with warm := { s.warm with requested := true } }
/-- A retraining has failed: the third makes a port go down; a die-to-die link has then failed to recover. (DESIGN CHOICE: log entry 78) -/
def State.failRetrain (s : State) (n : Nat) : State :=
  let l := s.link n
  if l.failures + 1 < 3 then s.setLink n { l with failures := l.failures + 1 }
  else if n < 36 then
    let s1 := s.setLink n { l with state := 0, failures := 0, pending := none }
    if s1.groupDown l.group then s1.requestReset else s1
  else (s.setLink n { l with state := 4, failures := 0, pending := none }).requestReset
/-- LINK_RETRAIN_COMPLETE: the link is up again and what waited for it begins, a reduction before a clock
change, an increase after it; where it fails, a waiting clock change proceeds (R410). (DESIGN CHOICE: log entry 78) -/
def execLinkRetrainComplete (link : Nat) (ok : Bool) (s : State) : Out :=
  let l := s.link link
  if 40 ≤ link ∨ !l.busy then .next s
  else if !ok then .next ((s.failRetrain link).proceed true (linkDies link))
  else
    let s1 := s.setLink link { l with state := 2, failures := 0, flitReplays := 0,
                                      peer := if link < 36 then s.farDevice l.group else l.peer }
    match l.pending with
    | some w =>
      if l.width < w then .next (s1.requestWidth link w)
      else .next ((s1.proceed false (linkDies link)).requestWidth link w)
    | none => .next (s1.proceed false (linkDies link))

/-! ### Errors (R464) -/

/-- FLIT_CRC_ERROR: a bad flit is dropped, and its replay is asked for. -/
def execFlitCrcError (port : Nat) (s : State) : Out :=
  let l := s.link port
  if 36 ≤ port ∨ l.state ≠ 2 then .next s
  else
    .next (s.setLink port { l with crcerr := if l.crcerr = BitVec.allOnes 32 then l.crcerr else l.crcerr + 1,
                                   replays := if l.replays = BitVec.allOnes 16 then l.replays else l.replays + 1 })
/-- PORT_RETRAIN: a port that has replayed one flit 16 times retrains. (DESIGN CHOICE: log entry 78) -/
def execPortRetrain (port : Nat) (s : State) : Out :=
  let l := s.link port
  if port < 36 ∧ l.state = 2 ∧ 16 ≤ l.flitReplays then .next (s.setLink port { l with state := 3, flitReplays := 0 })
  else .next s

/-! ### Control registers (R465) -/

/-- A write of a port's control word: EN, WREQ, and ROLE while the port is not enabled. (DESIGN CHOICE: log entry 79) -/
def State.writePort (s : State) (n : Nat) (v : BitVec 64) : State :=
  let l := s.link n
  let role := v.extractLsb' 58 3
  let keep := l.en && role != l.role
  let en := v.getLsbD 63
  let l1 : Link := { l with
    en := en, wreq := v.extractLsb' 61 2, role := if l.en then l.role else role,
    state := if en && !l.en then 1 else if !en then 0 else l.state }
  let s1 := s.setLink n l1
  let s2 := if keep then s1.refuseCommand (196 * (n / 9)) else s1
  if en && l.en && widthCode l1.wreq != l1.width then s2.requestWidth n l1.wreq else s2
/-- A port that trains takes the width that its register requests. -/
def State.trainWidth (s : State) (n : Nat) : State :=
  let l := s.link n
  if l.state = 1 then s.setLink n { l with width := widthCode l.wreq } else s
/-- TETHER_PORT_WRITE: the word at +0 or at +8 of a port's registers. -/
def execTetherPortWrite (port offset : Nat) (value : BitVec 64) (s : State) : Out :=
  if 36 ≤ port then .next s
  else if offset = 0 then .next ((s.writePort port value).trainWidth port)
  else if offset = 8 then
    let l := s.link port
    .next (s.setLink port { l with replays := BitVec.ofNat 16 (clearedBy value 32 16 l.replays.toNat),
                                   crcerr := BitVec.ofNat 32 (clearedBy value 0 32 l.crcerr.toNat) })
  else .next s

end Sys2Proof.Machine
end

