-- ==== Sys2Proof/Machine/Boot.lean ====
section
/-! DEFINITION. Cold boot, warm reset, measurement and attestation, the management interface, lifetime
counters (R4, R403, R427, R429, R454 to R457, R466, R469 to R474). -/

namespace Sys2Proof.Machine

/-! ### Cold boot (R469, R470, R471) -/

/-- The sites that a scan has removed (R453). -/
def removedSites (log : List LifeRecord) : List Nat :=
  log.filterMap (fun r => match r with
    | .removal c => some c
    | _ => none)
/-- The sites that boot firmware enables (R4). -/
def RootOfTrust.enabledSites (r : RootOfTrust) : List Nat :=
  (List.range 784).filter (fun c => !r.config.disabled.contains c && !(removedSites r.lifeLog).contains c)
/-- Hole lanes of a site. -/
def ConfigRecord.holesAt (r : ConfigRecord) (c : Nat) : LaneMask :=
  ((r.holes.find? (fun e => e.1 == c)).map (fun e => e.2)).getD 0
/-- A core that boot firmware enables. -/
def bootCore (r : ConfigRecord) (c : Nat) : CoreState :=
  { CoreState.reset with enabled := true, holes := r.holesAt c,
                         regs := { CoreRegs.reset with corectl := 4 } }
/-- A die that boot firmware has released. -/
def bootDie : DieRegs := { DieRegs.reset with fabricMhz := 1500, powered := true }
/-- The allowance that firmware gives a cluster at the full power limit. (DESIGN CHOICE: log entries 76, 79) -/
def bootCluster : Cluster := { Cluster.reset with pacnt := 65536, refill := 512, pacap := 65536 }
/-- The ROLE of a port: in torus mode that of R466. (DESIGN CHOICE: log entry 79) -/
def bootRole (torus : Bool) (n : Nat) : BitVec 3 := if torus && decide (n < 32) then BitVec.ofNat 3 (n / 8 + 1) else 0
/-- A link that boot has trained. (DESIGN CHOICE: log entry 79) -/
def bootLink (torus : Bool) (n : Nat) : Link :=
  { Link.reset with en := true, state := 2, role := if n < 36 then bootRole torus n else 0 }

/-- The cluster last in row-major order of logical position on the highest die that a partition has
clusters on (R403). (DESIGN CHOICE: log entry 79) -/
def defaultCompPool (clusters : List Nat) : List Nat :=
  let d := clusters.foldl (fun m k => max m (k / 49)) 0
  let pos (k : Nat) : Nat :=
    let p := packagePos (196 * d + 28 * (k % 49 / 7) + 2 * (k % 7))
    28 * (p.2 / 2) + p.1 / 2
  let best := leastBy (fun k => 784 - pos k) (clusters.filter (fun k => k / 49 == d))
  best.elim [] (fun k => [k])
/-- The one partition that firmware makes when nothing else is configured: the whole device. (DESIGN CHOICE: log entry 81) -/
def bootPartition : Partition :=
  let clusters := List.range 196
  let pool := defaultCompPool clusters
  { Partition.absent with
    clusters := clusters, memory := (List.range 4).map (fun d => (d, 0, 384 * 2 ^ 30)),
    compPool := pool, auditHosts := pool.flatMap coresOf, quota := 4096 }

/-- The images of R471 are measured in order until one does not verify. (DEDUCED: log entry 80) -/
def measureImages (images : List (Nat × Bool × BitVec 384)) (record : BitVec 384) :
    List Nat → List (Nat × BitVec 384) × Bool
  | [] => ([], true)
  | n :: rest =>
    let image : Option (BitVec 384) :=
      if n = 2 then some record
      else (images.find? (fun e => e.1 == n && e.2.1)).map (fun e => e.2.2)
    match image with
    | some digest => ((n, digest) :: (measureImages images record rest).1, (measureImages images record rest).2)
    | none => ([], false)

/-- The device after power-on with what its flash holds: nothing else survives. (DESIGN CHOICE: log entry 81) -/
def State.powerOff (s : State) : State :=
  { State.reset with
    rot := { s.rot with phase := .off, measured := [], version := false, capabilities := false,
                        algorithms := false, responses := [] },
    schedule := s.schedule, choices := s.choices, fresh := s.fresh }
/-- Cores, dies, clusters, links and the partition as firmware brings them up. (DESIGN CHOICE: log entry 81) -/
def State.bringUp (s : State) : State :=
  let r := s.rot.config
  let torus := decide (1 < r.torusW * r.torusH)
  let s1 : State := { s with
    cores := s.rot.enabledSites.map (fun c => (c, bootCore r c)),
    dies := (List.range 4).map (fun d => (d, bootDie)),
    clusters := (List.range 196).map (fun k => (k, bootCluster)),
    links := (List.range 40).map (fun n => (n, bootLink torus n)),
    partitions := [(0, bootPartition)], device := BitVec.ofNat 11 r.device, torusW := r.torusW, torusH := r.torusH }
  { s1 with links := s1.links.map (fun e =>
      (e.1, { e.2 with peer := if e.1 < 36 then s1.farDevice e.2.group else 0 })) }
/-- COLD_BOOT: the root of trust verifies and measures, and the device comes up or stays in recovery mode. -/
def execColdBoot (s : State) : Out :=
  if s.rot.phase ≠ .off then .next s
  else
    let records := s.rot.copy0.signatureOk || s.rot.copy1.signatureOk
    let m := if records then measureImages s.rot.images s.rot.recordDigest [1, 2, 3, 4] else ([], false)
    let s1 := { s with rot := { s.rot with measured := m.1, boots := s.rot.boots + 1,
                                           phase := if m.2 then .running else .recovery } }
    if m.2 then .next s1.bringUp else .next s1

/-! ### Warm reset (R454, R455) -/

/-- WATCHDOG_EXPIRY: an expiring watchdog requests a warm reset. -/
def execWatchdogExpiry (s : State) : Out := .next s.requestReset
/-- WARM_RESET_REQUEST: the board controller requests one (R473). -/
def execWarmResetRequest (s : State) : Out :=
  if s.rot.phase = .running then .next s.requestReset else .next s

/-- The end of a launch that was running (R455). -/
def resetEnd (touched : List (BitVec 16)) (l : Launch) : EndInfo :=
  EndInfo.plain 4 (if touched.contains l.ctx then 0xE201 else 0xE200)
/-- Launches that were running end. -/
def State.endRunning (s : State) (touched : List (BitVec 16)) : State :=
  s.launches.foldl (fun t l =>
    if l.stage = .running then t.endLaunch l.part l.lid (resetEnd touched l) false else t) s
/-- A core after its die's reset: repair map and counters stay. (DEDUCED: log entry 82) -/
def CoreState.warmReset (k : CoreState) : CoreState :=
  { CoreState.reset with enabled := k.enabled, holes := k.holes, life := k.life }.count 30
/-- A die after its reset: what firmware sets up again stands. (DEDUCED: log entry 82) -/
def DieRegs.warmReset (d : DieRegs) : DieRegs :=
  { d with invva := 0, invcmd := 12, mismatch := 0, sampled := 0, pendingMhz := none }
/-- A link retrains; a port that is not enabled stays down. (DEDUCED: log entry 82) -/
def Link.warmReset (l : Link) : Link :=
  if l.en then { l with state := 1, flitReplays := 0, failures := 0, pending := none } else l
/-- WARM_RESET: issue stops, running launches end, the compute dies are reset, and links retrain. (DEDUCED: log entry 82) -/
def execWarmReset (touched : List (BitVec 16)) (s : State) : Out :=
  if s.rot.phase ≠ .running ∨ s.warm.active then .next s
  else
    let s1 := s.logCounters.endRunning touched
    .next { s1 with
      cores := s1.cores.map (fun e => (e.1, e.2.warmReset)),
      dies := s1.dies.map (fun e => (e.1, e.2.warmReset)),
      clusters := s1.clusters.map (fun e => (e.1, { e.2 with moving := none, migrating := none })),
      links := s1.links.map (fun e => (e.1, e.2.warmReset)),
      trans := { s1.trans with coreTlb := [], dieTlb := [], handleCache := [], inv := none,
                               faults := s1.trans.faults.map (fun p => { p with waiters := [] }) },
      asc := { s1.asc with running := none,
                           table := s1.asc.table.map (fun e => (e.1, { e.2 with heldLands := [] })) },
      pairs := [], audit := [], rwrs := [], granted := [],
      warm := { s1.warm with requested := false, active := true, touched := touched } }

/-- A launch that the last warm reset ended. -/
def Launch.byReset (l : Launch) : Bool :=
  match l.ending with
  | some e => e.abcode == 0xE200 || e.abcode == 0xE201
  | none => false
/-- An open ascent of such a launch: ripped, or grounded without a failed entry. -/
def State.treatAscent (s : State) (id : DWord) (touched : Bool) : State :=
  match s.asc.find id with
  | some e =>
    if e.stage ≠ .opened then s
    else if touched then
      { s with asc := s.asc.put id { e with stage := .grounded },
               warm := { s.warm with reportAscents := s.warm.reportAscents ++ [id] } }
    else { s with asc := s.asc.rip id e }
  | none => s
/-- WARM_RESET_RESUME: launch queues resume, open ascents of ended launches are treated, and the report
reaches the operating system. (DEDUCED: log entry 82) -/
def execWarmResetResume (s : State) : Out :=
  if !s.warm.active then .next s
  else
    let s1 := { s with
      cores := s.cores.map (fun e => (e.1, { e.2 with regs := { e.2.regs with corectl := if e.2.enabled then 4 else 0 } })),
      links := s.links.map (fun e => (e.1, if e.2.state == 1 then { e.2 with state := 2 } else e.2)),
      warm := { s.warm with active := false, touched := [], reportContexts := s.warm.touched, reportAscents := [] } }
    .next ((s.launches.filter Launch.byReset).foldl (fun t l =>
      l.opened.foldl (fun t id => t.treatAscent id (s.warm.touched.contains l.ctx)) t) s1)

/-! ### Cold reset, temperature (R473, R474) -/

/-- COLD_RESET_REQUEST: every context is lost, and the next step is a cold boot. -/
def execColdResetRequest (s : State) : Out := .next s.powerOff
/-- THERMAL_TRIP: at 115 °C power is removed; the trip is recorded. -/
def execThermalTrip (celsius : Nat) (s : State) : Out :=
  if celsius < 115 then .next s else .next (s.appendLife (.trip s.time)).powerOff

/-! ### Lifetime counters (R456) -/

/-- SUPPLY_DROOP_EVENT. -/
def execSupplyDroopEvent (core : Nat) (s : State) : Out := .next (s.modCore core (fun k => k.count 16))
/-- The bin of a temperature: 5 °C each from 20 °C on. (DEDUCED: log entry 80) -/
def temperatureBin (celsius : Nat) : Nat := min 15 ((celsius - 20) / 5)
/-- LIFETIME_COUNTER_TICK: a second passes, and an hour may have. -/
def execLifetimeCounterTick (core celsius : Nat) (hour : Bool) (s : State) : Out :=
  .next (s.modCore core (fun k =>
    let k1 := k.count (temperatureBin celsius)
    if hour then k1.count 31 else k1))

/-! ### Attestation (R472) -/

/-- The root of trust answers on a transport: PCIe DOE where port 0 is an endpoint and the device is not in
recovery mode, MCTP always. -/
def RootOfTrust.answers (r : RootOfTrust) (doe : Bool) : Bool :=
  r.phase != .off && (!doe || (r.config.endpoint && r.phase == .running))
/-- A request is answered, with the registers that it lists. (PRESUMED: log entry 83) -/
def State.spdm (s : State) (code : Nat) (doe : Bool) (listed : List (Nat × BitVec 384))
    (g : RootOfTrust → RootOfTrust) : Out :=
  if s.rot.answers doe then
    let r := g s.rot
    .next { s with rot := { r with responses := r.responses ++ [(code, doe, listed)] } }
  else .next s

/-- GET_VERSION. (PRESUMED: log entry 83) -/
def execGetVersion (doe : Bool) (s : State) : Out := s.spdm 0x84 doe [] (fun r => { r with version := true })
/-- GET_CAPABILITIES. -/
def execGetCapabilities (doe : Bool) (s : State) : Out :=
  s.spdm 0xE1 doe [] (fun r => { r with capabilities := true })
/-- NEGOTIATE_ALGORITHMS: ECDSA P-384 and SHA-384. -/
def execNegotiateAlgorithms (doe : Bool) (s : State) : Out :=
  s.spdm 0xE3 doe [] (fun r => { r with algorithms := true })
/-- GET_DIGESTS. -/
def execGetDigests (doe : Bool) (s : State) : Out := s.spdm 0x81 doe [] id
/-- GET_CERTIFICATE. -/
def execGetCertificate (doe : Bool) (s : State) : Out := s.spdm 0x82 doe [] id
/-- CHALLENGE: the signed answer reflects the registers. -/
def execChallenge (doe : Bool) (_nonce : BitVec 256) (s : State) : Out := s.spdm 0x83 doe s.rot.measured id
/-- GET_MEASUREMENTS lists the registers that have been written. (PRESUMED: log entry 83) -/
def execGetMeasurements (doe : Bool) (s : State) : Out := s.spdm 0xE0 doe s.rot.measured id

end Sys2Proof.Machine
end

