-- ==== Sys2Proof/Machine/Dispatch.lean ====
section
/-! DEFINITION. The dispatch of every instruction and device step to its meaning: one arm per
constructor. -/

namespace Sys2Proof.Machine

def exec (i : Instr) (s : State) : Host.Outcome State Fault Refusal :=
  match i with
  | .sadd f => Sys2Proof.Machine.execSadd f s
  | .saddLong f => Sys2Proof.Machine.execSaddLong f s
  | .ssub f => Sys2Proof.Machine.execSsub f s
  | .ssubLong f => Sys2Proof.Machine.execSsubLong f s
  | .smul f => Sys2Proof.Machine.execSmul f s
  | .smulLong f => Sys2Proof.Machine.execSmulLong f s
  | .smulh f => Sys2Proof.Machine.execSmulh f s
  | .smulhLong f => Sys2Proof.Machine.execSmulhLong f s
  | .sdiv f => Sys2Proof.Machine.execSdiv f s
  | .sdivLong f => Sys2Proof.Machine.execSdivLong f s
  | .srem f => Sys2Proof.Machine.execSrem f s
  | .sremLong f => Sys2Proof.Machine.execSremLong f s
  | .sand f => Sys2Proof.Machine.execSand f s
  | .sandLong f => Sys2Proof.Machine.execSandLong f s
  | .sor f => Sys2Proof.Machine.execSor f s
  | .sorLong f => Sys2Proof.Machine.execSorLong f s
  | .sxor f => Sys2Proof.Machine.execSxor f s
  | .sxorLong f => Sys2Proof.Machine.execSxorLong f s
  | .snor f => Sys2Proof.Machine.execSnor f s
  | .snorLong f => Sys2Proof.Machine.execSnorLong f s
  | .sshl f => Sys2Proof.Machine.execSshl f s
  | .sshlLong f => Sys2Proof.Machine.execSshlLong f s
  | .sshr f => Sys2Proof.Machine.execSshr f s
  | .sshrLong f => Sys2Proof.Machine.execSshrLong f s
  | .ssra f => Sys2Proof.Machine.execSsra f s
  | .ssraLong f => Sys2Proof.Machine.execSsraLong f s
  | .smin f => Sys2Proof.Machine.execSmin f s
  | .sminLong f => Sys2Proof.Machine.execSminLong f s
  | .smax f => Sys2Proof.Machine.execSmax f s
  | .smaxLong f => Sys2Proof.Machine.execSmaxLong f s
  | .scmp f => Sys2Proof.Machine.execScmp f s
  | .scmpLong f => Sys2Proof.Machine.execScmpLong f s
  | .ssel f => Sys2Proof.Machine.execSsel f s
  | .sselLong f => Sys2Proof.Machine.execSselLong f s
  | .smov f => Sys2Proof.Machine.execSmov f s
  | .sli f => Sys2Proof.Machine.execSli f s
  | .sliLong f => Sys2Proof.Machine.execSliLong f s
  | .slih f => Sys2Proof.Machine.execSlih f s
  | .sclz f => Sys2Proof.Machine.execSclz f s
  | .spopc f => Sys2Proof.Machine.execSpopc f s
  | .sbfe f => Sys2Proof.Machine.execSbfe f s
  | .sbfeLong f => Sys2Proof.Machine.execSbfeLong f s
  | .sbfi f => Sys2Proof.Machine.execSbfi f s
  | .sbfiLong f => Sys2Proof.Machine.execSbfiLong f s
  | .sld f => Sys2Proof.Machine.execSld f s
  | .sldLong f => Sys2Proof.Machine.execSldLong f s
  | .sst f => Sys2Proof.Machine.execSst f s
  | .sstLong f => Sys2Proof.Machine.execSstLong f s
  | .sldk f => Sys2Proof.Machine.execSldk f s
  | .sldkLong f => Sys2Proof.Machine.execSldkLong f s
  | .br f => Sys2Proof.Machine.execBr f s
  | .brLong f => Sys2Proof.Machine.execBrLong f s
  | .brs f => Sys2Proof.Machine.execBrs f s
  | .brsLong f => Sys2Proof.Machine.execBrsLong f s
  | .brv f => Sys2Proof.Machine.execBrv f s
  | .regang => Sys2Proof.Machine.execRegang s
  | .call f => Sys2Proof.Machine.execCall f s
  | .callLong f => Sys2Proof.Machine.execCallLong f s
  | .ret f => Sys2Proof.Machine.execRet f s
  | .jmpr f => Sys2Proof.Machine.execJmpr f s
  | .loop f => Sys2Proof.Machine.execLoop f s
  | .loopLong f => Sys2Proof.Machine.execLoopLong f s
  | .exit => Sys2Proof.Machine.execExit s
  | .nop => Sys2Proof.Machine.execNop s
  | .trap f => Sys2Proof.Machine.execTrap f s
  | .tret => Sys2Proof.Machine.execTret s
  | .brk f => Sys2Proof.Machine.execBrk f s
  | .sysLaunch f => Sys2Proof.Machine.execSysLaunch f s
  | .sysLaunchLong f => Sys2Proof.Machine.execSysLaunchLong f s
  | .sysLstat f => Sys2Proof.Machine.execSysLstat f s
  | .sysLstatLong f => Sys2Proof.Machine.execSysLstatLong f s
  | .sysAbort f => Sys2Proof.Machine.execSysAbort f s
  | .sysAbortLong f => Sys2Proof.Machine.execSysAbortLong f s
  | .fsw => Sys2Proof.Machine.execFsw s
  | .fbar => Sys2Proof.Machine.execFbar s
  | .fwait f => Sys2Proof.Machine.execFwait f s
  | .xacq f => Sys2Proof.Machine.execXacq f s
  | .xrel f => Sys2Proof.Machine.execXrel f s
  | .chkerr f => Sys2Proof.Machine.execChkerr f s
  | .time f => Sys2Proof.Machine.execTime f s
  | .mfs f => Sys2Proof.Machine.execMfs f s
  | .mts f => Sys2Proof.Machine.execMts f s
  | .accsv f => Sys2Proof.Machine.execAccsv f s
  | .accsvLong f => Sys2Proof.Machine.execAccsvLong f s
  | .accrs f => Sys2Proof.Machine.execAccrs f s
  | .accrsLong f => Sys2Proof.Machine.execAccrsLong f s
  | .osv f => Sys2Proof.Machine.execOsv f s
  | .osvLong f => Sys2Proof.Machine.execOsvLong f s
  | .orst f => Sys2Proof.Machine.execOrst f s
  | .orstLong f => Sys2Proof.Machine.execOrstLong f s
  | .clauseWaitTest h => Sys2Proof.Machine.execClauseWaitTest h s
  | .add f => Sys2Proof.Machine.execAdd f s
  | .sub f => Sys2Proof.Machine.execSub f s
  | .mul f => Sys2Proof.Machine.execMul f s
  | .mulh f => Sys2Proof.Machine.execMulh f s
  | .mulw f => Sys2Proof.Machine.execMulw f s
  | .mad f => Sys2Proof.Machine.execMad f s
  | .addx f => Sys2Proof.Machine.execAddx f s
  | .subx f => Sys2Proof.Machine.execSubx f s
  | .div f => Sys2Proof.Machine.execDiv f s
  | .rem f => Sys2Proof.Machine.execRem f s
  | .abs f => Sys2Proof.Machine.execAbs f s
  | .neg f => Sys2Proof.Machine.execNeg f s
  | .min f => Sys2Proof.Machine.execMin f s
  | .max f => Sys2Proof.Machine.execMax f s
  | .sad f => Sys2Proof.Machine.execSad f s
  | .and f => Sys2Proof.Machine.execAnd f s
  | .or f => Sys2Proof.Machine.execOr f s
  | .xor f => Sys2Proof.Machine.execXor f s
  | .not f => Sys2Proof.Machine.execNot f s
  | .shl f => Sys2Proof.Machine.execShl f s
  | .shr f => Sys2Proof.Machine.execShr f s
  | .sra f => Sys2Proof.Machine.execSra f s
  | .rot f => Sys2Proof.Machine.execRot f s
  | .clz f => Sys2Proof.Machine.execClz f s
  | .popc f => Sys2Proof.Machine.execPopc f s
  | .brev f => Sys2Proof.Machine.execBrev f s
  | .bfe f => Sys2Proof.Machine.execBfe f s
  | .bfi f => Sys2Proof.Machine.execBfi f s
  | .sel f => Sys2Proof.Machine.execSel f s
  | .cmp f => Sys2Proof.Machine.execCmp f s
  | .fma f => Sys2Proof.Machine.execFma f s
  | .sqrt f => Sys2Proof.Machine.execSqrt f s
  | .rcp f => Sys2Proof.Machine.execRcp f s
  | .rsq f => Sys2Proof.Machine.execRsq f s
  | .exp2 f => Sys2Proof.Machine.execExp2 f s
  | .log2 f => Sys2Proof.Machine.execLog2 f s
  | .sin f => Sys2Proof.Machine.execSin f s
  | .cos f => Sys2Proof.Machine.execCos f s
  | .tanh f => Sys2Proof.Machine.execTanh f s
  | .sfuCompute core fib => Sys2Proof.Machine.execSfuCompute core fib s
  | .classTest f => Sys2Proof.Machine.execClassTest f s
  | .frnd f => Sys2Proof.Machine.execFrnd f s
  | .fscl f => Sys2Proof.Machine.execFscl f s
  | .cvt f => Sys2Proof.Machine.execCvt f s
  | .pack f => Sys2Proof.Machine.execPack f s
  | .unpk f => Sys2Proof.Machine.execUnpk f s
  | .qnt f => Sys2Proof.Machine.execQnt f s
  | .dqnt f => Sys2Proof.Machine.execDqnt f s
  | .cbq f => Sys2Proof.Machine.execCbq f s
  | .had32 f => Sys2Proof.Machine.execHad32 f s
  | .shfl f => Sys2Proof.Machine.execShfl f s
  | .shfx f => Sys2Proof.Machine.execShfx f s
  | .shfd f => Sys2Proof.Machine.execShfd f s
  | .shfu f => Sys2Proof.Machine.execShfu f s
  | .qx f => Sys2Proof.Machine.execQx f s
  | .vote f => Sys2Proof.Machine.execVote f s
  | .lred f => Sys2Proof.Machine.execLred f s
  | .scan f => Sys2Proof.Machine.execScan f s
  | .bcst f => Sys2Proof.Machine.execBcst f s
  | .vext f => Sys2Proof.Machine.execVext f s
  | .vins f => Sys2Proof.Machine.execVins f s
  | .mov f => Sys2Proof.Machine.execMov f s
  | .movi f => Sys2Proof.Machine.execMovi f s
  | .movs f => Sys2Proof.Machine.execMovs f s
  | .pset f => Sys2Proof.Machine.execPset f s
  | .pand f => Sys2Proof.Machine.execPand f s
  | .por f => Sys2Proof.Machine.execPor f s
  | .pxor f => Sys2Proof.Machine.execPxor f s
  | .pnot f => Sys2Proof.Machine.execPnot f s
  | .pmov f => Sys2Proof.Machine.execPmov f s
  | .lid f => Sys2Proof.Machine.execLid f s
  | .pxy f => Sys2Proof.Machine.execPxy f s
  | .ldp f => Sys2Proof.Machine.execLdp f s
  | .stp f => Sys2Proof.Machine.execStp f s
  | .ldw f => Sys2Proof.Machine.execLdw f s
  | .stw f => Sys2Proof.Machine.execStw f s
  | .lds f => Sys2Proof.Machine.execLds f s
  | .sts f => Sys2Proof.Machine.execSts f s
  | .ldg f => Sys2Proof.Machine.execLdg f s
  | .stg f => Sys2Proof.Machine.execStg f s
  | .prefg f => Sys2Proof.Machine.execPrefg f s
  | .atomAdd f => Sys2Proof.Machine.execAtomAdd f s
  | .atomMin f => Sys2Proof.Machine.execAtomMin f s
  | .atomMax f => Sys2Proof.Machine.execAtomMax f s
  | .atomAnd f => Sys2Proof.Machine.execAtomAnd f s
  | .atomOr f => Sys2Proof.Machine.execAtomOr f s
  | .atomXor f => Sys2Proof.Machine.execAtomXor f s
  | .atomXchg f => Sys2Proof.Machine.execAtomXchg f s
  | .atomCas f => Sys2Proof.Machine.execAtomCas f s
  | .redAdd f => Sys2Proof.Machine.execRedAdd f s
  | .redMin f => Sys2Proof.Machine.execRedMin f s
  | .redMax f => Sys2Proof.Machine.execRedMax f s
  | .redAnd f => Sys2Proof.Machine.execRedAnd f s
  | .redOr f => Sys2Proof.Machine.execRedOr f s
  | .redXor f => Sys2Proof.Machine.execRedXor f s
  | .atomsAdd f => Sys2Proof.Machine.execAtomsAdd f s
  | .atomsMin f => Sys2Proof.Machine.execAtomsMin f s
  | .atomsMax f => Sys2Proof.Machine.execAtomsMax f s
  | .atomsAnd f => Sys2Proof.Machine.execAtomsAnd f s
  | .atomsOr f => Sys2Proof.Machine.execAtomsOr f s
  | .atomsXor f => Sys2Proof.Machine.execAtomsXor f s
  | .atomsXchg f => Sys2Proof.Machine.execAtomsXchg f s
  | .atomsCas f => Sys2Proof.Machine.execAtomsCas f s
  | .fence f => Sys2Proof.Machine.execFence f s
  | .ofence f => Sys2Proof.Machine.execOfence f s
  | .bara f => Sys2Proof.Machine.execBara f s
  | .bars f => Sys2Proof.Machine.execBars f s
  | .barw f => Sys2Proof.Machine.execBarw f s
  | .bari f => Sys2Proof.Machine.execBari f s
  | .marm f => Sys2Proof.Machine.execMarm f s
  | .mwait f => Sys2Proof.Machine.execMwait f s
  | .monitorTrigger core fib => Sys2Proof.Machine.execMonitorTrigger core fib s
  | .mwaitTimeout core fib => Sys2Proof.Machine.execMwaitTimeout core fib s
  | .rwr f => Sys2Proof.Machine.execRwr f s
  | .rwrDelivery index => Sys2Proof.Machine.execRwrDelivery index s
  | .await f => Sys2Proof.Machine.execAwait f s
  | .arrc f => Sys2Proof.Machine.execArrc f s
  | .qtry f => Sys2Proof.Machine.execQtry f s
  | .qlen f => Sys2Proof.Machine.execQlen f s
  | .qcls f => Sys2Proof.Machine.execQcls f s
  | .qput f => Sys2Proof.Machine.execQput f s
  | .oclm f => Sys2Proof.Machine.execOclm f s
  | .orel f => Sys2Proof.Machine.execOrel f s
  | .q4RowWrite core fib => Sys2Proof.Machine.execQ4RowWrite core fib s
  | .mma f => Sys2Proof.Machine.execMma f s
  | .azero f => Sys2Proof.Machine.execAzero f s
  | .ald f => Sys2Proof.Machine.execAld f s
  | .drainQ f => Sys2Proof.Machine.execDrainQ f s
  | .drainPl f => Sys2Proof.Machine.execDrainPl f s
  | .drainScr f => Sys2Proof.Machine.execDrainScr f s
  | .drainSlot f => Sys2Proof.Machine.execDrainSlot f s
  | .drainGlb f => Sys2Proof.Machine.execDrainGlb f s
  | .cpyIn f => Sys2Proof.Machine.execCpyIn f s
  | .cpyOut f => Sys2Proof.Machine.execCpyOut f s
  | .cpyq f => Sys2Proof.Machine.execCpyq f s
  | .cbld f => Sys2Proof.Machine.execCbld f s
  | .scrlF f => Sys2Proof.Machine.execScrlF f s
  | .scrlM f => Sys2Proof.Machine.execScrlM f s
  | .wgath f => Sys2Proof.Machine.execWgath f s
  | .wpool f => Sys2Proof.Machine.execWpool f s
  | .gnode f => Sys2Proof.Machine.execGnode f s
  | .gsig f => Sys2Proof.Machine.execGsig f s
  | .gflag f => Sys2Proof.Machine.execGflag f s
  | .asco f => Sys2Proof.Machine.execAsco f s
  | .ascp f => Sys2Proof.Machine.execAscp f s
  | .ascl f => Sys2Proof.Machine.execAscl f s
  | .ascr f => Sys2Proof.Machine.execAscr f s
  | .ascf f => Sys2Proof.Machine.execAscf f s
  | .ascq f => Sys2Proof.Machine.execAscq f s
  | .asclAuditRelease ascent => Sys2Proof.Machine.execAsclAuditRelease ascent s
  | .compensationLaunch place => Sys2Proof.Machine.execCompensationLaunch place s
  | .compensationExit core block => Sys2Proof.Machine.execCompensationExit core block s
  | .engineAccept core fib engine => Sys2Proof.Machine.execEngineAccept core fib engine s
  | .scrollAccept core fib => Sys2Proof.Machine.execScrollAccept core fib s
  | .spillHeaderRead core fib => Sys2Proof.Machine.execSpillHeaderRead core fib s
  | .scrollRow core fib => Sys2Proof.Machine.execScrollRow core fib s
  | .endStatusDelivery core fib => Sys2Proof.Machine.execEndStatusDelivery core fib s
  | .mmaComplete core fib => Sys2Proof.Machine.execMmaComplete core fib s
  | .wgathComplete core fib => Sys2Proof.Machine.execWgathComplete core fib s
  | .drainComplete core fib => Sys2Proof.Machine.execDrainComplete core fib s
  | .copyComplete core fib cseq => Sys2Proof.Machine.execCopyComplete core fib cseq s
  | .wpoolComplete core fib => Sys2Proof.Machine.execWpoolComplete core fib s
  | .completionRecordEnqueue core fib engine => Sys2Proof.Machine.execCompletionRecordEnqueue core fib engine s
  | .longLatencyCompletion core fib index => Sys2Proof.Machine.execLongLatencyCompletion core fib index s
  | .fibreWake core fib => Sys2Proof.Machine.execFibreWake core fib s
  | .xacqGrant core => Sys2Proof.Machine.execXacqGrant core s
  | .slotSwitch core slot => Sys2Proof.Machine.execSlotSwitch core slot s
  | .stallSwitch core slot => Sys2Proof.Machine.execStallSwitch core slot s
  | .ageSwitch core slot => Sys2Proof.Machine.execAgeSwitch core slot s
  | .issueCycle => Sys2Proof.Machine.execIssueCycle s
  | .allowanceRefill cluster => Sys2Proof.Machine.execAllowanceRefill cluster s
  | .userHandlerEntry core fib => Sys2Proof.Machine.execUserHandlerEntry core fib s
  | .tretResume core fib => Sys2Proof.Machine.execTretResume core fib s
  | .handlerOverrun core fib => Sys2Proof.Machine.execHandlerOverrun core fib s
  | .eventRecordRelease core => Sys2Proof.Machine.execEventRecordRelease core s
  | .replay core fib => Sys2Proof.Machine.execReplay core fib s
  | .next core fib => Sys2Proof.Machine.execNext core fib s
  | .user core fib ucause => Sys2Proof.Machine.execUser core fib ucause s
  | .kill core fib => Sys2Proof.Machine.execKill core fib s
  | .abort core fib code => Sys2Proof.Machine.execAbort core fib code s
  | .cont core fib => Sys2Proof.Machine.execCont core fib s
  | .step core fib => Sys2Proof.Machine.execStep core fib s
  | .stepall core fib => Sys2Proof.Machine.execStepall core fib s
  | .stop core fib => Sys2Proof.Machine.execStop core fib s
  | .dbgctlWrite core value => Sys2Proof.Machine.execDbgctlWrite core value s
  | .fibreSave core fib => Sys2Proof.Machine.execFibreSave core fib s
  | .fibreRestore core fib => Sys2Proof.Machine.execFibreRestore core fib s
  | .engdataAccess core write => Sys2Proof.Machine.execEngdataAccess core write s
  | .engdone core value => Sys2Proof.Machine.execEngdone core value s
  | .registerWrite core selector value => Sys2Proof.Machine.execRegisterWrite core selector value s
  | .blockRun core block => Sys2Proof.Machine.execBlockRun core block s
  | .blockPreempt core block => Sys2Proof.Machine.execBlockPreempt core block s
  | .blockParked core block => Sys2Proof.Machine.execBlockParked core block s
  | .blockSave core block => Sys2Proof.Machine.execBlockSave core block s
  | .blockRestore core block => Sys2Proof.Machine.execBlockRestore core block s
  | .blockRelease core block => Sys2Proof.Machine.execBlockRelease core block s
  | .launchDoorbell part queue address firmware => Sys2Proof.Machine.execLaunchDoorbell part queue address firmware s
  | .launchPlacement part queue places => Sys2Proof.Machine.execLaunchPlacement part queue places s
  | .launchAgeing part queue => Sys2Proof.Machine.execLaunchAgeing part queue s
  | .launchCompletion part lid => Sys2Proof.Machine.execLaunchCompletion part lid s
  | .poolMove cluster cls => Sys2Proof.Machine.execPoolMove cluster cls s
  | .thermalMigration source target => Sys2Proof.Machine.execThermalMigration source target s
  | .migrationComplete source => Sys2Proof.Machine.execMigrationComplete source s
  | .linkWidthChange link width => Sys2Proof.Machine.execLinkWidthChange link width s
  | .linkFrequencyChange die mhz => Sys2Proof.Machine.execLinkFrequencyChange die mhz s
  | .linkRetrainComplete link ok => Sys2Proof.Machine.execLinkRetrainComplete link ok s
  | .pageWalk die asid va write => Sys2Proof.Machine.execPageWalk die asid va write s
  | .faultReplyGrant part token => Sys2Proof.Machine.execFaultReplyGrant part token s
  | .faultReplyRefuse part token => Sys2Proof.Machine.execFaultReplyRefuse part token s
  | .invalidateRange die asid base lsize => Sys2Proof.Machine.execInvalidateRange die asid base lsize s
  | .invalidateAsid die asid => Sys2Proof.Machine.execInvalidateAsid die asid s
  | .invalidateAll die => Sys2Proof.Machine.execInvalidateAll die s
  | .invalidateHandles die asid => Sys2Proof.Machine.execInvalidateHandles die asid s
  | .invalidationDone => Sys2Proof.Machine.execInvalidationDone s
  | .dmaRequest asid va size data => Sys2Proof.Machine.execDmaRequest asid va size data s
  | .registerEccError place correctable => Sys2Proof.Machine.execRegisterEccError place correctable s
  | .uncorrectableControlError place => Sys2Proof.Machine.execUncorrectableControlError place s
  | .scrubVisit addr bad => Sys2Proof.Machine.execScrubVisit addr bad s
  | .matrixResidueFailure core => Sys2Proof.Machine.execMatrixResidueFailure core s
  | .loadValueForward pair => Sys2Proof.Machine.execLoadValueForward pair s
  | .compareDecision pair => Sys2Proof.Machine.execCompareDecision pair s
  | .pairRestoreDone pair => Sys2Proof.Machine.execPairRestoreDone pair s
  | .checkpoint pair => Sys2Proof.Machine.execCheckpoint pair s
  | .heldExit core fib => Sys2Proof.Machine.execHeldExit core fib s
  | .auditReplay part host third => Sys2Proof.Machine.execAuditReplay part host third s
  | .scanStart core => Sys2Proof.Machine.execScanStart core s
  | .scanAbort core => Sys2Proof.Machine.execScanAbort core s
  | .scanComplete core sig => Sys2Proof.Machine.execScanComplete core sig s
  | .watchdogExpiry => Sys2Proof.Machine.execWatchdogExpiry s
  | .warmReset touched => Sys2Proof.Machine.execWarmReset touched s
  | .warmResetResume => Sys2Proof.Machine.execWarmResetResume s
  | .lifeLogAppend => Sys2Proof.Machine.execLifeLogAppend s
  | .flitCrcError port => Sys2Proof.Machine.execFlitCrcError port s
  | .portRetrain port => Sys2Proof.Machine.execPortRetrain port s
  | .tetherPortWrite port offset value => Sys2Proof.Machine.execTetherPortWrite port offset value s
  | .torusScrollCancel core fib => Sys2Proof.Machine.execTorusScrollCancel core fib s
  | .coldBoot => Sys2Proof.Machine.execColdBoot s
  | .getVersion doe => Sys2Proof.Machine.execGetVersion doe s
  | .getCapabilities doe => Sys2Proof.Machine.execGetCapabilities doe s
  | .negotiateAlgorithms doe => Sys2Proof.Machine.execNegotiateAlgorithms doe s
  | .getDigests doe => Sys2Proof.Machine.execGetDigests doe s
  | .getCertificate doe => Sys2Proof.Machine.execGetCertificate doe s
  | .challenge doe nonce => Sys2Proof.Machine.execChallenge doe nonce s
  | .getMeasurements doe => Sys2Proof.Machine.execGetMeasurements doe s
  | .powerLimitSet watts => Sys2Proof.Machine.execPowerLimitSet watts s
  | .warmResetRequest => Sys2Proof.Machine.execWarmResetRequest s
  | .coldResetRequest => Sys2Proof.Machine.execColdResetRequest s
  | .dieOverheat die celsius => Sys2Proof.Machine.execDieOverheat die celsius s
  | .thermalTrip celsius => Sys2Proof.Machine.execThermalTrip celsius s
  | .applicationCoreAccess hart access => Sys2Proof.Machine.execApplicationCoreAccess hart access s
  | .tetherFlitDelivery port flit => Sys2Proof.Machine.execTetherFlitDelivery port flit s
  | .supplyDroopEvent core => Sys2Proof.Machine.execSupplyDroopEvent core s
  | .lifetimeCounterTick core celsius hour => Sys2Proof.Machine.execLifetimeCounterTick core celsius hour s
  | .poolMoveComplete cluster => Sys2Proof.Machine.execPoolMoveComplete cluster s
  | .checkpointComplete pair => Sys2Proof.Machine.execCheckpointComplete pair s
  | .blockCommandComplete core block => Sys2Proof.Machine.execBlockCommandComplete core block s
  | .fibreSaveRecordDone core => Sys2Proof.Machine.execFibreSaveRecordDone core s

end Sys2Proof.Machine
end

