-- ==== Sys2Proof/Machine/Place.lean ====
section
/-! DEFINITION. A machine that stands before one given instruction: what loading a program, its
placement and its first issue lead to, made at once. -/

namespace Sys2Proof.Machine

/-- Writes a little-endian number of bytes to physical memory. -/
def State.putNum (s : State) (a n x : Nat) : State :=
  { s with mem := s.mem.putBytes a (bytesOf n x) }

/-- Context 0 of partition 0: a context table and page tables that map the first GiB to itself. (DESIGN CHOICE: log entry 2) -/
def State.mapFlat (s : State) : State :=
  let d := s.die 0
  let p := s.partition 0
  let s1 := ((s.setDie 0 { d with ctxbase := 0x10000 }).setPartition 0
    { p with memory := (0, 0, 2 ^ 30) :: p.memory })
  let s2 := (((((s1.putNum 0x10000 8 (2 ^ 63 + 0x11000)).putNum 0x10018 8 0).putNum
    0x11000 8 (0x12000 + 1)).putNum 0x12000 8 (0x13000 + 1)).putNum 0x13000 8 7)
  { s2 with trans := { s2.trans with coreTlb := Tab.set [] s2.trans.coreTlb 0 [],
                                     dieTlb := Tab.set [] s2.trans.dieTlb 0 [] } }

/-- A launch of one block of one fibre. (DESIGN CHOICE: log entry 2) -/
def plainLaunch : Launch :=
  { lid := 1, part := 0, queue := 0, address := 0, ctx := 0, level1 := false,
    params := [0x1000, 0x10001, 0x10000000001, 0, 0, 0xF0000], prio := 0, stage := .running,
    submitted := 0, aged := 0, placed := 1, ended := 0, chki := 0, deadLanes := 0, tstart := 0,
    tend := 0, ending := none, recorded := false, bufrecs := [], traps := [], entries := [], planeinit := [],
    opened := [], pushed := [] }

/-- Its block. (DESIGN CHOICE: log entry 2) -/
def plainBlock : Block :=
  { Block.absent with stage := .running, part := 0, lid := 1, srows := 1, slot0 := 0, slots := 1,
                      fibres := 1 }

/-- A quad with all its lanes at an address, inside a clause that ends at `last` or before one. -/
def plainQuad (q : Nat) (inClause : Bool) (pc last : VAddr) : Quad :=
  { Quad.off with pc := pc, active := quadLanes q, region := 0x1000, regionActive := quadLanes q,
                  ended := false, inClause := inClause, header := 0x1000, clauseEnd := last,
                  first := inClause }

/-- Its fibre. (DESIGN CHOICE: log entry 2) -/
def plainFibre (inClause : Bool) (pc last : VAddr) : Fibre :=
  { Fibre.absent with
    present := BitVec.allOnes 64, run := .running,
    quads := (List.range 16).map (fun q => (q, plainQuad q inClause pc last)) }

/-- The machine stands before the instruction of some parcels: a clause of that one instruction at
0x1000, or a clause header there. (DESIGN CHOICE: log entry 2) -/
def State.before (s : State) (ps : List Word) : State :=
  let head := isHeader (ps.headD 0)
  let n := parcelCount (ps.headD 0)
  let h : ClauseHeader := { wait := 0, seta := 15, setb := 15, rgn := true, len := BitVec.ofNat 8 n }
  let code := if head then ps else BitVec.ofNat 32 (headerBits h) :: ps
  let s1 := { s.mapFlat with rot := { s.rot with phase := .running },
                             launches := plainLaunch :: s.launches }
  let s2 := { s1 with mem := s1.mem.putBytes 0x1000 (code.flatMap bytesOfParcel) }
  let pc : VAddr := if head then 0x1000 else 0x1004
  let k := s2.core 0
  let slot : Slot := { Slot.absent with bound := true, block := 0 }
  let s3 := s2.setCore 0 { (((k.setFibre 0 (plainFibre (!head) pc (nextPc pc n))).setBlock 0
    plainBlock).setSlot 0 slot) with enabled := true }
  { s3 with schedule := [], granted := [⟨0, 0, BitVec.allOnes 16⟩] }

end Sys2Proof.Machine
end

