-- ==== Sys2Proof/Machine/Sched.lean ====
section
/-! DEFINITION. What happens next when nothing is scheduled and no gang holds a grant: the first of the
device's own steps that is due, in a fixed order, else one more cycle. The spec leaves the order of such
steps open; `schedule` gives any other one. -/

namespace Sys2Proof.Machine

/-- A device step with its arguments: the meaning of an event of the opcode table. -/
abbrev Own := State → Out

/-! ### The steps that may be due -/

/-- Steps of the engines and operations of a fibre (R90, R207, R277, R284, R370). -/
def Fibre.engineSteps (x : Fibre) (c f : Nat) : List Own :=
  [execSfuCompute c f, execQ4RowWrite c f, execScrollAccept c f, execSpillHeaderRead c f, execScrollRow c f,
   execEndStatusDelivery c f, execWgathComplete c f, execWpoolComplete c f, execDrainComplete c f, execMmaComplete c f] ++
  (List.range 4).flatMap (fun e => [execEngineAccept c f e, execCompletionRecordEnqueue c f e]) ++
  (List.range x.ops.length).map (fun n => execLongLatencyCompletion c f n)
/-- Steps that let a fibre go on (R31, R178, R262, R351, R355, R459). -/
def Fibre.wakeSteps (c f : Nat) : List Own :=
  [execMonitorTrigger c f, execMwaitTimeout c f, execHeldExit c f, execFibreWake c f, execUserHandlerEntry c f,
   execTretResume c f, execHandlerOverrun c f]
/-- What firmware does with a frozen fibre of itself: an unimplemented extension becomes the user trap 0x01,
a residue failure is replayed, a trap without a handler ends the launch (R126, R347, R354, R435). -/
def Fibre.served (x : Fibre) (c f : Nat) : List Own :=
  match x.run with
  | .frozen cause =>
    if cause = 0x06 then []
    else if cause = 0x02 then [execUser c f 0x01]
    else if cause = 0x81 then [execReplay c f]
    else [execAbort c f 0]
  | _ => []

/-- The other copy of a block, if it has one, has ended too. -/
def State.bothDone (s : State) (c b : Nat) : Bool :=
  s.blockDone c b && (match s.otherBlock c b with
    | some (c2, b2) => s.blockDone c2 b2
    | none => true)
/-- Nothing of its launch can still reach an ended block's plane cells. (DESIGN CHOICE: log entry 19) -/
def State.unreached (s : State) (c b : Nat) : Bool :=
  match s.launchOf c b with
  | some l => l.params.depth == 0 || l.stage == .ended
  | none => true
/-- What firmware does with an entry of a block table (R392, R396, R404). (DESIGN CHOICE: log entry 19) -/
def State.blockSteps (s : State) (c b : Nat) : List Own :=
  let k := s.block c b
  let compensates : Bool := match k.role with
    | .compensation _ _ _ => true
    | _ => false
  match k.stage with
  | .empty => if k.taken && !s.launchEnding c b then [execBlockRun c b] else []
  | .running =>
    if compensates then [execCompensationExit c b]
    else if s.bothDone c b && s.unreached c b then [execBlockPreempt c b]
    else []
  | .parking => [execBlockParked c b]
  | .parked =>
    if s.blockDone c b then [execBlockRelease c b]
    else if (s.cluster (clusterOf c)).migrating.isNone then [execBlockRun c b]
    else []
  | .saving => [execBlockCommandComplete c b]
  | .restoring => [execBlockCommandComplete c b]
  | .saved => []
/-- Entries that were placed and whose launch has ended before they ran. -/
def State.staleSteps (s : State) (c b : Nat) : List Own :=
  let k := s.block c b
  if k.stage = .parked ∧ s.launchEnding c b then [execBlockRelease c b] else []

/-- The steps of a core. -/
def State.coreSteps (s : State) (c : Nat) : List Own :=
  let k := s.core c
  let fibres := k.fibres.flatMap (fun e => e.2.engineSteps c e.1)
  let copies := k.eng.copies.map (fun a => execCopyComplete c a.fib a.cmd.cseq)
  let held := if k.eng.heldMma.isSome then [execEngdone c 0] else []
  fibres ++ copies ++ held ++ [execEventRecordRelease c, execFibreSaveRecordDone c, execXacqGrant c] ++
  k.fibres.flatMap (fun e => e.2.served c e.1 ++ Fibre.wakeSteps c e.1) ++
  k.blocks.flatMap (fun e => s.staleSteps c e.1 ++ s.blockSteps c e.1) ++
  (k.slots.filter (fun e => e.2.bound)).flatMap (fun e =>
    [execSlotSwitch c e.1, execStallSwitch c e.1, execAgeSwitch c e.1])

/-- The steps of pairs, remote writes and links. -/
def State.fabricSteps (s : State) : List Own :=
  s.pairs.flatMap (fun e => [execLoadValueForward e.1, execCompareDecision e.1, execCheckpoint e.1,
    execCheckpointComplete e.1, execPairRestoreDone e.1]) ++
  (if s.rwrs.isEmpty then [] else [execRwrDelivery 0]) ++
  s.links.flatMap (fun e => if e.2.busy then [execLinkRetrainComplete e.1 true] else [execPortRetrain e.1]) ++
  (if s.trans.inv.isSome then [execInvalidationDone] else [])

/-- The replay of a partition's oldest audit record, on the first host that fits. -/
def State.auditSteps (s : State) (part : Nat) : List Own :=
  match s.audit.find? (fun r => r.part == part) with
  | none => []
  | some r =>
    match (s.partition part).auditHosts.find? (s.hostFits r) with
    | none => []
    | some h =>
      let third := (s.cores.map (fun e => e.1)).find? (fun c => c != h && c != r.core && (s.core c).eng.matrix.isEmpty)
      [execAuditReplay part h (third.getD h)]
/-- The steps of ascents (R314, R372). -/
def State.ascentSteps (s : State) : List Own :=
  (s.asc.table.filter (fun e => !e.2.heldLands.isEmpty)).map (fun e => execAsclAuditRelease (ascentId e.1 e.2)) ++
  match s.asc.running, s.asc.nextEntry with
  | none, some (_, _, e) =>
    (match (s.launch? e.part e.lid).bind s.specialPlace with
     | some p => [execCompensationLaunch p]
     | none => [])
  | _, _ => []
/-- The steps of launches and queues (R391 to R393). -/
def State.launchSteps (s : State) (part : Nat) : List Own :=
  let queues := (s.partition part).queues.map (fun e => e.1)
  (s.launches.filter (fun l => l.part == part && l.stage == .running)).map (fun l => execLaunchCompletion part l.lid) ++
  queues.map (fun q => execLaunchAgeing part q) ++
  queues.flatMap (fun q =>
    match s.headOf part q with
    | some l =>
      (match (if s.waitsForPlace l then s.findPlaces l else none) with
       | some ps => [execLaunchPlacement part q ps]
       | none => [])
    | none => [])
/-- The steps of clusters (R402, R408). -/
def State.clusterSteps (s : State) : List Own :=
  s.clusters.flatMap (fun e =>
    (if e.2.moving.isSome then [execPoolMoveComplete e.1] else []) ++
    (if e.2.migrating.isSome then [execMigrationComplete e.1] else []))

/-- Every step that may be due, in the order in which the model tries them. (DESIGN CHOICE: log entry 1) -/
def State.ownSteps (s : State) : List Own :=
  (if s.warm.active then [execWarmResetResume] else if s.warm.requested then [execWarmReset []] else []) ++
  s.fabricSteps ++ s.cores.flatMap (fun e => s.coreSteps e.1) ++ s.ascentSteps ++
  s.partitions.flatMap (fun e => s.auditSteps e.1 ++ s.launchSteps e.1) ++ s.clusterSteps

/-- A step is due where it changes the state. -/
def State.due (s : State) (g : Own) : Bool :=
  match g s with
  | .next t => t != s
  | _ => false

/-- What the device does of itself. (DESIGN CHOICE: log entry 1) -/
def State.proceedAlone (s : State) : Out :=
  match s.rot.phase with
  | .off => execColdBoot s
  | _ => ((s.ownSteps.find? s.due).getD execIssueCycle) s

end Sys2Proof.Machine
end

