-- ==== Sys2Proof/Machine/Step.lean ====
section
/-! DEFINITION. One step of the machine: a scheduled device step, the instruction of the gang that
is granted the next issue, or the device step that comes of itself. -/

namespace Sys2Proof.Machine

/-- One step. (DESIGN CHOICE: log entry 1) -/
def step (s : State) : Host.Outcome State Fault Refusal :=
  match s.schedule with
  | i :: rest => exec i { s with schedule := rest }
  | [] =>
    match s.granted with
    | g :: rest =>
      match State.issue { s with granted := rest, focus := g } with
      | .run i s' => exec i s'
      | .instead s' => .next s'
    | [] => s.proceedAlone

/-- The machine right before the instruction of a table word. (DESIGN CHOICE: log entry 2) -/
def State.withFetchWord (s : State) (nbits w : Nat) : State := s.before (tableParcels nbits w)

end Sys2Proof.Machine
end

