-- ==== Sys2Proof/Safety.lean ====
section
/-! DEFINITION. What counts as a safe run: every step answers a next state. -/

namespace Sys2Proof.Safety

open Sys2Proof.Machine

/-- The state after `n` steps, none once a step has stopped. -/
def run : Nat → State → Option State
  | 0, s => some s
  | n + 1, s =>
    match step s with
    | .next s' => run n s'
    | _ => none

/-- No step of the first `n` stops. -/
def Safe (n : Nat) (s : State) : Prop := (run n s).isSome = true

end Sys2Proof.Safety
end

