-- ==== Sys2Proof/Certificates/Slice0/Obligations.lean ====
section
/-! DEFINITION. The statements for the provers. The words in which they are said come first in each
group: tables from instructions to what the rules give them, and relations between a state and the next
one. -/

namespace Sys2Proof.Spec
open Sys2Proof.Machine

/-! ### Words of all the statements -/

/-- `exec` answers a next state that has a property. -/
def Gives (i : Instr) (s : State) (P : State → Prop) : Prop := ∃ t, exec i s = .next t ∧ P t

/-- The device outside the issuing fibre is the same: memory, every other core site, every other fibre,
slot and block of its core, and everything else but the model's own fields. -/
def SameOutside (s t : State) : Prop :=
  t.mem = s.mem ∧ t.trans = s.trans ∧ t.dies = s.dies ∧ t.clusters = s.clusters ∧ t.links = s.links ∧
  t.launches = s.launches ∧ t.partitions = s.partitions ∧ t.asc = s.asc ∧ t.pairs = s.pairs ∧
  t.rwrs = s.rwrs ∧ t.rot = s.rot ∧ t.time = s.time ∧
  (∀ c, c ≠ s.focus.core → t.core c = s.core c) ∧
  (∀ f, f ≠ s.focus.fib → t.fibre s.focus.core f = s.fibre s.focus.core f) ∧
  (∀ n, t.slot s.focus.core n = s.slot s.focus.core n) ∧
  (∀ b, t.block s.focus.core b = s.block s.focus.core b) ∧
  t.curCore.mem = s.curCore.mem ∧ t.curCore.eng = s.curCore.eng ∧ t.curCore.regs = s.curCore.regs

/-- The registers of the issuing fibre are the same: scalars but those listed, every lane register,
predicate and unit, the completion flags and every special register. -/
def SameRegs (s t : State) (except : List Nat) : Prop :=
  (∀ n, n ∉ except → t.cur.scalar n = s.cur.scalar n) ∧
  (∀ r l, t.lane r l = s.lane r l) ∧ (∀ n, t.cur.pred n = s.cur.pred n) ∧
  t.cur.regs.units = s.cur.regs.units ∧ t.cur.flags = s.cur.flags ∧ t.cur.sys = s.cur.sys

/-- The quads of the issuing gang stand `parcels` parcels further; every other quad is as it was. -/
def Advanced (s t : State) (parcels : Nat) : Prop :=
  (∀ q, q < 16 → s.focus.quads.getLsbD q = true →
    (t.cur.quad q).pc = (s.cur.quad q).pc + BitVec.ofNat 57 (4 * parcels) ∧
    (t.cur.quad q).active = (s.cur.quad q).active ∧ (t.cur.quad q).stack = (s.cur.quad q).stack) ∧
  (∀ q, q < 16 → s.focus.quads.getLsbD q = false → t.cur.quad q = s.cur.quad q)

/-! ### Scalar arithmetic -/

/-- The two-operand operations of R159 and R160. -/
inductive AluOp where
  | add | sub | mul | mulh | and | or | xor | nor | shl | shr | sra | min | max
  deriving DecidableEq, Repr

/-- The instructions of R159 and R160, in both forms. -/
def alu : Instr → Option (AluOp × (ScalarReg ⊕ ScalarLong))
  | .sadd f => some (.add, .inl f)
  | .saddLong f => some (.add, .inr f)
  | .ssub f => some (.sub, .inl f)
  | .ssubLong f => some (.sub, .inr f)
  | .smul f => some (.mul, .inl f)
  | .smulLong f => some (.mul, .inr f)
  | .smulh f => some (.mulh, .inl f)
  | .smulhLong f => some (.mulh, .inr f)
  | .sand f => some (.and, .inl f)
  | .sandLong f => some (.and, .inr f)
  | .sor f => some (.or, .inl f)
  | .sorLong f => some (.or, .inr f)
  | .sxor f => some (.xor, .inl f)
  | .sxorLong f => some (.xor, .inr f)
  | .snor f => some (.nor, .inl f)
  | .snorLong f => some (.nor, .inr f)
  | .sshl f => some (.shl, .inl f)
  | .sshlLong f => some (.shl, .inr f)
  | .sshr f => some (.shr, .inl f)
  | .sshrLong f => some (.shr, .inr f)
  | .ssra f => some (.sra, .inl f)
  | .ssraLong f => some (.sra, .inr f)
  | .smin f => some (.min, .inl f)
  | .sminLong f => some (.min, .inr f)
  | .smax f => some (.max, .inl f)
  | .smaxLong f => some (.max, .inr f)
  | _ => none

/-- The fields of both forms: FN, SD, and the two operands. -/
def fnOf : ScalarReg ⊕ ScalarLong → BitVec 6
  | .inl f => f.fn
  | .inr f => f.x.extractLsb' 0 6
def sdOf : ScalarReg ⊕ ScalarLong → BitVec 6
  | .inl f => f.sd
  | .inr f => f.sd
def operandA (s : State) : ScalarReg ⊕ ScalarLong → PX
  | .inl f => s.cur.scalar f.sa.toNat
  | .inr f => s.cur.scalar f.sa.toNat
def operandB (s : State) : ScalarReg ⊕ ScalarLong → PX
  | .inl f => s.cur.scalar f.sb.toNat
  | .inr f => ⟨f.imm.signExtend 64, false⟩

/-- W of FN: 64, 32, 16 or 8 bits (R120). -/
def widthOf (fn : BitVec 6) : Nat :=
  if fn.extractLsb' 0 2 = 0 then 64
  else if fn.extractLsb' 0 2 = 1 then 32
  else if fn.extractLsb' 0 2 = 2 then 16 else 8

/-- The operations on W-bit values (R159, R160). -/
def AluOp.at (op : AluOp) (u : Bool) {w : Nat} (a b : BitVec w) : BitVec w :=
  match op with
  | .add => a + b
  | .sub => a - b
  | .mul => a * b
  | .mulh =>
    if u then ((a.setWidth (2 * w) * b.setWidth (2 * w)) >>> w).setWidth w
    else ((a.signExtend (2 * w) * b.signExtend (2 * w)) >>> w).setWidth w
  | .and => a &&& b
  | .or => a ||| b
  | .xor => a ^^^ b
  | .nor => ~~~(a ||| b)
  | .shl => a <<< (b.toNat % w)
  | .shr => a >>> (b.toNat % w)
  | .sra => a.sshiftRight (b.toNat % w)
  | .min => if (if u then a.ule b else a.sle b) then a else b
  | .max => if (if u then a.ule b else a.sle b) then b else a

/-- A W-bit result as its register holds it, extended by U (R159). -/
def widened (u : Bool) {w : Nat} (x : BitVec w) : DWord := if u then x.setWidth 64 else x.signExtend 64

/-- The result register of an operation (R159). -/
def aluResult (op : AluOp) (fn : BitVec 6) (a b : DWord) : DWord :=
  widened (fnU fn) (op.at (fnU fn) (a.setWidth (widthOf fn)) (b.setWidth (widthOf fn)))

/-- `sdiv` and `srem` (true), in both forms. -/
def divides : Instr → Option (Bool × (ScalarReg ⊕ ScalarLong))
  | .sdiv f => some (false, .inl f)
  | .sdivLong f => some (false, .inr f)
  | .srem f => some (true, .inl f)
  | .sremLong f => some (true, .inr f)
  | _ => none

/-- Quotient or remainder, truncated toward zero (R76, R160). -/
def quotient (rem u : Bool) {w : Nat} (a b : BitVec w) : BitVec w :=
  if u then (if rem then a.umod b else a.udiv b) else (if rem then a.srem b else a.sdiv b)
/-- What a division by zero gives (R76). -/
def overZero (rem u : Bool) {w : Nat} (a : BitVec w) : BitVec w :=
  if rem then a
  else if u then BitVec.allOnes w
  else if a.slt 0 then BitVec.intMin w else BitVec.intMax w

/-- The value that the other register instructions give `sD`, with the scalar registers that they read
(R160 to R163): a comparison, a selection, moves, counts, bit fields. -/
def scalarValue (s : State) : Instr → Option (BitVec 6 × List (BitVec 6) × DWord)
  | .scmp f =>
    let w := widthOf f.fn
    let a := (s.cur.scalar f.sa.toNat).bits.setWidth w
    let b := (s.cur.scalar f.sb.toNat).bits.setWidth w
    some (f.sd, [f.sa, f.sb], if condition (fnU f.fn) (fnCond f.fn) a b then 1 else 0)
  | .scmpLong f =>
    let fn := f.x.extractLsb' 0 6
    let w := widthOf fn
    let a := (s.cur.scalar f.sa.toNat).bits.setWidth w
    let b := (f.imm.signExtend 64).setWidth w
    some (f.sd, [f.sa], if condition (fnU fn) (fnCond fn) a b then 1 else 0)
  | .ssel f =>
    some (f.sd, [f.sd, f.sa, f.sb],
      if (s.cur.scalar f.sd.toNat).bits ≠ 0 then (s.cur.scalar f.sa.toNat).bits
      else (s.cur.scalar f.sb.toNat).bits)
  | .sselLong f =>
    some (f.sd, [f.sd, f.sa],
      if (s.cur.scalar f.sd.toNat).bits ≠ 0 then (s.cur.scalar f.sa.toNat).bits else f.imm.signExtend 64)
  | .smov f => some (f.sd, [f.sa], (s.cur.scalar f.sa.toNat).bits)
  | .sli f => some (f.sd, [], f.imm.signExtend 64)
  | .sliLong f => some (f.sd, [], f.imm.signExtend 64)
  | .slih f => some (f.sd, [f.sd], f.imm ++ (s.cur.scalar f.sd.toNat).bits.extractLsb' 0 32)
  | .sclz f =>
    let w := widthOf f.fn
    some (f.sd, [f.sa], ((s.cur.scalar f.sa.toNat).bits.setWidth w).clz.setWidth 64)
  | .spopc f =>
    let w := widthOf f.fn
    some (f.sd, [f.sa], ones ((s.cur.scalar f.sa.toNat).bits.setWidth w))
  | .sbfe f =>
    some (f.sd, [f.sa, f.sb], extracted (fnU f.fn) (s.cur.scalar f.sa.toNat).bits
      (s.cur.scalar f.sb.toNat).bits)
  | .sbfeLong f =>
    some (f.sd, [f.sa], extracted (fnU (f.x.extractLsb' 0 6)) (s.cur.scalar f.sa.toNat).bits
      (f.imm.signExtend 64))
  | .sbfi f =>
    some (f.sd, [f.sd, f.sa, f.sb], inserted (s.cur.scalar f.sd.toNat).bits
      (s.cur.scalar f.sa.toNat).bits (s.cur.scalar f.sb.toNat).bits)
  | .sbfiLong f =>
    some (f.sd, [f.sd, f.sa], inserted (s.cur.scalar f.sd.toNat).bits
      (s.cur.scalar f.sa.toNat).bits (f.imm.signExtend 64))
  | _ => none
where
  /-- The conditions of R119: equal, not equal, less, at most, greater, at least. -/
  condition {w : Nat} (u : Bool) (cc : BitVec 3) (a b : BitVec w) : Bool :=
    let le := if u then a.ule b else a.sle b
    let ge := if u then b.ule a else b.sle a
    if cc = 0 then a == b else if cc = 1 then a != b else if cc = 2 then !ge else if cc = 3 then le
    else if cc = 4 then !le else ge
  /-- The number of ones. -/
  ones {w : Nat} (a : BitVec w) : DWord :=
    BitVec.ofNat 64 ((List.range w).countP (fun j => a.getLsbD j))
  /-- The field at `pos` of `len` bits, cut at bit 63 (R163). -/
  fieldLen (c : DWord) : Nat :=
    min (min (c.extractLsb' 8 7).toNat 64) (64 - (c.extractLsb' 0 6).toNat)
  extracted (u : Bool) (a c : DWord) : DWord :=
    let pos := (c.extractLsb' 0 6).toNat
    let v := a.extractLsb' pos (fieldLen c)
    if u then v.setWidth 64 else v.signExtend 64
  inserted (d a c : DWord) : DWord :=
    let pos := (c.extractLsb' 0 6).toNat
    let m : DWord := (BitVec.allOnes (fieldLen c)).setWidth 64 <<< pos
    (d &&& ~~~m) ||| ((a <<< pos) &&& m)

end Sys2Proof.Spec

namespace Sys2Proof.Spec
open Sys2Proof.Machine

/-! ### Control flow -/

/-- The address a number of parcels away from the issuing instruction (R121). -/
def away (s : State) (parcels : Int) : VAddr := s.pc + BitVec.ofInt 57 (4 * parcels)

/-- Where a control transfer goes, once it is taken: its target, and the scalar register that it writes
with the value (R167, R172, R173). -/
def transferOf (s : State) : Instr → Option (VAddr × Option (BitVec 6 × DWord))
  | .br f => some (away s f.imm.toInt, none)
  | .brLong f => some (away s f.imm.toInt, none)
  | .brs f => if holds f.sd (s.cur.scalar f.sa.toNat).bits then some (away s f.imm.toInt, none) else none
  | .brsLong f => if holds f.sd (s.cur.scalar f.sa.toNat).bits then some (away s f.imm.toInt, none) else none
  | .call f => some (away s f.imm.toInt, some (f.sd, (s.pc + 4).setWidth 64))
  | .callLong f => some (away s f.imm.toInt, some (f.sd, (s.pc + 8).setWidth 64))
  | .ret f => register (s.cur.scalar f.sa.toNat).bits
  | .jmpr f => register (s.cur.scalar f.sa.toNat).bits
  | .loop f =>
    if (s.cur.scalar f.sd.toNat).bits ≠ 1 then
      some (away s f.imm.toInt, some (f.sd, (s.cur.scalar f.sd.toNat).bits - 1))
    else none
  | .loopLong f =>
    if (s.cur.scalar f.sd.toNat).bits ≠ 1 then
      some (away s f.imm.toInt, some (f.sd, (s.cur.scalar f.sd.toNat).bits - 1))
    else none
  | _ => none
where
  /-- The conditions of `brs` on a signed value. -/
  holds (cc : BitVec 6) (a : DWord) : Bool :=
    if cc = 0 then a == 0 else if cc = 1 then a != 0 else if cc = 2 then a.slt 0
    else if cc = 3 then !a.slt 0 else if cc = 4 then a.sle 0 else !a.sle 0
  /-- A register target with bits [63:57] and [1:0] zero. -/
  register (a : DWord) : Option (VAddr × Option (BitVec 6 × DWord)) :=
    if a.extractLsb' 57 7 = 0 ∧ a.extractLsb' 0 2 = 0 then some (a.extractLsb' 0 57, none) else none

/-- The scalar registers that a control transfer reads. -/
def transferReads : Instr → List (BitVec 6)
  | .brs f => [f.sa]
  | .brsLong f => [f.sa]
  | .ret f => [f.sa]
  | .jmpr f => [f.sa]
  | .loop f => [f.sd]
  | .loopLong f => [f.sd]
  | _ => []

/-- The transfers that are not taken, with the scalar register that they write (R167, R173). -/
def fallsThrough (s : State) : Instr → Option (Option (BitVec 6 × DWord))
  | .brs f => if transferOf s (.brs f) = none then some none else none
  | .brsLong f => if transferOf s (.brsLong f) = none then some none else none
  | .loop f => if (s.cur.scalar f.sd.toNat).bits = 1 then some (some (f.sd, 0)) else none
  | .loopLong f => if (s.cur.scalar f.sd.toNat).bits = 1 then some (some (f.sd, 0)) else none
  | _ => none

/-- A scalar register written, if one is. -/
def writing (s : State) : Option (BitVec 6 × DWord) → State
  | some (sd, v) => s.modCur (fun x => x.setScalar sd.toNat (PX.clean v))
  | none => s

/-- What `brv` does to one quad of the gang (R169): its lanes, the record that it pushes, where it goes. -/
def Branched (s t : State) (f : ScalarLong) (q : Nat) : Prop :=
  let y := s.cur.quad q
  let z := t.cur.quad q
  let p := s.cur.pred (f.sa.toNat % 16)
  let a := y.active &&& ~~~s.cur.sys.dead
  let takes := a &&& (if f.sa.getLsbD 4 then ~~~p else p)
  let falls := a &&& ~~~takes
  ∃ r, z.stack = r :: y.stack ∧ r.point = away s f.x.toInt ∧ r.fall = away s 2 ∧
    r.members = s.focus.quads ∧ r.mask = a ∧
    (if falls = 0 then z.pc = away s f.imm.toInt ∧ z.active = a ∧ r.pend = 0
     else if takes = 0 then z.pc = away s 2 ∧ z.active = a ∧ r.pend = 0
     else z.pc = away s f.imm.toInt ∧ z.active = takes ∧ r.pend = falls)

/-- Where control goes on when a gang takes a trap that its launch handles (R92, R345, R351): the
registers of the trap, and the handler entered by the quads that trapped. -/
def TookTrap (s t : State) (cause : BitVec 8) (pc : VAddr) (lanes : LaneMask) (handler resume : VAddr)
    (inClause : Bool) : Prop :=
  t.cur.sys.trapCause = cause ∧ t.cur.sys.trapPc = pc ∧ t.cur.sys.trapLanes = lanes ∧
  (∃ h, t.cur.handler = some h ∧ h.cause = cause ∧ h.quads = s.focus.quads ∧ h.resume = resume ∧
    h.inClause = inClause ∧
    ∀ q, q < 16 → s.focus.quads.getLsbD q = true → Tab.get Quad.off h.saved q = s.cur.quad q) ∧
  (∀ q, q < 16 → s.focus.quads.getLsbD q = true →
    (t.cur.quad q).pc = handler ∧ (t.cur.quad q).active = (s.cur.quad q).active &&& ~~~s.cur.sys.dead ∧
    (t.cur.quad q).inClause = false ∧ (t.cur.quad q).stack = []) ∧
  (∀ q, q < 16 → s.focus.quads.getLsbD q = false → t.cur.quad q = s.cur.quad q) ∧
  t.cur.run = s.cur.run ∧ t.cur.regs = s.cur.regs ∧ t.cur.flags = s.cur.flags ∧
  t.cur.sys.chki = s.cur.sys.chki ∧ t.cur.sys.dead = s.cur.sys.dead

/-- A gang may take a trap to a handler: none runs, and the launch has an entry for the cause. -/
def Handled (s : State) (cause : BitVec 8) (handler : VAddr) : Prop :=
  s.cur.handler = none ∧
  (s.launchOf s.focus.core s.cur.block).bind (fun l => l.handlerFor cause.toNat) = some handler

/-- Special registers, by selector (R91 to R98, R127, R427), but for `TIME`. -/
def selectorValue (s : State) (n : BitVec 12) : Option DWord :=
  let x := s.cur
  let b := s.curBlock
  let nat (v : Nat) : Option DWord := some (BitVec.ofNat 64 v)
  if n = 0x000 then some 64
  else if n = 0x001 then some 8
  else if n = 0x002 then some 8
  else if n = 0x003 then nat x.index
  else if n = 0x004 then nat x.bslot
  else if n = 0x005 then nat b.bx
  else if n = 0x006 then nat b.by'
  else if n = 0x00B then nat (s.focus.core / 196)
  else if n = 0x00C then some (s.device.setWidth 64)
  else if n = 0x00F then nat b.pdepth
  else if n = 0x010 then nat b.scrb
  else if n = 0x011 then some s.curCore.holes
  else if n = 0x012 then some x.sys.dead
  else if n = 0x013 then some (x.sys.chki.setWidth 64)
  else if n = 0x014 then some (x.sys.satc.setWidth 64)
  else if n = 0x015 then some x.sys.sprog
  else if n = 0x017 then some (x.sys.arrivals.setWidth 64)
  else if n = 0x019 then some (x.sys.trapCause.setWidth 64)
  else if n = 0x01A then some (x.sys.trapPc.setWidth 64)
  else if n = 0x01B then some x.sys.trapLanes
  else if n = 0x01C then some 0xFF
  else if n = 0x01D then some 0xFFFF
  else if n = 0x01E then some 0x3FFFFF
  else none

/-- The units that `xacq` and `xrel` name (R185). -/
def unitsOf (imm : BitVec 12) : BitVec 12 :=
  ((BitVec.allOnes 12) >>> (12 - (imm.extractLsb' 0 4).toNat)) <<< (imm.extractLsb' 8 4).toNat

/-- What the instructions that only move the gang, or hold it, do (R33, R37, R175, R182 to R184). -/
def fibreControl (s : State) : Instr → Option State
  | .nop => some (s.retire .nop)
  | .fwait f =>
    if (List.range 12).all (fun n => !f.imm.getLsbD n || s.cur.flag n == 0) then some (s.retire (.fwait f))
    else some (s.wait (.flags f.imm))
  | .fsw =>
    let k := s.curCore
    let z := k.slot s.curSlotNo
    some (match k.nextReady s.curSlotNo z.current with
      | some g => (s.retire .fsw).setSlot s.focus.core s.curSlotNo { z with switchTo := some g }
      | none => s.retire .fsw)
  | .chkerr f =>
    if s.cur.lq.q12 = [] ∧ s.cur.sys.chki &&& f.imm.setWidth 32 = 0 then some (s.retire (.chkerr f))
    else none
  | _ => none

end Sys2Proof.Spec

open Sys2Proof Sys2Proof.Machine Sys2Proof.Spec

/-- R159, R160: the two-operand scalar instructions, in both forms, with operands that hold no poison,
write the result of their operation to sD, extended by U, and the gang goes on. A write of `s0` is
discarded (`ScalarWriteBack`). -/
def Obligations.ScalarArithmetic : Prop :=
  ∀ i op f s, alu i = some (op, f) → (operandA s f).poison = false → (operandB s f).poison = false →
    exec i s = .next (s.putScalar i (sdOf f) (aluResult op (fnOf f) (operandA s f).bits (operandB s f).bits))

/-- R76, R77, R160: `sdiv` and `srem` give the truncated quotient or remainder; the two corners give the
values of R76 and set their `CHKI` bit; a corner whose trap the launch enables raises 0x0C. R160 to R163:
comparison, selection, moves, counts and bit fields write their value to sD. -/
def Obligations.ScalarDivisionAndMoves : Prop :=
  (∀ i rem f s, divides i = some (rem, f) → (operandA s f).poison = false → (operandB s f).poison = false →
     let w := widthOf (fnOf f)
     let u := fnU (fnOf f)
     let a := (operandA s f).bits.setWidth w
     let b := (operandB s f).bits.setWidth w
     let corner := u = false ∧ a = BitVec.intMin w ∧ b = BitVec.allOnes w
     let written (bits : BitVec 32) (v : BitVec w) : Prop :=
       if s.enabledTraps &&& bits = 0 then exec i s = .next ((s.orChki bits).putScalar i (sdOf f) (widened u v))
       else exec i s = .next ((s.orChki bits).trap 0x0C 0 i)
     (b = 0 → written 0x4 (overZero rem u a)) ∧
     (b ≠ 0 → corner → written 0x8 (if rem then 0 else a)) ∧
     (b ≠ 0 → ¬corner → written 0 (quotient rem u a b))) ∧
  (∀ i s sd reads v, scalarValue s i = some (sd, reads, v) →
     (∀ r ∈ reads, (s.cur.scalar r.toNat).poison = false) → exec i s = .next (s.putScalar i sd v))

/-- R158: an arithmetic instruction that reads a poisoned scalar register kills every live lane of the fibre
and is performed with 0 in its place; `smov` and `slih` carry the poison instead. R78, R79: a scalar result
is read back from its register, `s0` stays 0; no other register, flag or special register changes, the gang
moves past the instruction, and the rest of the device, all of memory included, is as it was. This is the
frame of every instruction whose next state the scalar statements write with `putScalar`. -/
def Obligations.ScalarWriteBack : Prop :=
  ((∀ i op f s, alu i = some (op, f) →
     ((operandA s f).poison = true ∨ (operandB s f).poison = true) →
     let value (x : PX) : DWord := if x.poison then 0 else x.bits
     exec i s = .next ((s.modCur (fun x => x.kill x.live)).putScalar i (sdOf f)
       (aluResult op (fnOf f) (value (operandA s f)) (value (operandB s f))))) ∧
   (∀ f s, exec (.smov f) s =
     .next ((s.modCur (fun x => x.setScalar f.sd.toNat (x.scalar f.sa.toNat))).retire (.smov f))) ∧
   (∀ f s, f.sd ≠ 0 → (s.cur.scalar f.sd.toNat).poison = true →
     Gives (.slih f) s (fun t => (t.cur.scalar f.sd.toNat).poison = true ∧ t.cur.sys.dead = s.cur.sys.dead))) ∧
  (∀ (s : State) (i : Instr) (sd : BitVec 6) (v : DWord),
     let t := s.putScalar i sd v
     t.cur.scalar sd.toNat = (if sd = 0 then PX.zero else ⟨v, false⟩) ∧ SameRegs s t [sd.toNat] ∧
       Advanced s t i.parcels ∧ SameOutside s t)

/-- R110, R167, R172, R173: a control transfer that is taken to a clause header moves the gang there, after
writing its link or its count. R110, R172: a transfer to something else than a clause header raises 0x01 at
the transfer; a register target raises 0x08 where bits [63:57] are not zero, else 0x07 where bits [1:0] are
not. R167, R173: `brs` whose condition fails, and `loop` whose count reaches 0, go on at the next
instruction. R106, R169: every quad of the gang at its new address, its lanes and records as they were. -/
def Obligations.ControlTransfers : Prop :=
  (∀ i s target w, transferOf s i = some (target, w) →
     (∀ r ∈ transferReads i, (s.cur.scalar r.toNat).poison = false) →
     s.targetAt target = .header → exec i s = .next ((writing s w).jump target)) ∧
  ((∀ i s target w, transferOf s i = some (target, w) →
     (∀ r ∈ transferReads i, (s.cur.scalar r.toNat).poison = false) →
     s.targetAt target = .notHeader → exec i s = .next (s.trap 0x01 0 i)) ∧
   (∀ i (f : ScalarReg) s, i = .ret f ∨ i = .jmpr f → (s.cur.scalar f.sa.toNat).poison = false →
     let a := (s.cur.scalar f.sa.toNat).bits
     (a.extractLsb' 57 7 ≠ 0 → exec i s = .next (s.trap 0x08 0 i)) ∧
     (a.extractLsb' 57 7 = 0 → a.extractLsb' 0 2 ≠ 0 → exec i s = .next (s.trap 0x07 0 i)))) ∧
  (∀ i s w, fallsThrough s i = some w →
     (∀ r ∈ transferReads i, (s.cur.scalar r.toNat).poison = false) →
     exec i s = .next ((writing s w).retire i)) ∧
  (∀ (s : State) (target : VAddr),
     let t := s.jump target
     SameRegs s t [] ∧ SameOutside s t ∧
     (∀ q, q < 16 → s.focus.quads.getLsbD q = true →
       (t.cur.quad q).pc = target ∧ (t.cur.quad q).inClause = false ∧
       (t.cur.quad q).active = (s.cur.quad q).active ∧ (t.cur.quad q).stack = (s.cur.quad q).stack) ∧
     (∀ q, q < 16 → s.focus.quads.getLsbD q = false → t.cur.quad q = s.cur.quad q))

/-- R169: `brv` with a clause header as target and a regang point that starts with `regang`: each quad of
the gang takes, falls through, or splits, and pushes its record; the other quads stay. R170: at `regang`,
with no handler running, a quad without a record for this header goes on; a quad with lanes still to run
takes them to the fall-through path. R170: when the last quads of a record arrive, every quad of the record
has its lanes back, less the dead, and goes on past the `regang`. -/
def Obligations.VectorBranchAndRegang : Prop :=
  (∀ f s, s.targetAt (away s f.imm.toInt) = .header → s.regangAt (away s f.x.toInt) = .header →
     Gives (.brv f) s (fun t =>
       (∀ q, q < 16 → s.focus.quads.getLsbD q = true → Branched s t f q) ∧
       (∀ q, q < 16 → s.focus.quads.getLsbD q = false → t.cur.quad q = s.cur.quad q) ∧
       SameRegs s t [] ∧ SameOutside s t)) ∧
  (∀ s q, q < 16 → s.focus.quads.getLsbD q = true → s.cur.handler = none → (s.cur.quad q).ended = false →
     (s.cur.quad q).wait ≠ .regang →
     ((s.cur.quad q).stack = [] →
       Gives .regang s (fun t => (t.cur.quad q).pc = (s.cur.quad q).pc + 4 ∧
         (t.cur.quad q).active = (s.cur.quad q).active)) ∧
     (∀ r rest, (s.cur.quad q).stack = r :: rest → r.point ≠ (s.cur.quad q).header →
       Gives .regang s (fun t => (t.cur.quad q).pc = (s.cur.quad q).pc + 4 ∧
         (t.cur.quad q).stack = r :: rest)) ∧
     (∀ r rest, (s.cur.quad q).stack = r :: rest → r.point = (s.cur.quad q).header → r.pend ≠ 0 →
       Gives .regang s (fun t => (t.cur.quad q).pc = r.fall ∧
         (t.cur.quad q).active = r.pend &&& ~~~s.cur.sys.dead ∧
         (t.cur.quad q).stack = { r with pend := 0 } :: rest))) ∧
  (∀ (s : State) (r : Recon), s.cur.handler = none → s.focus.quads ≠ 0 → r.members = s.focus.quads → r.pend = 0 →
     (∀ q, q < 16 → s.focus.quads.getLsbD q = true →
       (s.cur.quad q).ended = false ∧ (s.cur.quad q).wait = .none ∧ (s.cur.quad q).header = r.point ∧
       ∃ m rest, (s.cur.quad q).stack = { r with mask := m } :: rest) →
     Gives .regang s (fun t => ∀ q, q < 16 → s.focus.quads.getLsbD q = true →
       (t.cur.quad q).wait = .none ∧ (t.cur.quad q).pc = (s.cur.quad q).pc + 4 ∧
       (∀ m rest, (s.cur.quad q).stack = { r with mask := m } :: rest →
         (t.cur.quad q).active = m &&& ~~~s.cur.sys.dead ∧ (t.cur.quad q).stack = rest)))

/-- R174: `exit` of a fibre outside a pair ends the quads of the gang that have no lanes parked or pending;
in a handler the whole fibre ends; and a fibre whose quads have all ended has exited. -/
def Obligations.ExitEnds : Prop :=
  ∀ s, s.isAlone s.focus.core s.focus.fib = true →
    (s.cur.handler = none → ∀ q, q < 16 → s.focus.quads.getLsbD q = true → (s.cur.quad q).stack = [] →
      Gives .exit s (fun t => (t.cur.quad q).ended = true ∧ (t.cur.quad q).active = 0)) ∧
    (s.cur.handler ≠ none → Gives .exit s (fun t => t.cur.run = .exited)) ∧
    (s.cur.handler = none → (∀ q, q < 16 → s.focus.quads.getLsbD q = true → (s.cur.quad q).stack = []) →
      (∀ e ∈ s.cur.quads, s.focus.quads.getLsbD e.1 = true ∨ e.2.ended = true) →
      Tab.sortedFrom none s.cur.quads = true →
      Gives .exit s (fun t => t.cur.run = .exited ∧ t.cur.regs.units = 0))

/-- R176, R177: `trap` takes trap 0x12 with the active lanes of the gang. `brk` takes 0x11 where the trap
table has an entry for it and no debugger is attached and no handler runs; with neither it does nothing. -/
def Obligations.TrapInstructions : Prop :=
  (∀ f s handler, Handled s 0x12 handler →
    Gives (.trap f) s (fun t => TookTrap s t 0x12 s.pc s.gangLanes handler (s.pc + 4) (s.leadQuad.within (s.pc + 4)) ∧
      SameOutside s t)) ∧
  (∀ f s l e, s.attached s.focus.core s.focus.fib = false → s.cur.handler = none →
    s.launchOf s.focus.core s.cur.block = some l → Tab.get 0 l.traps 0x11 = e → e.getLsbD 63 = true →
    Gives (.brk f) s (fun t => TookTrap s t 0x11 s.pc s.gangLanes (e.extractLsb' 0 57) (s.pc + 4)
      (s.leadQuad.within (s.pc + 4)) ∧ SameOutside s t)) ∧
  (∀ f s, s.attached s.focus.core s.focus.fib = false →
    (s.cur.handler ≠ none ∨ ∀ l, s.curLaunch = some l → (Tab.get 0 l.traps 0x11).getLsbD 63 = false) →
    exec (.brk f) s = .next (s.retire (.brk f)))

/-- R92, R345, R351: a trap for which the launch has a handler records cause, address and lanes, and takes
the quads that trapped to the handler's header; nothing else of the fibre changes, nor anything outside it.
R354, R377: a trap inside a handler freezes the fibre for firmware with CAUSE 0x13 and the second cause; a
trap that no handler serves, with no debugger attached, freezes it with its own cause. R178: when the last
gang of a handler issues `tret`, the saved quads are back with the lanes that still live, at the resume
point, and no handler runs; outside a handler it raises 0x01. -/
def Obligations.TrapEntryAndReturn : Prop :=
  (∀ (s : State) cause pc lanes handler resume inClause, Handled s cause handler →
     let t := s.userTrap s.focus.core s.focus.fib s.focus.quads cause pc lanes resume inClause
     TookTrap s t cause pc lanes handler resume inClause ∧ SameOutside s t) ∧
  (∀ (s : State) (cause : BitVec 8) (pc : VAddr) (lanes : LaneMask) (resume : VAddr) (inClause : Bool),
     let t := s.userTrap s.focus.core s.focus.fib s.focus.quads cause pc lanes resume inClause
     (s.cur.handler ≠ none →
       t.cur.run = .frozen 0x13 ∧ t.cur.second = cause ∧ t.cur.sys.trapCause = 0x13 ∧ t.cur.sys.trapPc = pc) ∧
     (s.cur.handler = none → s.attached s.focus.core s.focus.fib = false →
       (s.launchOf s.focus.core s.cur.block).bind (fun l => l.handlerFor cause.toNat) = none →
       t.cur.run = .frozen cause ∧ t.cur.sys.trapCause = cause ∧ t.cur.sys.trapPc = pc ∧
       t.cur.sys.trapLanes = lanes)) ∧
  ((∀ s h, s.cur.handler = some h → s.focus.quads = h.quads →
     (∀ q, q < 16 → h.quads.getLsbD q = true → (s.cur.quad q).ended = false) →
     (∃ q, q < 16 ∧ h.quads.getLsbD q = true ∧ (Tab.get Quad.off h.saved q).ended = false) →
     Gives .tret s (fun t => t.cur.handler = none ∧
       (∀ q, q < 16 → h.quads.getLsbD q = true →
         (t.cur.quad q).pc = h.resume ∧ (t.cur.quad q).inClause = h.inClause ∧
         (t.cur.quad q).active = (Tab.get Quad.off h.saved q).active &&& ~~~s.cur.sys.dead ∧
         (t.cur.quad q).stack = (Tab.get Quad.off h.saved q).stack) ∧
       (t.cur.regs = s.cur.regs ∧ t.cur.sys = s.cur.sys))) ∧
   (∀ s, s.cur.handler = none → exec .tret s = .next (s.trap 0x01 0 .tret)))

/-- R33, R90, R94, R182, R184, R189: `nop` only goes on; `fwait` goes on once every flag of its mask is
clear, and waits for them otherwise; `fsw` goes on and switches the slot to its next ready fibre; `chkerr`
goes on where none of its bits is set. R37, R183: `fbar` of a fibre whose slot still waits for another
running fibre holds the gang and marks the arrival; where every other fibre of the slot has exited, it goes
on at once. -/
def Obligations.FibreControlAndSlotBarrier : Prop :=
  ((∀ i s t, fibreControl s i = some t → exec i s = .next t) ∧
   (∀ f s, s.cur.lq.q12 = [] → s.cur.sys.chki &&& f.imm.setWidth 32 ≠ 0 →
     exec (.chkerr f) s = .next (s.trap 0x0E 0 (.chkerr f)))) ∧
  (∀ s, s.cur.run = .running → s.cur.handler = none →
     let mates := [4 * s.curSlotNo, 4 * s.curSlotNo + 1, 4 * s.curSlotNo + 2, 4 * s.curSlotNo + 3].filter
       (fun f => f != s.focus.fib)
     ((∃ f ∈ mates, (s.curCore.fibre f).run = .running ∧ (s.curCore.fibre f).fbarArrived = false) →
       Gives .fbar s (fun t => t.cur.fbarArrived = true ∧
         ∀ q, q < 16 → s.focus.quads.getLsbD q = true → (t.cur.quad q).wait = .fbar ∧
           (t.cur.quad q).pc = (s.cur.quad q).pc)) ∧
     ((∀ f ∈ mates, (s.curCore.fibre f).run = .exited) →
       (∀ q, q < 16 → s.focus.quads.getLsbD q = false → (s.cur.quad q).wait ≠ .fbar) →
       Gives .fbar s (fun t => t.cur.fbarArrived = false ∧ Advanced s t 1)))

/-- R91 to R98, R189, R190, R439: `mfs` and `time` write a special register to sD; `mts` writes `CHKI`, `SATC`
or the seeds of the active lanes, and raises 0x08 for a register that is not writable. -/
def Obligations.SpecialRegisters : Prop :=
  (∀ f s v, selectorValue s f.imm = some v → exec (.mfs f) s = .next (s.putScalar (.mfs f) f.sd v)) ∧
  (∀ f s, s.isAlone s.focus.core s.focus.fib = true → f.imm = 0x016 →
    exec (.mfs f) s = .next (s.putScalar (.mfs f) f.sd s.time)) ∧
  (∀ f s, s.isAlone s.focus.core s.focus.fib = true →
    exec (.time f) s = .next (s.putScalar (.time f) f.sd s.time)) ∧
  (∀ f s, s.cur.lq.q12 = [] → (s.cur.scalar f.sa.toNat).poison = false →
    let a := (s.cur.scalar f.sa.toNat).bits
    (f.imm = 0x013 → Gives (.mts f) s (fun t =>
      t.cur.sys.chki = (a.setWidth 32 &&& 0x7FF) ∧ t.cur.regs = s.cur.regs ∧ Advanced s t 1 ∧ SameOutside s t)) ∧
    (f.imm = 0x014 → Gives (.mts f) s (fun t =>
      t.cur.sys.satc = a.setWidth 32 ∧ t.cur.regs = s.cur.regs ∧ Advanced s t 1 ∧ SameOutside s t)) ∧
    (f.imm = 0x018 → Gives (.mts f) s (fun t =>
      (∀ l, l < 64 → s.gangLanes.getLsbD l = true → Tab.get 0 t.cur.sys.rseed l =
        (a.setWidth 32 ^^^ BitVec.ofNat 32 (l * 0x9E3779B9))) ∧
      t.cur.regs = s.cur.regs ∧ Advanced s t 1 ∧ SameOutside s t)) ∧
    (f.imm ≠ 0x013 → f.imm ≠ 0x014 → f.imm ≠ 0x018 → exec (.mts f) s = .next (s.trap 0x08 0 (.mts f))))

/-- R81, R185, R186, R188: `xacq` of units that are free, outside the shared window and not held gives them
to the fibre with registers that read 0, and a true predicate; of units that it holds already, only the
predicate; `xrel` gives units back. -/
def Obligations.ExtendedUnits : Prop :=
  (∀ f s, 1 ≤ (f.imm.extractLsb' 0 4).toNat → (f.imm.extractLsb' 0 4).toNat ≤ 12 →
    (f.imm.extractLsb' 8 4).toNat + (f.imm.extractLsb' 0 4).toNat ≤ 12 →
    unitsOf f.imm &&& s.curBlock.windowUnits = 0 →
    (s.cur.regs.units &&& unitsOf f.imm = 0 → (f.imm.extractLsb' 0 4).toNat ≤ s.curCore.freeUnits →
      Gives (.xacq f) s (fun t => t.cur.regs.units = s.cur.regs.units ||| unitsOf f.imm ∧ Advanced s t 1 ∧
        (f.sd ≠ 0 → f.sd.toNat < 15 → ∀ l, s.cur.live.getLsbD l = true → (t.cur.pred f.sd.toNat).getLsbD l = true))) ∧
    (s.cur.regs.units &&& unitsOf f.imm = unitsOf f.imm →
      Gives (.xacq f) s (fun t => t.cur.regs.units = s.cur.regs.units ∧ t.cur.regs.v = s.cur.regs.v ∧ Advanced s t 1)) ∧
    Gives (.xrel f) s (fun t => t.cur.regs.units = s.cur.regs.units &&& ~~~unitsOf f.imm ∧ Advanced s t 1)) ∧
  (∀ f s, unitsOf f.imm &&& s.curBlock.windowUnits ≠ 0 →
    (f.imm.extractLsb' 8 4).toNat + (f.imm.extractLsb' 0 4).toNat ≤ 12 →
    exec (.xrel f) s = .next (s.trap 0x01 0 (.xrel f)) ∧ exec (.xacq f) s = .next (s.trap 0x01 0 (.xacq f)))

namespace Sys2Proof.Spec
open Sys2Proof.Machine

/-! ### Lane instructions -/

/-- The operands of a lane instruction, by lane (R80, R88, R115). -/
def laneA (s : State) (f : LaneFields) (sh : Shape) (l : Nat) : PX := s.sourceVal sh.va f.va.toNat l
def laneB (s : State) (f : LaneFields) (sh : Shape) (l : Nat) : PX :=
  if sh.kind = true ∧ f.m2 = 1 then ⟨immB f, false⟩
  else if sh.kind = true ∧ f.m2 = 3 then ⟨(s.cur.scalar (f.vb.toNat % 64)).bits, false⟩
  else s.sourceVal sh.vb f.vb.toNat l
def laneC (s : State) (f : LaneFields) (sh : Shape) (l : Nat) : PX := s.sourceVal sh.vc f.vc.toNat l

/-- The lanes that take part (R195). -/
def taking (s : State) (f : LaneFields) : LaneMask := s.participating f.pg f.pn

/-- A lane instruction has its effect on these operands and in this state: it names registers that the
fibre holds, some lane takes part, a scalar operand B holds no poison, a flag that it selects has room,
and its queues are ready (R80, R82, R87, R89, R90, R195, R235). -/
structure LaneReady (s : State) (f : LaneFields) (sh : Shape) : Prop where
  held : s.holdsFields f sh = true
  some' : taking s f ≠ 0
  scalar : sh.kind = true → f.m2 = 3 → (s.cur.scalar (f.vb.toNat % 64)).poison = false
  room : sh.long = true → s.flagFull f.fs = false
  queues : s.queueCheck f sh = .go
  quiet : s.popTrap f sh = 0

/-- The lanes whose sources hold poison (R198, R358). -/
def poisoned (s : State) (f : LaneFields) (sh : Shape) : LaneMask :=
  maskOf (fun l => (taking s f).getLsbD l &&
    ((laneA s f sh l).poison || (laneB s f sh l).poison || (laneC s f sh l).poison))

/-- A value and its exception bits for each lane that takes part and lives. -/
def valued (m : LaneMask) (g : Nat → PX × BitVec 32) : List LaneOut :=
  (lanesIn m).map (fun l => ⟨l, (g l).1, (g l).2, none⟩)

/-- The state after a lane instruction in which some lanes die and others receive results
(`LaneWriteBack` says what that is). -/
def laneDone (s : State) (i : Instr) (f : LaneFields) (sh : Shape) (dying : LaneMask)
    (outs : List LaneOut) : State :=
  let s2 := s.modCur (fun y => y.kill dying)
  let t := s2.commitLanes f sh (taking s f &&& ~~~dying) outs
  (if sh.long then t.selectFlag f.fs else t).retire i

/-- A result as its register holds it (R196). -/
def placed (ty : Nat) {w : Nat} (x : BitVec w) : DWord :=
  if ty = 9 ∨ ty = 16 then (x.signExtend 32).setWidth 64 else x.setWidth 64

/-- The bit field of an operand B: its position, and its length cut at the width (R163, R202). -/
def fieldPos (c : DWord) : Nat := (c.extractLsb' 0 6).toNat
def fieldLen (w : Nat) (c : DWord) : Nat := min (min (c.extractLsb' 8 7).toNat w) (w - fieldPos c)

/-- The integer and bit operations of lanes, on W-bit operands (R200, R202). -/
def laneInteger (i : Instr) (ty : Nat) : Option (DWord → DWord → DWord → DWord) :=
  let w := tyWidth ty
  let u := decide (19 ≤ ty)
  let one (g : BitVec w → BitVec w) : Option (DWord → DWord → DWord → DWord) :=
    some (fun a _ _ => placed ty (g (a.setWidth w)))
  let two (g : BitVec w → BitVec w → BitVec w) : Option (DWord → DWord → DWord → DWord) :=
    some (fun a b _ => placed ty (g (a.setWidth w) (b.setWidth w)))
  let shift (g : BitVec w → Nat → BitVec w) : Option (DWord → DWord → DWord → DWord) :=
    some (fun a b _ => placed ty (g (a.setWidth w) ((b.setWidth 32).toNat % w)))
  let number (g : Option (DWord → DWord → DWord → DWord)) : Option (DWord → DWord → DWord → DWord) :=
    if ty < 4 then none else g
  let wide (a : DWord) : DWord := if u then (a.setWidth w).setWidth 64 else (a.setWidth w).signExtend 64
  let half (a : DWord) : BitVec 32 := if u then (a.setWidth w).setWidth 32 else (a.setWidth w).signExtend 32
  match i with
  | .add _ => number (two (fun a b => a + b))
  | .sub _ => number (two (fun a b => a - b))
  | .mul _ => number (two (fun a b => a * b))
  | .mulh _ => two (AluOp.at .mulh u)
  | .mulw _ => some (fun a b _ => ((wide a * wide b).setWidth (2 * w)).setWidth 64)
  | .mad _ => some (fun a b c => placed ty (a.setWidth w * b.setWidth w + c.setWidth w))
  | .abs _ => number (one (fun a => if !u && a.slt 0 then -a else a))
  | .neg _ => number (one (fun a => -a))
  | .min _ => number (two (AluOp.at .min u))
  | .max _ => number (two (AluOp.at .max u))
  | .sad _ => some (fun a b c =>
      let d := if (if u then (half a).ule (half b) else (half a).sle (half b)) then half b - half a
        else half a - half b
      (d + c.setWidth 32).setWidth 64)
  | .and _ => two (fun a b => a &&& b)
  | .or _ => two (fun a b => a ||| b)
  | .xor _ => two (fun a b => a ^^^ b)
  | .not _ => one (fun a => ~~~a)
  | .shl _ => shift (fun a n => a <<< n)
  | .shr _ => shift (fun a n => a >>> n)
  | .sra _ => shift (fun a n => a.sshiftRight n)
  | .rot _ => shift (fun a n => a.rotateLeft n)
  | .clz _ => one (fun a => a.clz)
  | .popc _ => some (fun a _ _ => BitVec.ofNat 64 ((List.range w).countP (fun j => a.getLsbD j)))
  | .brev _ => one (fun a => a.reverse)
  | .bfe _ => some (fun a b _ =>
      let v := (a.setWidth w).extractLsb' (fieldPos b) (fieldLen w b)
      placed ty (if u then v.setWidth w else v.signExtend w))
  | .bfi _ => some (fun a b c =>
      let m : BitVec w := (BitVec.allOnes (fieldLen w b)).setWidth w <<< fieldPos b
      placed ty ((c.setWidth w &&& ~~~m) ||| ((a.setWidth w <<< fieldPos b) &&& m)))
  | _ => none

/-- The comparisons of integers (R119, R203). -/
def laneCompare (ty : Nat) (cc : BitVec 4) (a b : DWord) : Bool :=
  let w := tyWidth ty
  let u := decide (19 ≤ ty)
  let x := a.setWidth w
  let y := b.setWidth w
  let le := if u then x.ule y else x.sle y
  let ge := if u then y.ule x else y.sle x
  if cc = 0 then x == y else if cc = 1 then x != y else if cc = 2 then !ge else if cc = 3 then le
  else if cc = 4 then !le else ge

/-- The operations on float codes, with the exception bits that they raise: a value is decoded, the exact
result is rounded once (R52, R53, R204 to R206, R208 to R210). -/
def laneFloat (i : Instr) (ty md : Nat) : Option (Nat → Nat → Nat → Res) :=
  let f := fmtOfType ty
  let v (a : Nat) : FVal := f.value a
  let number (g : Nat → Nat → Nat → Res) : Option (Nat → Nat → Nat → Res) :=
    if ty < 4 then some g else none
  match i with
  | .add _ => number (fun a b _ => finishIeee f md (addVal md (v a) (v b)))
  | .sub _ => number (fun a b _ => finishIeee f md (addVal md (v a) (v b).neg))
  | .mul _ => number (fun a b _ => finishIeee f md (mulVal (v a) (v b)))
  | .fma _ => number (fun a b c => finishIeee f md (fmaVal md (v a) (v b) (v c)))
  | .min _ => number (fun a b _ => fMinMax false f a b)
  | .max _ => number (fun a b _ => fMinMax true f a b)
  | .abs _ => number (fun a _ _ => fAbs f a)
  | .neg _ => number (fun a _ _ => fNeg f a)
  | .sqrt _ => number (fun a _ _ => fSqrt f md a)
  | .rcp _ => number (fun a _ _ => fRcp f md a)
  | .rsq _ => number (fun a _ _ => fRsq f md a)
  | .exp2 _ => number (fun a _ _ => fExp2 f md a)
  | .log2 _ => number (fun a _ _ => fLog2 f md a)
  | .sin _ => number (fun a _ _ => fSin f md a)
  | .cos _ => number (fun a _ _ => fCos f md a)
  | .tanh _ => number (fun a _ _ => fTanh f md a)
  | .frnd _ => number (fun a _ _ => fRnd f md a)
  | _ => none

/-- An operand as a code of its type. -/
def code (ty : Nat) (x : PX) : Nat := (x.bits.setWidth (tyWidth ty)).toNat

/-- The exception bits of some results, and the lanes that raise a set of them. -/
def raisedBits (outs : List LaneOut) : BitVec 32 := outs.foldl (fun a o => a ||| o.flags) 0
def raisedLanes (outs : List LaneOut) (m : BitVec 32) : LaneMask :=
  maskOf (fun l => outs.any (fun o => o.lane == l && (o.flags &&& m) != 0))

/-- A lane instruction gives results: they are written where no exception that they raise is enabled; a
trap 0x0C or 0x0D is taken otherwise (R77, R235). -/
def Results (s : State) (i : Instr) (f : LaneFields) (sh : Shape) (dying : LaneMask)
    (outs : List LaneOut) : Prop :=
  let hit := raisedBits outs &&& s.enabledTraps
  (hit = 0 → exec i s = .next (laneDone s i f sh dying outs)) ∧
  (hit ≠ 0 → exec i s = .next (((s.modCur (fun y => y.kill dying)).orChki (raisedBits outs)).trap
    (if hit &&& 0xC = 0 then 0x0D else 0x0C)
    (raisedLanes outs s.enabledTraps &&& s.gangLanes &&& ~~~dying) i))

end Sys2Proof.Spec

open Sys2Proof Sys2Proof.Machine Sys2Proof.Spec

/-- R114, R195, R198, R200, R202: the integer and bit operations of lanes give every participating lane the
result of its operands, once no source of the lane holds poison; lanes whose sources do die. -/
def Obligations.LaneInteger : Prop :=
  ∀ i op f sh s g, i.form = .lane op f sh → i.wf = true → laneInteger i f.ty.toNat = some g →
    LaneReady s f sh →
    let dying := poisoned s f sh
    exec i s = .next (laneDone s i f sh dying (valued (taking s f &&& ~~~dying) (fun l =>
      (⟨g (laneA s f sh l).bits (laneB s f sh l).bits (laneC s f sh l).bits, false⟩, 0))))

/-- R76, R77, R200, R201: `div` and `rem` with the two corners and their exception bits; `addx` and `subx`
give the sum or difference with the carry of pC, and leave the carry or borrow out in pC. R198, R200, R203:
`sel` gives the operand that pC names, with its poison, and kills no lane; `cmp` of integers gives its truth
value, and `cmp` and `class` of floats theirs, to the lanes of a predicate. -/
def Obligations.LaneDivisionCarryAndChoice : Prop :=
  ((∀ i op f sh s, i.form = .lane op f sh → i.wf = true → LaneReady s f sh →
     (i = .div f ∨ i = .rem f) →
     let w := tyWidth f.ty.toNat
     let u := decide (19 ≤ f.ty.toNat)
     let rem := decide (i = .rem f)
     let dying := poisoned s f sh
     Results s i f sh dying (valued (taking s f &&& ~~~dying) (fun l =>
       let a := (laneA s f sh l).bits.setWidth w
       let b := (laneB s f sh l).bits.setWidth w
       if b = 0 then (⟨placed f.ty.toNat (overZero rem u a), false⟩, 0x4)
       else if u = false ∧ a = BitVec.intMin w ∧ b = BitVec.allOnes w then
         (⟨placed f.ty.toNat (if rem then 0 else a), false⟩, 0x8)
       else (⟨placed f.ty.toNat (quotient rem u a b), false⟩, 0)))) ∧
   (∀ i op f sh s, i.form = .lane op f sh → i.wf = true → LaneReady s f sh →
     (i = .addx f ∨ i = .subx f) →
     let w := tyWidth f.ty.toNat
     let dying := poisoned s f sh
     let part := taking s f &&& ~~~dying
     let carryIn (l : Nat) : BitVec (w + 1) := if (s.cur.pred (f.vc.toNat % 16)).getLsbD l then 1 else 0
     let sum (l : Nat) : BitVec (w + 1) :=
       let a := ((laneA s f sh l).bits.setWidth w).setWidth (w + 1)
       let b := ((laneB s f sh l).bits.setWidth w).setWidth (w + 1)
       if i = .addx f then a + b + carryIn l else a - b - carryIn l
     exec i s = .next ((((s.modCur (fun y => y.kill dying)).commitLanes f sh part
       (valued part (fun l => (⟨((sum l).setWidth w).setWidth 64, false⟩, 0)))).modCur
         (fun y => y.setPred (f.vc.toNat % 16) part (maskOf (fun l => part.getLsbD l && (sum l).msb)))).retire i))) ∧
  (∀ i op f sh s, i.form = .lane op f sh → i.wf = true → LaneReady s f sh →
     let ty := f.ty.toNat
     let dying := poisoned s f sh
     let bit (b : Bool) : PX := ⟨if b then 1 else 0, false⟩
     (i = .sel f → exec i s = .next (laneDone s i f sh 0 (valued (taking s f) (fun l =>
       let v := if (s.cur.pred (f.vc.toNat % 16)).getLsbD l then laneA s f sh l else laneB s f sh l
       (⟨(v.bits.setWidth (tyWidth ty)).setWidth 64, v.poison⟩, 0))))) ∧
     (i = .cmp f → 4 ≤ ty → exec i s = .next (laneDone s i f sh dying
       (valued (taking s f &&& ~~~dying) (fun l =>
         (bit (laneCompare ty f.m1 (laneA s f sh l).bits (laneB s f sh l).bits), 0))))) ∧
     (i = .cmp f → ty < 4 → Results s i f sh dying (valued (taking s f &&& ~~~dying) (fun l =>
         let r := fCmp (fmtOfType ty) f.m1.toNat (code ty (laneA s f sh l)) (code ty (laneB s f sh l))
         (bit r.1, r.2)))) ∧
     (i = .classTest f → exec i s = .next (laneDone s i f sh dying
       (valued (taking s f &&& ~~~dying) (fun l =>
         (bit ((laneB s f sh l).bits.getLsbD (fClass (fmtOfType ty) (code ty (laneA s f sh l)))), 0))))))

/-- R204 to R206, R209, R210, R235: the float operations and the special functions into a register give
their rounded result and record their exceptions, or trap where the launch enables one. R206, R207: a
special function whose destination is `q12` pushes its operands with its type, rounding mode and flag; the
unit computes the oldest entry into `q13` and clears its flag, while `q13` has room. -/
def Obligations.LaneFloatAndSpecialFunctions : Prop :=
  ((∀ i op f sh s g, i.form = .lane op f sh → i.wf = true → LaneReady s f sh → f.vd ≠ 252 →
     laneFloat i f.ty.toNat f.m1.toNat = some g →
     let ty := f.ty.toNat
     let dying := poisoned s f sh
     Results s i f sh dying (valued (taking s f &&& ~~~dying) (fun l =>
       let r := g (code ty (laneA s f sh l)) (code ty (laneB s f sh l)) (code ty (laneC s f sh l))
       (⟨(BitVec.ofNat (tyWidth ty) r.1).setWidth 64, false⟩, r.2)))) ∧
   (∀ f s, (Instr.fscl f).wf = true → LaneReady s f (Shape.fscl f) →
     let ty := f.ty.toNat
     let dying := poisoned s f (Shape.fscl f)
     Results s (.fscl f) f (Shape.fscl f) dying (valued (taking s f &&& ~~~dying) (fun l =>
       let r := fScl (fmtOfType ty) f.m1.toNat (code ty (laneA s f (Shape.fscl f) l))
         ((laneB s f (Shape.fscl f) l).bits.setWidth 32).toInt
       (⟨BitVec.ofNat 64 r.1, false⟩, r.2))))) ∧
  ((∀ i op f sh s g, i.form = .lane op f sh → i.wf = true → LaneReady s f sh → f.vd = 252 →
     laneFloat i f.ty.toNat f.m1.toNat = some g → poisoned s f sh = 0 →
     Gives i s (fun t => ∃ e, t.cur.lq.q12 = s.cur.lq.q12 ++ [e] ∧ e.op = op ∧ e.ty = f.ty.toNat ∧
       e.md = f.m1.toNat ∧ e.lanes = taking s f ∧ e.flag = s.flagFor f.fs ∧
       (∀ l, l < 64 → (taking s f).getLsbD l = true →
         (e.args.getD l PX.zero).bits.toNat = code f.ty.toNat (laneA s f sh l)) ∧
       (∀ n, e.flag = some n → t.cur.flag n = s.cur.flag n + 1))) ∧
   (∀ core fib s e rest, (s.fibre core fib).lq.q12 = e :: rest → (s.fibre core fib).lq.sfuHeld = none →
     (s.fibre core fib).lq.q13.length < 16 →
     Gives (.sfuCompute core fib) s (fun t => ∃ r, (t.fibre core fib).lq.q12 = rest ∧
       (t.fibre core fib).lq.q13 = (s.fibre core fib).lq.q13 ++ [r] ∧
       (∀ l, l < 64 → e.lanes.getLsbD l = true → r.vals.getD l PX.zero =
         ⟨BitVec.ofNat 64 (place e.ty (special e.op (fmtOfType e.ty) e.md
           (e.args.getD l PX.zero).bits.toNat).1), false⟩) ∧
       (∀ n, e.flag = some n → (t.fibre core fib).flag n = (s.fibre core fib).flag n - 1))))

namespace Sys2Proof.Spec
open Sys2Proof.Machine

/-- As `valued`, with the seeds that stochastic conversions leave (R69). -/
def valuedSeed (m : LaneMask) (g : Nat → DWord × BitVec 32 × Option Word) : List LaneOut :=
  (lanesIn m).map (fun l => ⟨l, ⟨(g l).1, false⟩, (g l).2.1, (g l).2.2⟩)

/-- The old value of a destination register (R213, R229). -/
def laneOld (s : State) (f : LaneFields) (sh : Shape) (l : Nat) : PX :=
  match sh.vd with
  | .dst p => if 240 ≤ f.vd.toNat then PX.zero else s.laneVal f.vd.toNat p l
  | _ => PX.zero

/-- The value of an operand in a format (R212). -/
def valueIn (ty : Nat) (x : PX) : FVal := (fmtOfType ty).value (code ty x)

/-- The seed of a lane, stepped where the rounding is stochastic (R69). -/
def stepped (md : Nat) (w : Word) : Word := if md = 4 then stepSeed w else w
def seedLeft (md : Nat) (w : Word) : Option Word := if md = 4 then some w else none

/-- What a conversion gives a lane: its code in the target type, its exception bits and its seed (R211 to
R216). -/
def laneConverted (s : State) (i : Instr) (f : LaneFields) (sh : Shape) (l : Nat) :
    Option (DWord × BitVec 32 × Option Word) :=
  let ty := f.ty.toNat
  let md := f.m1.toNat
  let from' := f.vc.toNat
  let w := stepped md (Tab.get 0 s.cur.sys.rseed l)
  let out (md : Nat) (w : Word) (c : Conv) : Option (DWord × BitVec 32 × Option Word) :=
    some (placed ty (BitVec.ofNat (tyWidth ty) c.code), c.flags, seedLeft md w)
  let a := laneA s f sh l
  let b := laneB s f sh l
  match i with
  | .cvt _ => out md w (convert (fmtOfType ty) md (w.toNat / 256) false (valueIn from' a))
  | .unpk _ =>
    let e := tyWidth from'
    let x := (a.bits.extractLsb' (e * (f.imm.toNat % 8)) e).toNat
    out 0 0 (convert (fmtOfType ty) 0 0 false ((fmtOfType from').value x))
  | .qnt _ =>
    let p := mulVal (valueIn from' a) (valueIn 0 b)
    let c := convert (fmtOfType ty) md (w.toNat / 256) true p.1
    out md w { c with flags := c.flags ||| p.2 }
  | .dqnt _ =>
    let p := mulVal (valueIn from' a) (valueIn 0 b)
    let c := convert (fmtOfType ty) md (w.toNat / 256) false p.1
    out md w { c with flags := c.flags ||| p.2 }
  | _ => none

/-- The lane that another lane reads (R220, R221, R225). -/
def sourceLane (s : State) (i : Instr) (f : LaneFields) (sh : Shape) (l : Nat) : Option Nat :=
  let k : Nat :=
    if f.m2 = 1 then (if f.imm.getLsbD 31 then 64 / 2 ^ (f.imm.extractLsb' 0 5).toNat
      else (f.imm.extractLsb' 0 31).toNat)
    else ((laneB s f sh l).bits.setWidth 32).toNat
  match i with
  | .shfl _ => some ((laneB s f sh l).bits.toNat % 64)
  | .shfx _ => some (l ^^^ k)
  | .shfd _ => some (l + k)
  | .shfu _ => if k ≤ l then some (l - k) else none
  | .qx _ => some (if f.m1 = 0 then l ^^^ 1 else if f.m1 = 1 then l ^^^ 8 else l ^^^ 9)
  | .bcst _ => (lanesIn (taking s f)).head?
  | _ => none

/-- One of the cross-lane moves. -/
def crossMove : Instr → Bool
  | .shfl _ => true
  | .shfx _ => true
  | .shfd _ => true
  | .shfu _ => true
  | .qx _ => true
  | .bcst _ => true
  | _ => false

/-- What stands at a place of the tree of R223 after a number of levels, with the exceptions met there. -/
def treeAt (op ty : Nat) (leaf : Nat → Option Nat) : Nat → Nat → Option Nat × BitVec 32
  | 0, j => (leaf j, 0)
  | n + 1, j =>
    let x := treeAt op ty leaf n j
    if j < 32 / 2 ^ n then
      let y := treeAt op ty leaf n (j + 32 / 2 ^ n)
      match x.1, y.1 with
      | some a, some b => (some (comb op ty a b).1, x.2 ||| (comb op ty a b).2)
      | some a, none => (some a, x.2)
      | none, b => (b, x.2)
    else x

/-- The values of a scan: the combination of the participating lanes below a lane (R224). -/
def scanned (op ty : Nat) (a : Nat → Nat) (part : LaneMask) (l : Nat) : Option Nat :=
  ((lanesIn part).filter (fun j => decide (j < l))).foldl (fun acc j =>
    some (match acc with
      | none => a j
      | some x => (comb op ty x (a j)).1)) none

/-- The moves, predicate and identity instructions whose lanes compute by themselves (R228 to R232): the
value of a lane. -/
def laneMoved (s : State) (i : Instr) (f : LaneFields) (sh : Shape) (l : Nat) : Option DWord :=
  let bit (b : Bool) : Option DWord := some (if b then 1 else 0)
  let pa := (s.cur.pred (f.va.toNat % 16)).getLsbD l
  let pb := (s.cur.pred (f.vb.toNat % 16)).getLsbD l
  match i with
  | .movs _ =>
    if f.imm = 0 then some ((Tab.get 0 s.cur.sys.rseed l).setWidth 64)
    else if f.imm = 1 then bit (s.cur.sys.trapLanes.getLsbD l) else bit (s.cur.helpers.getLsbD l)
  | .pset _ => bit ((laneA s f sh l).bits.getLsbD ((laneB s f sh l).bits.extractLsb' 0 5).toNat)
  | .pand _ => bit (pa && pb)
  | .por _ => bit (pa || pb)
  | .pxor _ => bit (pa != pb)
  | .pnot _ => bit (!pa)
  | .pmov _ => bit pa
  | .lid _ => some (BitVec.ofNat 64 l)
  | .pxy _ =>
    let o := s.originOf s.focus.core s.cur.block
    some (BitVec.ofNat 64 ((o.2 + l / 8) % 65536 * 65536 + (o.1 + l % 8) % 65536))
  | _ => none

/-- The rest of the device is the same, but for the slot of the issuing fibre, whose window and queues its
fibres share. -/
def SameFar (s t : State) : Prop :=
  t.mem = s.mem ∧ t.trans = s.trans ∧ t.dies = s.dies ∧ t.clusters = s.clusters ∧ t.links = s.links ∧
  t.launches = s.launches ∧ t.partitions = s.partitions ∧ t.asc = s.asc ∧ t.pairs = s.pairs ∧
  t.rwrs = s.rwrs ∧ t.rot = s.rot ∧ t.time = s.time ∧
  (∀ c, c ≠ s.focus.core → t.core c = s.core c) ∧
  (∀ f, f ≠ s.focus.fib → t.fibre s.focus.core f = s.fibre s.focus.core f) ∧
  (∀ n, n ≠ s.curSlotNo → t.slot s.focus.core n = s.slot s.focus.core n) ∧
  (∀ b, t.block s.focus.core b = s.block s.focus.core b) ∧
  t.curCore.mem = s.curCore.mem ∧ t.curCore.eng = s.curCore.eng

end Sys2Proof.Spec

open Sys2Proof Sys2Proof.Machine Sys2Proof.Spec

/-- R69, R211 to R218: the conversions, quantisations, packing, codebook codes and the Hadamard transform
give their results, seeds and exceptions. -/
def Obligations.LaneConversion : Prop :=
  (∀ i op f sh s, i.form = .lane op f sh → i.wf = true → LaneReady s f sh →
    let dying := poisoned s f sh
    (∀ l, l < 64 → laneConverted s i f sh l ≠ none) →
    Results s i f sh dying (valuedSeed (taking s f &&& ~~~dying) (fun l =>
      (laneConverted s i f sh l).getD (0, 0, none)))) ∧
  (∀ f s, (Instr.pack f).wf = true → LaneReady s f (Shape.pack f) →
    let sh := Shape.pack f
    let ty := f.ty.toNat
    let md := f.m1.toNat
    let dying := maskOf (fun l => (taking s f).getLsbD l && ((laneA s f sh l).poison ||
      (laneB s f sh l).poison || (laneC s f sh l).poison || (laneOld s f sh l).poison))
    Results s (.pack f) f sh dying (valuedSeed (taking s f &&& ~~~dying) (fun l =>
      let w1 := stepped md (Tab.get 0 s.cur.sys.rseed l)
      let w2 := stepped md w1
      let x := convert (fmtOfType ty) md (w1.toNat / 256) false (valueIn f.vc.toNat (laneA s f sh l))
      let y := convert (fmtOfType ty) md (w2.toNat / 256) false (valueIn f.vc.toNat (laneB s f sh l))
      let e := tyWidth ty
      let at' := e * (2 * (f.imm.toNat % 4))
      let old := (laneOld s f sh l).bits.toNat % (if e = 6 then 2 ^ 24 else 2 ^ 32)
      (BitVec.ofNat 64 (putBits (putBits old at' e x.code) (at' + e) e y.code), x.flags ||| y.flags,
        seedLeft md w2)))) ∧
  (∀ f s, (Instr.cbq f).wf = true → LaneReady s f (Shape.cbq f) →
    let sh := Shape.cbq f
    let dying := poisoned s f sh
    Results s (.cbq f) f sh dying (valued (taking s f &&& ~~~dying) (fun l =>
      let r := fCbq f.m1.toNat (code 0 (laneA s f sh l)) (code 0 (laneB s f sh l))
        (fun x => Fmt.fp16.value (Tab.get 0 s.curCore.mem.codebooks (16 * (f.imm.toNat % 16) + x)).toNat)
      (⟨BitVec.ofNat 64 r.1, false⟩, r.2)))) ∧
  (∀ f s, (Instr.had32 f).wf = true → LaneReady s f Shape.had32 →
    let dying := poisoned s f Shape.had32
    let part := taking s f &&& ~~~dying
    Results s (.had32 f) f Shape.had32 dying (valued part (fun l =>
      let r := (hadamard part (f.m1.getLsbD 0) (fun j => code 0 (laneA s f Shape.had32 j))).getD l (0, 0)
      (⟨BitVec.ofNat 64 r.1, false⟩, r.2))))

/-- R198, R219 to R221, R225: a shuffle, exchange or broadcast gives a participating lane the value of its
source lane, with its poison, where that lane is active in the gang, and leaves it as it was otherwise. -/
def Obligations.CrossLaneMoves : Prop :=
  ∀ i op f sh s, i.form = .lane op f sh → i.wf = true → LaneReady s f sh → crossMove i = true →
    exec i s = .next (laneDone s i f sh 0 ((lanesIn (taking s f)).filterMap (fun l =>
      match sourceLane s i f sh l with
      | some j =>
        if j < 64 ∧ s.gangLanes.getLsbD j = true then
          some ⟨l, ⟨((laneA s f sh j).bits.setWidth (tyWidth f.ty.toNat)).setWidth 64, (laneA s f sh j).poison⟩,
            0, none⟩
        else none
      | none => none)))

/-- R222 to R224: a vote over the members that take part, with the absence of a member in pX; the
reduction in the fixed tree; the scan in ascending lane order. -/
def Obligations.VotesReductionsScans : Prop :=
  (∀ f s, (Instr.vote f).wf = true → LaneReady s f (Shape.vote f) →
    let sh := Shape.vote f
    let members : LaneMask := if f.m2 = 1 then f.imm.signExtend 64 else (laneB s f sh 0).bits
    let present := members &&& taking s f
    let yes := present &&& s.cur.pred (f.va.toNat % 16)
    let r : DWord :=
      if f.m1 = 0 then (if yes = present then 1 else 0)
      else if f.m1 = 1 then (if yes ≠ 0 then 1 else 0)
      else if f.m1 = 2 then (if yes = present ∨ yes = 0 then 1 else 0) else yes
    let t := (s.modCur (fun y => y.kill 0)).commitLanes f sh (taking s f)
      (valued (taking s f) (fun _ => (⟨r, false⟩, 0)))
    exec (.vote f) s = .next ((if f.vc = 0 then t
      else t.modCur (fun y => y.setPred f.vc.toNat (taking s f)
        (if members &&& ~~~present = 0 then 0 else BitVec.allOnes 64))).retire (.vote f))) ∧
  (∀ f s, (Instr.lred f).wf = true → LaneReady s f (Shape.reduce false f) →
    let sh := Shape.reduce false f
    let dying := poisoned s f sh
    let part := taking s f &&& ~~~dying
    let at' (j : Nat) := treeAt (f.m1.toNat % 8) f.ty.toNat
      (fun j => if part.getLsbD j then some (code f.ty.toNat (laneA s f sh j)) else none) 6 j
    Results s (.lred f) f sh dying (allLanes.filterMap (fun l =>
      if part.getLsbD l || (at' l).2 != 0 then
        some ⟨l, ⟨BitVec.ofNat 64 ((at' 0).1.getD 0), false⟩, (at' l).2, none⟩
      else none))) ∧
  (∀ f s, (Instr.scan f).wf = true → LaneReady s f (Shape.reduce true f) →
    let sh := Shape.reduce true f
    let op := f.m1.toNat % 8
    let ty := f.ty.toNat
    let dying := poisoned s f sh
    let part := taking s f &&& ~~~dying
    let a (j : Nat) : Nat := code ty (laneA s f sh j)
    Results s (.scan f) f sh dying (valued part (fun l =>
      let acc := scanned op ty a part l
      let r : Res := match acc with
        | none => (a l, 0)
        | some x => comb op ty x (a l)
      (⟨BitVec.ofNat 64 (if f.m1.getLsbD 3 then acc.getD (scanIdentity op ty) else r.1), false⟩, r.2))))

/-- R226, R227: `vext` writes the scalar register of an available lane, with its poison; `vins` writes one
participating lane. R228 to R232: the moves, the predicate instructions and the lane's identity; `mov` and
`movi` carry poison, and `movi.b64` writes the odd register alone. -/
def Obligations.LaneRegisterMoves : Prop :=
  ((∀ f s, (Instr.vext f).wf = true → LaneReady s f (Shape.vext f) →
     let sh := Shape.vext f
     let w := tyWidth f.ty.toNat
     let j := ((laneB s f sh 0).bits.setWidth w).toNat
     let t := (s.modCur (fun y => y.kill 0)).commitLanes f sh (taking s f) []
     let v := (laneA s f sh j).bits.setWidth w
     exec (.vext f) s = .next ((if j < 64 ∧ s.gangLanes.getLsbD j = true then
         t.modCur (fun y => y.setScalar f.vd.toNat
           ⟨if f.ty = 17 then v.signExtend 64 else v.setWidth 64, (laneA s f sh j).poison⟩)
       else t).retire (.vext f))) ∧
   (∀ f s, (Instr.vins f).wf = true → LaneReady s f (Shape.vins f) →
     (s.cur.scalar f.va.toNat).poison = false →
     let sh := Shape.vins f
     let w := tyWidth f.ty.toNat
     let j := ((laneB s f sh 0).bits.setWidth w).toNat
     exec (.vins f) s = .next (laneDone s (.vins f) f sh 0
       (if j < 64 ∧ (taking s f).getLsbD j = true then
         [⟨j, ⟨((s.cur.scalar f.va.toNat).bits.setWidth w).setWidth 64, false⟩, 0, none⟩] else [])))) ∧
  ((∀ i op f sh s, i.form = .lane op f sh → i.wf = true → LaneReady s f sh →
     (∀ l, l < 64 → laneMoved s i f sh l ≠ none) →
     let dying := poisoned s f sh
     exec i s = .next (laneDone s i f sh dying (valued (taking s f &&& ~~~dying) (fun l =>
       (⟨(laneMoved s i f sh l).getD 0, false⟩, 0))))) ∧
   (∀ f s, (Instr.mov f).wf = true → LaneReady s f (Shape.mov f) →
     let sh := Shape.mov f
     exec (.mov f) s = .next (laneDone s (.mov f) f sh 0 (valued (taking s f) (fun l =>
       (⟨((laneB s f sh l).bits.setWidth (tyWidth f.ty.toNat)).setWidth 64, (laneB s f sh l).poison⟩, 0))))) ∧
   (∀ f s, (Instr.movi f).wf = true → LaneReady s f (Shape.movi f) →
     let sh := Shape.movi f
     (f.ty = 23 → exec (.movi f) s = .next (laneDone s (.movi f) f sh 0 (valued (taking s f) (fun l =>
       (⟨(f.imm.extractLsb' 0 16 ++ (laneOld s f sh l).bits.extractLsb' 0 16).setWidth 64,
         (laneOld s f sh l).poison⟩, 0))))) ∧
     (f.ty = 24 → f.vd.toNat < 240 → exec (.movi f) s = .next (((s.modCur (fun y => y.kill 0)).setLanes
       (f.vd.toNat + 1) ((lanesIn (taking s f)).map (fun l => (l, ⟨f.imm, false⟩)))).retire (.movi f))) ∧
     (f.ty = 24 → 240 ≤ f.vd.toNat → exec (.movi f) s = .next (laneDone s (.movi f) f sh 0
       (valued (taking s f) (fun _ => (⟨f.imm ++ (0 : BitVec 32), false⟩, 0)))))))

/-- R30, R80, R87, R94, R116, R358: what a lane instruction leaves. A destination register, or the pair of
registers, holds the results in the lanes that received one; a destination predicate likewise; every other
register, predicate and lane is as it was, but for registers and predicates under last use in the
participating lanes; `CHKI` has gained the exceptions; the dying lanes are dead; the gang moves past the
instruction; memory, other fibres and the rest of the device are as they were. -/
def Obligations.LaneWriteBack : Prop :=
  ∀ (s : State) (i : Instr) (op : Nat) (f : LaneFields) (sh : Shape) (dying : LaneMask)
    (g : Nat → PX × BitVec 32), i.form = .lane op f sh → i.wf = true → popsOf sh f = [] →
    (∀ r, s.curCore.regs.laneTarget s.focus.fib r = none) →
    let part := taking s f &&& ~~~dying
    let outs := valued part g
    let t := laneDone s i f sh dying outs
    SameFar s t ∧ Advanced s t i.parcels ∧ t.cur.regs.s = s.cur.regs.s ∧ t.cur.regs.units = s.cur.regs.units ∧
    t.cur.sys.dead = s.cur.sys.dead ||| dying ∧
    t.cur.sys.chki = (s.cur.sys.chki ||| (if dying = 0 then 0 else 1) ||| raisedBits outs) ∧
    t.cur.sys.rseed = s.cur.sys.rseed ∧ t.cur.sys.satc = s.cur.sys.satc ∧ t.cur.sys.sprog = s.cur.sys.sprog ∧
    (∀ pair, sh.vd = .dst pair → f.vd.toNat < 240 → ∀ l, l < 64 → part.getLsbD l = true →
      t.lane f.vd.toNat l = ⟨(g l).1.bits.setWidth 32, (g l).1.poison⟩ ∧
      (pair = true → t.lane (f.vd.toNat + 1) l = ⟨(g l).1.bits.extractLsb' 32 32, (g l).1.poison⟩)) ∧
    (∀ r l, r < 256 → l < 64 → (part.getLsbD l = false ∨
        (r ∉ fldRegs sh.vd f.vd.toNat ∧ r ∉ s.lastUsed f sh)) → t.lane r l = s.lane r l) ∧
    (∀ l, l < 64 → sh.vd = .predDst → part.getLsbD l = true →
      (t.cur.pred f.vd.toNat).getLsbD l = (g l).1.bits.getLsbD 0) ∧
    (∀ n l, l < 64 → (part.getLsbD l = false ∨
        (¬(sh.vd = .predDst ∧ n = f.vd.toNat) ∧ n ∉ lastUsedPreds f sh)) →
      (t.cur.pred n).getLsbD l = (s.cur.pred n).getLsbD l)

namespace Sys2Proof.Spec
open Sys2Proof.Machine

/-! ### Memory -/

/-- A memory instruction of lanes has its effect: as `LaneReady`, with the lanes whose address, or for an
atomic also whose operands, hold no poison left to perform it (R237, R241). -/
structure AccessReady (s : State) (f : LaneFields) (sh : Shape) : Prop where
  held : s.holdsFields f sh = true
  some' : taking s f ≠ 0
  room : sh.long = true → s.flagFull f.fs = false
  queues : s.queueCheck f sh = .go
  quiet : s.popTrap f sh = 0

/-- The lanes that die of a poisoned address, and of a poisoned operand of an atomic. -/
def addressPoison (s : State) (f : LaneFields) (sh : Shape) : LaneMask :=
  maskOf (fun l => (taking s f).getLsbD l && (s.sourceVal sh.va f.va.toNat l).poison)
def operandPoison (s : State) (f : LaneFields) (sh : Shape) : LaneMask :=
  maskOf (fun l => (taking s f).getLsbD l && ((s.sourceVal sh.va f.va.toNat l).poison ||
    (s.sourceVal sh.vb f.vb.toNat l).poison || (s.sourceVal sh.vc f.vc.toNat l).poison))

/-- The state in which a memory instruction performs: lanes dead of poison. -/
def killing (s : State) (dying : LaneMask) : State := s.modCur (fun y => y.kill dying)

/-- The address, data and third operands by lane. -/
def addrAt (s : State) (f : LaneFields) (sh : Shape) (l : Nat) : PX := s.sourceVal sh.va f.va.toNat l
def dataAt (s : State) (f : LaneFields) (sh : Shape) (l : Nat) : PX := s.sourceVal sh.vb f.vb.toNat l
def thirdAt (s : State) (f : LaneFields) (sh : Shape) (l : Nat) : PX := s.sourceVal sh.vc f.vc.toNat l

/-- The depth of a plane or window access (R242, R243). -/
def depthOf (f : LaneFields) (a : PX) : Nat := (a.bits.setWidth 32).toNat + (f.imm.extractLsb' 0 12).toNat

/-- The byte offset of a scratch access (R244), and when it may be made (R39, R244, R258). -/
def offsetOf (f : LaneFields) (a : PX) : Int := ((a.bits.setWidth 32).toNat : Int) + (f.imm.extractLsb' 0 26).toInt
def ScratchOk (s : State) (f : LaneFields) (size : Nat) (write : Bool) (a : PX) : Prop :=
  0 ≤ offsetOf f a ∧ offsetOf f a + size ≤ s.curScratch ∧ offsetOf f a % size = 0 ∧
  (write = true → ((s.curCore.barrier s.curBlock.scrb ((offsetOf f a).toNat / 16)).armed = false ∨
    256 ≤ offsetOf f a))

/-- The lanes that store: those that perform, without the helper lanes (R26). -/
abbrev Stores (s : State) (part : LaneMask) (l : Nat) : Prop :=
  l < 64 ∧ part.getLsbD l = true ∧ s.cur.helpers.getLsbD l = false

/-- Two runs of bytes meet. -/
def Meets (a n b m : Nat) : Prop := a < b + m ∧ b < a + n

/-- The operation codes of the atomics, and whether they are reductions (R250). -/
def atomicOf : Instr → Option (Nat × Bool)
  | .atomAdd _ => some (0, false)
  | .atomMin _ => some (1, false)
  | .atomMax _ => some (2, false)
  | .atomAnd _ => some (3, false)
  | .atomOr _ => some (4, false)
  | .atomXor _ => some (5, false)
  | .atomXchg _ => some (6, false)
  | .atomCas _ => some (7, false)
  | .redAdd _ => some (0, true)
  | .redMin _ => some (1, true)
  | .redMax _ => some (2, true)
  | .redAnd _ => some (3, true)
  | .redOr _ => some (4, true)
  | .redXor _ => some (5, true)
  | _ => none
def scratchAtomicOf : Instr → Option Nat
  | .atomsAdd _ => some 0
  | .atomsMin _ => some 1
  | .atomsMax _ => some 2
  | .atomsAnd _ => some 3
  | .atomsOr _ => some 4
  | .atomsXor _ => some 5
  | .atomsXchg _ => some 6
  | .atomsCas _ => some 7
  | _ => none

/-- The new value of an atomic on W-bit values (R250, R251). -/
def atomicResult (op ty : Nat) (old b c : DWord) : DWord :=
  let w := tyWidth ty
  let u := decide (19 ≤ ty)
  let x := old.setWidth w
  let y := b.setWidth w
  match op with
  | 0 => if ty < 4 then BitVec.ofNat 64 (fAdd (fmtOfType ty) 0 x.toNat y.toNat).1 else (x + y).setWidth 64
  | 1 => (AluOp.at .min u x y).setWidth 64
  | 2 => (AluOp.at .max u x y).setWidth 64
  | 3 => (x &&& y).setWidth 64
  | 4 => (x ||| y).setWidth 64
  | 5 => (x ^^^ y).setWidth 64
  | 6 => y.setWidth 64
  | _ => if x = y then (c.setWidth w).setWidth 64 else x.setWidth 64

/-- The scalar memory instructions: destination or data, base, displacement, width, extension, scope of an
acquire or release; the first is true for a load (R164, R165). -/
structure ScalarAccess where
  load : Bool
  sd : BitVec 6
  sa : BitVec 6
  off : DWord
  w : Nat
  u : Bool
  order : Option Nat
def scalarAccess : Instr → Option ScalarAccess
  | .sld f => some ⟨true, f.sd, f.sa, f.imm.signExtend 64, 64, false, none⟩
  | .sldk f => some ⟨true, f.sd, f.sa, f.imm.signExtend 64, 64, false, none⟩
  | .sst f => some ⟨false, f.sd, f.sa, f.imm.signExtend 64, 64, false, none⟩
  | .sldLong f => some ⟨true, f.sd, f.sa, f.imm.signExtend 64, widthOf ((f.x.extractLsb' 1 2).setWidth 6),
      f.x.getLsbD 0, if f.x.extractLsb' 6 2 = 1 then some (f.x.extractLsb' 3 3).toNat else none⟩
  | .sldkLong f => some ⟨true, f.sd, f.sa, f.imm.signExtend 64, widthOf ((f.x.extractLsb' 1 2).setWidth 6),
      f.x.getLsbD 0, none⟩
  | .sstLong f => some ⟨false, f.sd, f.sa, f.imm.signExtend 64, widthOf ((f.x.extractLsb' 1 2).setWidth 6),
      false, if f.x.extractLsb' 6 2 = 2 then some (f.x.extractLsb' 3 3).toNat else none⟩
  | _ => none

end Sys2Proof.Spec

open Sys2Proof Sys2Proof.Machine Sys2Proof.Spec

/-- R38, R241, R242: `ldp` gives each participating lane the word or pair of words of its own cell at its
depth, with their poison; `stp` writes them, and no other cell or word; both within the block's plane. -/
def Obligations.PlaneAccess : Prop :=
  (∀ f s, (Instr.ldp f).wf = true → AccessReady s f (Shape.ldp f) →
    let sh := Shape.ldp f
    let dying := addressPoison s f sh
    let part := taking s f &&& ~~~dying
    let n := tyWidth f.ty.toNat / 32
    let d (l : Nat) : Nat := depthOf f (addrAt s f sh l)
    (∀ l, l < 64 → part.getLsbD l = true → d l + n ≤ s.curDepth) →
    exec (.ldp f) s = .next ((killing s dying).finishAccess (.ldp f) f sh part (valued part (fun l =>
      let lo := s.curCore.cell l (s.curBlock.pdepth + d l)
      let hi := s.curCore.cell l (s.curBlock.pdepth + d l + 1)
      (if n = 2 then ⟨hi.bits ++ lo.bits, lo.poison || hi.poison⟩ else ⟨lo.bits.setWidth 64, lo.poison⟩, 0))))) ∧
  (∀ f s, (Instr.stp f).wf = true → AccessReady s f (Shape.stp f) →
    s.curBlock.pdepth + s.curDepth ≤ 4096 →
    let sh := Shape.stp f
    let dying := addressPoison s f sh
    let part := taking s f &&& ~~~dying
    let n := tyWidth f.ty.toNat / 32
    let d (l : Nat) : Nat := depthOf f (addrAt s f sh l)
    (∀ l, l < 64 → part.getLsbD l = true → d l + n ≤ s.curDepth) →
    ∃ u : State, exec (.stp f) s = .next (u.finishAccess (.stp f) f sh part []) ∧
      u.cur = (killing s dying).cur ∧ u.mem = s.mem ∧
      (∀ c, c ≠ s.focus.core → u.core c = s.core c) ∧
      (∀ l e, l < 64 → e < 4096 → u.curCore.cell l e =
        (let v := dataAt s f sh l
         let at' := s.curBlock.pdepth + d l
         if Stores s part l ∧ e = at' then ⟨v.bits.setWidth 32, v.poison⟩
         else if Stores s part l ∧ n = 2 ∧ e = at' + 1 then ⟨v.bits.extractLsb' 32 32, v.poison⟩
         else s.curCore.cell l e)))

/-- R43, R138, R151, R243: a window read gives the word of the cell that stands at the displacement, or what
the edge mode and holes give; a window write by a lane whose cell no other lane writes leaves its word
there, and every cell that no lane writes is as it was. R39, R241, R244, R250, R251: `lds` gives each lane
the bytes of scratch at its offset, extended; a store or an atomic by a lane whose words no other lane names
leaves its bytes there, an atomic its new value; words that no lane names are as they were. -/
def Obligations.LocalAccess : Prop :=
  ((∀ f s, (Instr.ldw f).wf = true → AccessReady s f (Shape.ldw f) →
     let sh := Shape.ldw f
     let dying := addressPoison s f sh
     let part := taking s f &&& ~~~dying
     let s1 := killing s dying
     let edge := (f.imm.extractLsb' 23 3).toNat
     let target (l : Nat) := s1.windowTarget edge l (((f.imm.extractLsb' 29 3).toNat : Int) - 2)
       (((f.imm.extractLsb' 26 3).toNat : Int) - 2)
     let z (l : Nat) : PX := ⟨((thirdAt s f sh l).bits.setWidth 32).setWidth 64, (thirdAt s f sh l).poison⟩
     (∀ l, l < 64 → part.getLsbD l = true → depthOf f (addrAt s f sh l) < s.curDepth ∧ target l ≠ .away) →
     exec (.ldw f) s = .next (s1.finishAccess (.ldw f) f sh part (valued part (fun l =>
       match target l with
       | .cell c i d0 =>
         let w := (s1.core c).cell i (d0 + depthOf f (addrAt s f sh l))
         (⟨w.bits.setWidth 64, w.poison⟩, 0)
       | .hole => (if edge = 1 then z l else PX.zero, 0x200)
       | .zero => (PX.zero, 0)
       | .const => (z l, 0)
       | .far => (if edge = 1 then z l else PX.zero, 0)
       | .away => (PX.zero, 0))))) ∧
   (∀ f s, (Instr.stw f).wf = true → AccessReady s f (Shape.stw f) →
     let sh := Shape.stw f
     let dying := addressPoison s f sh
     let part := taking s f &&& ~~~dying
     let s1 := killing s dying
     let target (l : Nat) := s1.windowTarget (f.imm.extractLsb' 23 3).toNat l
       (((f.imm.extractLsb' 29 3).toNat : Int) - 2) (((f.imm.extractLsb' 26 3).toNat : Int) - 2)
     let d (l : Nat) : Nat := depthOf f (addrAt s f sh l)
     (∀ l, l < 64 → part.getLsbD l = true → d l < s.curDepth ∧ target l ≠ .away) →
     ∃ u : State, exec (.stw f) s = .next (u.finishAccess (.stw f) f sh part []) ∧ u.mem = s.mem ∧
       u.cur.regs = s.cur.regs ∧
       (∀ l c i d0, Stores s part l → target l = .cell c i d0 →
         (∀ m c' i' d', Stores s part m → m ≠ l → target m = .cell c' i' d' →
           ¬(c' = c ∧ 4096 * i' + (d' + d m) = 4096 * i + (d0 + d l))) →
         (u.core c).cell i (d0 + d l) = ⟨(dataAt s f sh l).bits.setWidth 32, (dataAt s f sh l).poison⟩) ∧
       (∀ c i e, (∀ l i' d', Stores s part l → target l = .cell c i' d' →
           4096 * i' + (d' + d l) ≠ 4096 * i + e) → (u.core c).cell i e = (s.core c).cell i e))) ∧
  ((∀ f s, (Instr.lds f).wf = true → AccessReady s f (Shape.lds f) →
     let sh := Shape.lds f
     let dying := addressPoison s f sh
     let part := taking s f &&& ~~~dying
     let size := tyWidth f.ty.toNat / 8
     (∀ l, l < 64 → part.getLsbD l = true → ScratchOk s f size false (addrAt s f sh l)) →
     exec (.lds f) s = .next ((killing s dying).finishAccess (.lds f) f sh part (valued part (fun l =>
       let v := s.curCore.scratchLoad s.curBlock.scrb (offsetOf f (addrAt s f sh l)).toNat size
       (⟨placed f.ty.toNat (v.bits.setWidth (tyWidth f.ty.toNat)), v.poison⟩, 0))))) ∧
   (∀ i op f sh s, i.form = .lane op f sh → i.wf = true → AccessReady s f sh →
     (i = .sts f ∨ scratchAtomicOf i ≠ none) →
     s.curBlock.scrb + s.scratchRows s.focus.core s.cur.block ≤ 4096 →
     let dying := if i = .sts f then addressPoison s f sh else operandPoison s f sh
     let part := taking s f &&& ~~~dying
     let size := tyWidth f.ty.toNat / 8
     let o (l : Nat) : Nat := (offsetOf f (addrAt s f sh l)).toNat
     let load (k : CoreState) (a : Nat) : PX := k.scratchLoad s.curBlock.scrb a size
     let w := tyWidth f.ty.toNat
     (∀ l, l < 64 → part.getLsbD l = true → ScratchOk s f size true (addrAt s f sh l)) →
     ∃ (u : State) (outs : List LaneOut), exec i s = .next (u.finishAccess i f sh part outs) ∧
       u.mem = s.mem ∧ u.cur.regs = s.cur.regs ∧
       (∀ l, Stores s part l →
         (∀ m, Stores s part m → m ≠ l → ¬Meets (o l / 4) ((size + 3) / 4) (o m / 4) ((size + 3) / 4)) →
         (i = .sts f → (load u.curCore (o l)).bits.setWidth w = (dataAt s f sh l).bits.setWidth w) ∧
         (∀ a, scratchAtomicOf i = some a → (load s.curCore (o l)).poison = false →
           (load u.curCore (o l)).bits.setWidth w = (atomicResult a f.ty.toNat (load s.curCore (o l)).bits
             (dataAt s f sh l).bits (thirdAt s f sh l).bits).setWidth w ∧
           (outs.find? (fun x => x.lane == l)).map LaneOut.val = some (load s.curCore (o l)))) ∧
       (∀ k, 4 * k + 4 ≤ s.curScratch →
         (∀ l, Stores s part l → ¬Meets k 1 (o l / 4) ((size + 3) / 4)) →
         u.curCore.scratchWord s.curBlock.scrb k = s.curCore.scratchWord s.curBlock.scrb k)))

/-- R100 to R102, R240, R241, R245, R246, R249: a load through a buffer record gives each lane the element
that its translated bytes hold, converted and scaled where the record says so, with its poison; a load that
acquires records a release out of its scope. A prefetch changes no register and no memory. -/
def Obligations.GlobalLoad : Prop :=
  (∀ (f : LaneFields) (s : State) (acc : Nat → LaneAccess) (ps qs : Nat → List Piece), (Instr.ldg f).wf = true → AccessReady s f (Shape.ldg f) →
    s.isAlone s.focus.core s.focus.fib = true → s.attached s.focus.core s.focus.fib = false →
    let sh := Shape.ldg f
    let dying := addressPoison s f sh
    let part := taking s f &&& ~~~dying
    let r := s.record (f.imm.extractLsb' 26 6).toNat
    let s1 := killing s dying
    (∀ l, l < 64 → part.getLsbD l = true →
      globalAccess r f false (addrAt s f sh l) = .ok (acc l) ∧
      s1.range s.focus.core (s.ctxOf s.focus.core s.cur.block) .load (acc l).va (acc l).n = .ok (ps l) ∧
      (match (acc l).scale with
        | none => qs l = []
        | some (a, _) => s1.range s.focus.core (s.ctxOf s.focus.core s.cur.block) .load a 4 = .ok (qs l))) →
    let drops := f.m2 = 1 ∧ ∃ l, l < 64 ∧ part.getLsbD l = true ∧
      s1.dropsAcquireOf s.focus.core s.focus.fib f.m1.toNat (ps l) = true
    let outs := valued part (fun l =>
      let o := convertLoad r f.ty.toNat l (s.mem.value (ps l)) (s.mem.value (qs l)) (acc l)
      (o.val, o.flags))
    (drops → exec (.ldg f) s = .next ((s1.orChki 0x2).finishAccess (.ldg f) f sh part outs)) ∧
    (¬drops → exec (.ldg f) s = .next (s1.finishAccess (.ldg f) f sh part outs))) ∧
  (∀ f s, (Instr.prefg f).wf = true → AccessReady s f Shape.prefg →
    let dying := addressPoison s f Shape.prefg
    exec (.prefg f) s = .next ((killing s dying).finishAccess (.prefg f) f Shape.prefg
      (taking s f &&& ~~~dying) []))

/-- R59, R70, R241, R245 to R247, R272: a store through a buffer record, by a lane whose bytes no other lane
stores to, leaves its element there, as whole bytes; every byte of memory that no lane stores to is as it
was. -/
def Obligations.GlobalStore : Prop :=
  ∀ (f : LaneFields) (s : State) (acc : Nat → LaneAccess) (ps qs : Nat → List Piece), (Instr.stg f).wf = true → AccessReady s f (Shape.stg f) →
    s.isAlone s.focus.core s.focus.fib = true →
    let sh := Shape.stg f
    let dying := addressPoison s f sh
    let part := taking s f &&& ~~~dying
    let r := s.record (f.imm.extractLsb' 26 6).toNat
    let s1 := killing s dying
    (∀ l, l < 64 → part.getLsbD l = true →
      globalAccess r f true (addrAt s f sh l) = .ok (acc l)) →
    (∀ l, Stores s part l →
      s1.range s.focus.core (s.ctxOf s.focus.core s.cur.block) .store (acc l).va (acc l).n = .ok (ps l) ∧
      (match (acc l).scale with
        | none => qs l = []
        | some (a, _) => s1.range s.focus.core (s.ctxOf s.focus.core s.cur.block) .load a 4 = .ok (qs l))) →
    let touches (l a : Nat) : Prop := ∃ p ∈ ps l, p.addr ≤ a ∧ a < p.addr + p.len
    ∃ u : State, exec (.stg f) s = .next (u.finishAccess (.stg f) f sh part []) ∧
      u.cur.regs = s.cur.regs ∧
      (∀ a, (∀ l, Stores s part l → ¬touches l a) → u.mem.byte a = s.mem.byte a) ∧
      (∀ l p, Stores s part l → ps l = [p] → (acc l).w = 8 * (acc l).n →
        (∀ m a, Stores s part m → m ≠ l → touches m a → ¬(p.addr ≤ a ∧ a < p.addr + p.len)) →
        u.mem.num p.addr (acc l).n =
          (if recRaw r then (dataAt s f sh l).bits.toNat
           else (convertStore r (dataAt s f sh l) (s.mem.value (qs l)) (acc l)).1 * 2 ^ (acc l).lo)
            % 2 ^ (8 * (acc l).n))

/-- R241, R250 to R252: an atomic or a reduction on global memory, by a lane whose bytes no other lane names
and no poison touches, leaves its new value and, for an atomic, returns the old one; bytes that no lane
names are as they were. -/
def Obligations.GlobalAtomics : Prop :=
  ∀ (i : Instr) (op : Nat) (f : LaneFields) (sh : Shape) (s : State) (a : Nat) (red : Bool) (acc : Nat → LaneAccess)
    (ps : Nat → Piece), i.form = .lane op f sh → i.wf = true → atomicOf i = some (a, red) →
    AccessReady s f sh → s.isAlone s.focus.core s.focus.fib = true →
    let dying := operandPoison s f sh
    let part := taking s f &&& ~~~dying
    let r := s.record (f.imm.extractLsb' 26 6).toNat
    let s1 := killing s dying
    let size := tyWidth f.ty.toNat / 8
    recRaw r = true → (recEnc r < 12 ∨ 15 < recEnc r) → recBadFormat r = false → recDenied r true = false →
    (∀ l, l < 64 → part.getLsbD l = true →
      rawAccess r size (((addrAt s f sh l).bits.setWidth 32).toNat + (f.imm.extractLsb' 0 26).toInt) =
        .ok (acc l)) →
    (∀ l, Stores s part l → s1.range s.focus.core (s.ctxOf s.focus.core s.cur.block) .store (acc l).va size =
      .ok [ps l] ∧ (ps l).len = size) →
    ∃ (u : State) (outs : List LaneOut), exec i s = .next (u.finishAccess i f sh part outs) ∧
      u.cur.regs = s.cur.regs ∧
      (∀ b, (∀ l, Stores s part l → ¬((ps l).addr ≤ b ∧ b < (ps l).addr + size)) → u.mem.byte b = s.mem.byte b) ∧
      (∀ l, Stores s part l →
        (∀ m, Stores s part m → m ≠ l → ¬Meets (ps l).addr size (ps m).addr size) →
        (ps l).por = false → (∀ m, Stores s part m → ∀ b, (ps m).addr ≤ b → b < (ps m).addr + size →
          s.mem.poisoned b = false) → (∀ c, (s.core c).regs.armed 2 = false) →
        u.mem.num (ps l).addr size = (atomicResult a f.ty.toNat (BitVec.ofNat 64 (s.mem.num (ps l).addr size))
          (dataAt s f sh l).bits (thirdAt s f sh l).bits).toNat % 2 ^ (8 * size) ∧
        (outs.find? (fun x => x.lane == l)).map LaneOut.val = some
          ⟨placed f.ty.toNat (BitVec.ofNat (tyWidth f.ty.toNat) (s.mem.num (ps l).addr size)), false⟩)

/-- R158, R164, R165, R253: a scalar load writes its destination with the bytes at its address, extended, and
their poison, and selects the clause's flag; a scalar store writes the low bytes of its register there and
nothing else; an address with high bits set raises 0x08, a misaligned one 0x07. -/
def Obligations.ScalarMemory : Prop :=
  ∀ i s x, scalarAccess i = some x → (s.cur.scalar x.sa.toNat).poison = false →
    let addr := (s.cur.scalar x.sa.toNat).bits + x.off
    let size := x.w / 8
    let c := s.focus.core
    (addr.extractLsb' 57 7 ≠ 0 → exec i s = .next (s.trap 0x08 0 i)) ∧
    (addr.extractLsb' 57 7 = 0 → addr.toNat % size ≠ 0 → exec i s = .next (s.trap 0x07 0 i)) ∧
    (addr.extractLsb' 57 7 = 0 → addr.toNat % size = 0 → s.flagFull false = false →
      s.isAlone c s.focus.fib = true → s.attached c s.focus.fib = false →
      (x.load = true → ∀ ps, s.range c (s.ctxOf c s.cur.block) .load addr.toNat size = .ok ps →
        (∀ scope, x.order = some scope → s.dropsAcquireOf c s.focus.fib scope ps = false) →
        let v := (s.mem.value ps).bits.setWidth x.w
        exec i s = .next (((s.modCur (fun y => y.setScalar x.sd.toNat
          ⟨if x.u then v.setWidth 64 else v.signExtend 64, (s.mem.value ps).poison⟩)).selectFlag false).retire i)) ∧
      (x.load = false → ∀ p, s.range c (s.ctxOf c s.cur.block) .store addr.toNat size = .ok [p] →
        Gives i s (fun t => t.cur.regs = s.cur.regs ∧ Advanced s t i.parcels ∧
          t.mem.num p.addr size = (s.cur.scalar x.sd.toNat).bits.toNat % 2 ^ x.w ∧
          (∀ a, ¬(p.addr ≤ a ∧ a < p.addr + size) → t.mem.byte a = s.mem.byte a))))

/-- R9, R241: bytes written to memory read back, every other byte is as it was, clean bytes that fill a
granule leave no poison there and poisoned ones poison it, and the list of bytes keeps its one canonical
form, the model's choice, log entry 4. -/
def Obligations.MemoryReadsBack : Prop :=
  ∀ (m : Memory) (a : Nat) (bs : List (BitVec 8)) (poison : Bool) (r : ReleaseAction),
    let m2 := m.write a bs poison r
    (∀ k b, bs[k]? = some b → m2.byte (a + k) = b) ∧
    (∀ x, x < a ∨ a + bs.length ≤ x → m2.byte x = m.byte x) ∧
    (∀ k, k < bs.length → poison = true → m2.poisoned (a + k) = true) ∧
    (∀ x, poison = false → a ≤ x / 32 * 32 → x / 32 * 32 + 32 ≤ a + bs.length → m2.poisoned x = false) ∧
    (∀ x, (x / 32 < a / 32 ∨ (a + bs.length + 31) / 32 ≤ x / 32) → m2.poisoned x = m.poisoned x) ∧
    (m.wf = true → m2.wf = true)

namespace Sys2Proof.Spec
open Sys2Proof.Machine

/-- An image instruction: whether it saves, whether it names a tile, its tile or slot, its base register and
displacement (R192, R193). -/
structure ImageAccess where
  save : Bool
  tile : Bool
  index : Nat
  sa : BitVec 6
  off : DWord
def imageAccess : Instr → Option ImageAccess
  | .accsv f => some ⟨true, true, f.imm.toNat, f.sa, 0⟩
  | .accsvLong f => some ⟨true, true, f.x.toNat, f.sa, f.imm.signExtend 64⟩
  | .accrs f => some ⟨false, true, f.imm.toNat, f.sa, 0⟩
  | .accrsLong f => some ⟨false, true, f.x.toNat, f.sa, f.imm.signExtend 64⟩
  | .osv f => some ⟨true, false, f.imm.toNat, f.sa, 0⟩
  | .osvLong f => some ⟨true, false, f.x.toNat, f.sa, f.imm.signExtend 64⟩
  | .orst f => some ⟨false, false, f.imm.toNat, f.sa, 0⟩
  | .orstLong f => some ⟨false, false, f.x.toNat, f.sa, f.imm.signExtend 64⟩
  | _ => none

/-- Some pieces are the consecutive bytes from an address. -/
def Contiguous : List Piece → Nat → Nat → Prop
  | [], _, n => n = 0
  | p :: rest, a, n => p.addr = a ∧ p.len ≤ n ∧ Contiguous rest (a + p.len) (n - p.len)

/-- A command of the core names the tile or slot (R192). -/
def imageBusy (s : State) (x : ImageAccess) : Bool :=
  if x.tile then s.curCore.tileBusy x.index else s.curCore.slotBusy x.index

/-- A register of a lane of any fibre: its own, or that of the window of its slot (R35). -/
def registerOf (s : State) (c f r l : Nat) : PW :=
  if (s.block c (s.fibre c f).block).inWindow r then Tab.get PW.zero (s.slot c (f / 4)).window (64 * r + l)
  else Tab.get PW.zero (s.fibre c f).regs.v (64 * r + l)

/-- `arrive()` of R257: the count rises; at the expected count the phase flips, the count and the waiters
are cleared. -/
def arrived (b : Barrier) (e : Nat) : Barrier :=
  let n := if b.arrived = 0 ∧ e ≠ 0 then e else b.expect
  if b.arrived + 1 < n then { b with arrived := b.arrived + 1, expect := n }
  else { b with arrived := 0, expect := n, phase := !b.phase, waiters := 0 }

/-- The barriers of the issuing block stand in scratch words that exist (R256). -/
def BarriersFit (s : State) : Prop :=
  s.curCore.presentCells ≠ [] ∧ s.curBlock.scrb + 64 ≤ 4096

/-- The engine instructions: OP and engine (R274). -/
def engineOp : Instr → Option (Nat × Nat)
  | .orel _ => some (0x121, 0)
  | .mma _ => some (0x122, 0)
  | .azero _ => some (0x123, 0)
  | .drainQ _ => some (0x124, 0)
  | .drainPl _ => some (0x124, 0)
  | .drainScr _ => some (0x124, 0)
  | .drainSlot _ => some (0x124, 0)
  | .drainGlb _ => some (0x124, 0)
  | .ald _ => some (0x125, 0)
  | .cpyIn _ => some (0x128, 1)
  | .cpyOut _ => some (0x128, 1)
  | .cpyq _ => some (0x129, 1)
  | .scrlF _ => some (0x130, 2)
  | .scrlM _ => some (0x130, 2)
  | .wgath _ => some (0x138, 0)
  | .wpool _ => some (0x139, 2)
  | _ => none

/-- The scalar registers that an engine instruction reads (R275, R297, R301, R302). -/
def engineScalars (op : Nat) (f : LaneFields) : List Nat :=
  if op = 0x124 then [f.vb.toNat % 64]
  else if op = 0x125 ∨ 0x140 ≤ op then [f.va.toNat % 64]
  else if 0x128 ≤ op then
    [f.va.toNat % 64, f.va.toNat % 64 + 1, f.va.toNat % 64 + 2, f.va.toNat % 64 + 3]
  else []

/-- The format word: the one of the lowest participating lane (R99, R290). -/
def formatWord (s : State) (f : LaneFields) (sh : Shape) : Word :=
  match (lanesIn (taking s f)).head? with
  | some l => (s.sourceVal sh.vc f.vc.toNat l).bits.setWidth 32
  | none => 0

/-- The command that an engine instruction stands for (R274, R275, R278). -/
def commandFor (s : State) (op : Nat) (f : LaneFields) (sh : Shape) (node : Option Nat) : Command :=
  let c : Command :=
    { op := op, m1 := f.m1.toNat, vd := f.vd.toNat, va := f.va.toNat, vb := f.vb.toNat, vc := f.vc.toNat,
      imm := f.imm.toNat, desc := (engineScalars op f).map (fun r => (s.cur.scalar r).bits),
      word := formatWord s f sh, flag := s.flagFor f.fs,
      cseq := Tab.get 0 s.cur.eq.cseq (engineOf op), node := node, pc := s.pc, uncovered := false }
  { c with uncovered := op == 0x122 && meets c.reads s.cur.lq.uncovered }

/-- What an engine instruction needs, apart from room in its queue or node: nothing that R82, R87, R89, R90,
R158, R195, R290 and the checks of its command raise. -/
structure EngineReady (s : State) (op : Nat) (f : LaneFields) (sh : Shape) (cmd : Command)
    (nd : Option DWord) : Prop where
  held : s.holdsFields f sh = true
  legal : s.commandIllegal cmd (readsWord op) nd = false
  some' : taking s f &&& ~~~s.cur.helpers ≠ 0
  room : s.flagFull f.fs = false
  queues : s.queueCheck f sh = .go
  quiet : s.popTrap f sh = 0
  scalars : ∀ r ∈ engineScalars op f, (s.cur.scalar r).poison = false
  words : readsWord op = true → ∀ l, l < 64 → (taking s f).getLsbD l = true →
    (s.sourceVal sh.vc f.vc.toNat l).poison = false ∧
    (s.sourceVal sh.vc f.vc.toNat l).bits.setWidth 32 = formatWord s f sh
  checks : (killing s 0).commandCause cmd = none
  free : (killing s 0).commandStalls cmd = false

/-- The command has been given to its engine: it stands last in its queue, it counts, its flag is selected. -/
def Queued (s t : State) (e : Nat) (cmd : Command) : Prop :=
  Tab.get [] t.cur.eq.cmds e = Tab.get [] s.cur.eq.cmds e ++ [cmd] ∧
  Tab.get 0 t.cur.eq.outstanding e = Tab.get 0 s.cur.eq.outstanding e + 1 ∧
  Tab.get 0 t.cur.eq.cseq e = (cmd.cseq + 1) % 65536 ∧
  (∀ n, cmd.flag = some n → t.cur.flag n = s.cur.flag n + 1)

end Sys2Proof.Spec

open Sys2Proof Sys2Proof.Machine Sys2Proof.Spec

/-- R254, R255, R284: a `fence` only goes on; an `ofence` writes the pushed rows of the fibre to the slots
that its block claims, in order, and covers them; a row of `q4` is written to its line of its slot. R256 to
R258: `bara` arrives and gives the old phase; `bars` arrives and goes on where it completes the phase, waits
otherwise; `barw` goes on where the phase has flipped, waits otherwise; `bari` sets an idle barrier and
raises 0x0A for an armed one. R248, R261, R262: `marm` arms the monitor of the fibre on the line of its
address; `mwait` of a triggered or absent monitor returns 1 and disarms, and waits otherwise; a trigger or a
passed timeout ends the wait with 1 or 0. -/
def Obligations.FencesBarriersMonitors : Prop :=
  ((∀ f s, exec (.fence f) s = .next (s.retire (.fence f))) ∧
   (∀ f s, Gives (.ofence f) s (fun t => t.cur.lq.q4 = [] ∧ t.cur.lq.uncovered = [] ∧
     t.cur.regs = s.cur.regs ∧ t.mem = s.mem ∧ Advanced s t 3)) ∧
   (∀ core fib s r rest, (s.fibre core fib).lq.q4 = r :: rest →
     Tab.get 0 (s.core core).mem.claims r.slot = (s.fibre core fib).block + 1 →
     Gives (.q4RowWrite core fib) s (fun t => (t.fibre core fib).lq.q4 = rest ∧
       (∀ l b, l < 64 → b < 4 → (t.core core).mem.slotByte (4352 * r.slot + 256 * r.row + 4 * l + b) =
         (r.vals.getD l PX.zero).bits.extractLsb' (8 * b) 8) ∧
       (∀ a, (a < 4352 * r.slot + 256 * r.row ∨ 4352 * r.slot + 256 * r.row + 256 ≤ a) →
         (t.core core).mem.slotByte a = (s.core core).mem.slotByte a)))) ∧
  (∀ (f : LaneFields) (s : State), BarriersFit s →
     (s.cur.scalar f.va.toNat).poison = false → (s.cur.scalar f.vb.toNat).poison = false →
     let n := (s.cur.scalar f.va.toNat).bits.toNat % 16
     let v := (s.cur.scalar f.vb.toNat).bits
     let b := s.curBarrier n
     let e := v.toNat % 128
     s.curCore.barrierLost s.curBlock.scrb n = false →
     Gives (.bara f) s (fun t => t.curBarrier n = arrived b e ∧ Advanced s t 3 ∧
       (f.vd ≠ 0 → t.cur.scalar f.vd.toNat = ⟨if b.phase then 1 else 0, false⟩)) ∧
     ((arrived b e).phase ≠ b.phase → Gives (.bars f) s (fun t => t.curBarrier n = arrived b e ∧
       Advanced s t 3 ∧ t.cur.regs = s.cur.regs)) ∧
     ((arrived b e).phase = b.phase → Gives (.bars f) s (fun t =>
       (t.curBarrier n).arrived = b.arrived + 1 ∧
       (t.curBarrier n).waiters = (b.waiters ||| BitVec.ofNat 64 (2 ^ (s.cur.relative % 64))) ∧
       ∀ q, q < 16 → s.focus.quads.getLsbD q = true → (t.cur.quad q).wait = .barrier n b.phase)) ∧
     (b.phase ≠ v.getLsbD 0 → exec (.barw f) s = .next (s.retire (.barw f))) ∧
     (b.phase = v.getLsbD 0 → Gives (.barw f) s (fun t =>
       (t.curBarrier n).waiters = (b.waiters ||| BitVec.ofNat 64 (2 ^ (s.cur.relative % 64))) ∧
       ∀ q, q < 16 → s.focus.quads.getLsbD q = true → (t.cur.quad q).wait = .barrier n b.phase)) ∧
     (b.arrived = 0 → b.waiters = 0 → s.curBlock.slots * s.curBlock.fibres < 128 →
       Gives (.bari f) s (fun t => t.curBarrier n = { waiters := 0, phase := b.phase, arrived := 0, expect :=
         if e = 0 then s.curBlock.slots * s.curBlock.fibres else e } ∧ Advanced s t 3)) ∧
     ((b.arrived ≠ 0 ∨ b.waiters ≠ 0) → exec (.bari f) s = .next (s.trap 0x0A 0 (.bari f)))) ∧
  ((∀ f s l, (s.cur.scalar f.va.toNat).poison = false →
     s.isAlone s.focus.core s.focus.fib = true →
     let a := (s.cur.scalar f.va.toNat).bits
     (a.extractLsb' 57 7 ≠ 0 → exec (.marm f) s = .next (s.trap 0x08 0 (.marm f))) ∧
     (a.extractLsb' 57 7 = 0 →
       s.translate s.focus.core (s.ctxOf s.focus.core s.cur.block) a.toNat .load = .ok l →
       Gives (.marm f) s (fun t => t.cur.monitor = some ⟨l.addr / 128, f.m1.toNat, false, false⟩ ∧
         t.cur.regs = s.cur.regs ∧ Advanced s t 3 ∧ SameOutside s t))) ∧
   (∀ f s, (s.cur.scalar f.va.toNat).poison = false → s.isAlone s.focus.core s.focus.fib = true →
     ((∀ m, s.cur.monitor = some m → m.triggered = true ∨ m.written = true) →
       Gives (.mwait f) s (fun t => t.cur.monitor = none ∧ Advanced s t 3 ∧
         (f.vd ≠ 0 → t.cur.scalar f.vd.toNat = ⟨1, false⟩))) ∧
     (∀ m, s.cur.monitor = some m → m.triggered = false → m.written = false →
       Gives (.mwait f) s (fun t => ∀ q, q < 16 → s.focus.quads.getLsbD q = true →
         (t.cur.quad q).wait = .mwait f.vd.toNat (s.cur.scalar f.va.toNat).bits.toNat s.time.toNat))) ∧
   (∀ core fib s m sd timeout since, (s.fibre core fib).mwaiting = some (sd, timeout, since) →
     s.isAlone core fib = true → sd ≠ 0 →
     let ends (t : State) (v : DWord) : Prop := (t.fibre core fib).monitor = none ∧
       (t.fibre core fib).scalar sd = ⟨v, false⟩ ∧
       ∀ q, q < 16 → (t.fibre core fib).quad q ≠ (s.fibre core fib).quad q →
         ((t.fibre core fib).quad q).wait = .none
     ((s.fibre core fib).monitor = some m → m.written = true →
       Gives (.monitorTrigger core fib) s (fun t => ends t 1)) ∧
     (timeout ≠ 0 → timeout ≤ s.time.toNat - since → Gives (.mwaitTimeout core fib) s (fun t => ends t 0))))

/-- R263 to R265: an `rwr` whose target is good sends the values of its lanes; the oldest remote write of a
sender to a target lands in the lanes of its register that live, and counts as an arrival; `await` goes on
once the count is reached; `arrc` reads the count and clears it. -/
def Obligations.RemoteWrites : Prop :=
  (∀ f s, (Instr.rwr f).wf = true → AccessReady s f Shape.rwr →
    (s.cur.scalar f.vb.toNat).poison = false →
    (killing s 0).checkRwr (s.cur.scalar f.vb.toNat).bits = .ok →
    Gives (.rwr f) s (fun t => Advanced s t 3 ∧ t.mem = s.mem ∧ ∃ r, t.rwrs = s.rwrs ++ [r] ∧
      r.lanes = taking s f ∧ r.sender = (s.focus.core, s.focus.fib) ∧
      r.reg = 224 + ((s.cur.scalar f.vb.toNat).bits.extractLsb' 8 4).toNat ∧
      (r.cx, r.cy) = (2 * (s.curBlock.cx / 2) + ((s.cur.scalar f.vb.toNat).bits.extractLsb' 0 1).toNat,
        2 * (s.curBlock.cy / 2) + ((s.cur.scalar f.vb.toNat).bits.extractLsb' 1 1).toNat) ∧
      r.bslot = ((s.cur.scalar f.vb.toNat).bits.extractLsb' 2 4).toNat ∧
      r.index = ((s.cur.scalar f.vb.toNat).bits.extractLsb' 6 2).toNat ∧
      ∀ l, l < 64 → r.vals.getD l PX.zero = s.sourceVal (.src false) f.va.toNat l)) ∧
  (∀ s r rest c b fib, s.rwrs = r :: rest → s.planeCore r.part r.lid r.cx r.cy = some (c, b) →
    (s.core c).fibreAt b r.bslot r.index = some fib → (∀ k, (s.core c).regs.laneTarget fib k = none) →
    Gives (.rwrDelivery 0) s (fun t => t.rwrs = rest ∧
      (t.fibre c fib).sys.arrivals.toNat = min 65535 ((s.fibre c fib).sys.arrivals.toNat + 1) ∧
      (∀ l, l < 64 → registerOf t c fib r.reg l =
        if r.lanes.getLsbD l && (s.fibre c fib).live.getLsbD l then
          ⟨(r.vals.getD l PX.zero).bits.setWidth 32, (r.vals.getD l PX.zero).poison⟩
        else registerOf s c fib r.reg l))) ∧
  (∀ f s, (s.cur.scalar f.va.toNat).poison = false →
    let n := (s.cur.scalar f.va.toNat).bits.extractLsb' 0 16
    (n.toNat ≤ s.cur.sys.arrivals.toNat → exec (.await f) s = .next (s.retire (.await f))) ∧
    (s.cur.sys.arrivals.toNat < n.toNat → exec (.await f) s = .next (s.wait (.arrivals n.toNat)))) ∧
  (∀ f s, Gives (.arrc f) s (fun t => t.cur.sys.arrivals = 0 ∧ Advanced s t 3 ∧
    (f.vd ≠ 0 → t.cur.scalar f.vd.toNat = ⟨s.cur.sys.arrivals.setWidth 64, false⟩)))

/-- R82, R87, R89, R195, R198, R270: where a lane instruction does not compute: a register that the fibre
does not hold raises 0x01; with no participating lane it only goes on; it waits for a flag or a queue
without room or entries, and raises 0x09 where a queue can never serve it. R86, R87: a queue of the slot is
first in, first out: a push adds an entry behind the others, a pop removes the front one and leaves the
others; the other queues stay. R266 to R269: `qtry` of an empty queue gives false; of another it pops an
entry into its register and gives true; `qlen` gives the number of entries and the closed bit; `qcls` closes
a queue of the slot; `qput` gives the engine of its queue the command of its record. -/
def Obligations.QueuesAndStops : Prop :=
  (∀ i op f sh s g, i.form = .lane op f sh → i.wf = true → laneInteger i f.ty.toNat = some g →
     (sh.kind = true → f.m2 = 3 → (s.cur.scalar (f.vb.toNat % 64)).poison = false) →
     (s.holdsFields f sh = false → exec i s = .next (s.trap 0x01 (taking s f) i)) ∧
     (s.holdsFields f sh = true → taking s f = 0 → exec i s = .next (s.retire i)) ∧
     (s.holdsFields f sh = true → taking s f ≠ 0 → sh.long = false →
       (∀ w, s.queueCheck f sh = .block w → exec i s = .next (s.wait w)) ∧
       (∀ c, s.queueCheck f sh = .trap c → exec i s = .next (s.trap c (taking s f) i)) ∧
       (s.queueCheck f sh = .go → s.popTrap f sh ≠ 0 →
         exec i s = .next (s.trap 0x0D (s.popTrap f sh) i)))) ∧
  (∀ (s : State) (q : Nat) (v : LaneVec), 8 ≤ q → q < 12 →
     let entries (s : State) (q : Nat) := Tab.get [] (s.slot s.focus.core s.curSlotNo).queues q
     entries (s.pushQueue q v) q = entries s q ++ [v] ∧
     (∀ e rest, entries s q = e :: rest → s.queueFront q = e ∧ entries (s.popQueue q) q = rest) ∧
     (∀ p, p ≠ q → entries (s.pushQueue q v) p = entries s p ∧ entries (s.popQueue q) p = entries s p)) ∧
  ((∀ f s, (Instr.qtry f).wf = true → s.holdsFields f (Shape.qtry f) = true → taking s f ≠ 0 →
     let q := f.va.toNat - 240
     (s.queueLength q = 0 → Gives (.qtry f) s (fun t => Advanced s t 3 ∧
       t.cur.pred f.vc.toNat = s.cur.pred f.vc.toNat &&& ~~~taking s f)) ∧
     (s.queueLength q ≠ 0 → f.vd.toNat < 240 → q ≠ 13 →
       (∀ r, s.curCore.regs.laneTarget s.focus.fib r = none) →
       Gives (.qtry f) s (fun t => Advanced s t 3 ∧ t.queueLength q + 1 = s.queueLength q ∧
         t.cur.pred f.vc.toNat = (s.cur.pred f.vc.toNat ||| taking s f) ∧
         ∀ l, l < 64 → (taking s f).getLsbD l = true →
           t.lane f.vd.toNat l = ⟨((s.queueFront q).at l).bits.setWidth 32, ((s.queueFront q).at l).poison⟩))) ∧
   (∀ f s, 240 ≤ f.va.toNat →
     let q := f.va.toNat - 240
     Gives (.qlen f) s (fun t => Advanced s t 3 ∧ (f.vd ≠ 0 → t.cur.scalar f.vd.toNat =
       ⟨BitVec.ofNat 64 (s.queueLength q % 32 + (if 8 ≤ q ∧ q < 12 ∧
         (s.slot s.focus.core s.curSlotNo).closed.getLsbD (q - 8) = true then 256 else 0)), false⟩))) ∧
   (∀ f s, 248 ≤ f.va.toNat → f.va.toNat < 252 →
     Gives (.qcls f) s (fun t => Advanced s t 3 ∧ t.cur.regs = s.cur.regs ∧
       ∀ q, q < 4 → (t.slot s.focus.core s.curSlotNo).closed.getLsbD q =
         ((s.slot s.focus.core s.curSlotNo).closed.getLsbD q || decide (q = f.va.toNat - 248)))) ∧
   (∀ f s l r a, (Instr.qput f).wf = true → AccessReady s f { Shape.qput with vd := .zero } →
     addressPoison s f Shape.qput = 0 → (lanesIn (taking s f)).head? = some l →
     (s.sourceVal (.src true) f.va.toNat l).bits = r → recordAsk (f.vd.toNat - 240) r.toNat f = some a →
     nodeScalar a.op a.f = none → a.op ≠ 0x120 → a.op < 0x140 → taking s a.f = taking s f →
     let cmd : Command := { commandFor s a.op a.f a.sh none with flag := none }
     EngineReady (killing s 0) a.op a.f a.sh cmd none →
     (Tab.get [] s.cur.eq.cmds (f.vd.toNat - 240)).length < 16 →
     Gives (.qput f) s (fun t => Queued s t (f.vd.toNat - 240) cmd ∧ Advanced s t 3)))

/-- R274 to R280, R287 to R304: an engine instruction that nothing stops gives its command to its engine, or
to the node that it names, and changes neither memory nor what the engines work on; two participating lanes
with different format words raise 0x03. -/
def Obligations.EngineCommands : Prop :=
  (∀ i op' op e f sh s, engineOp i = some (op, e) → i.form = .lane op' f sh → i.wf = true →
    f.m1.getLsbD 3 = false →
    let cmd := commandFor s op f sh none
    EngineReady s op f sh cmd none → (Tab.get [] s.cur.eq.cmds e).length < 16 →
    Gives i s (fun t => Queued s t e cmd ∧ Advanced s t 3 ∧ t.mem = s.mem ∧
      t.curCore.mem = s.curCore.mem ∧ t.curCore.eng = s.curCore.eng ∧ t.cur.regs.s = s.cur.regs.s)) ∧
  (∀ i op' op e f sh s, engineOp i = some (op, e) → i.form = .lane op' f sh → i.wf = true →
    f.m1.getLsbD 3 = true → (s.cur.scalar (f.imm.toNat % 64)).poison = false →
    let d := (s.cur.scalar (f.imm.toNat % 64)).bits
    let id := (d.extractLsb' 0 9).toNat
    let cmd := commandFor s op f sh (some id)
    EngineReady s op f sh cmd (some d) → d.extractLsb' 16 8 ≠ 0 →
    Gives i s (fun t => Advanced s t 3 ∧ t.mem = s.mem ∧ t.curCore.mem = s.curCore.mem ∧
      (t.node s.focus.core s.cur.block id).state = .waiting ∧
      (t.node s.focus.core s.cur.block id).count = (d.extractLsb' 16 8).toNat ∧
      (t.node s.focus.core s.cur.block id).cmd = some (e, s.focus.fib, cmd) ∧
      Tab.get [] t.cur.eq.cmds e = Tab.get [] s.cur.eq.cmds e)) ∧
  (∀ i op' op e f sh s, engineOp i = some (op, e) → i.form = .lane op' f sh → i.wf = true →
    f.m1.getLsbD 3 = false → readsWord op = true → s.holdsFields f sh = true →
    s.commandIllegal (commandFor s op f sh none) true none = false → taking s f &&& ~~~s.cur.helpers ≠ 0 →
    s.flagFull f.fs = false → s.queueCheck f sh = .go → s.popTrap f sh = 0 →
    (∀ r ∈ engineScalars op f, (s.cur.scalar r).poison = false) →
    (∀ l, l < 64 → (taking s f).getLsbD l = true → (s.sourceVal sh.vc f.vc.toNat l).poison = false) →
    let odd := maskOf (fun l => (taking s f).getLsbD l &&
      (s.sourceVal sh.vc f.vc.toNat l).bits.setWidth 32 != formatWord s f sh)
    odd ≠ 0 → exec i s = .next ((killing s 0).trap 0x03 odd i))

/-- R281, R282, R305 to R308: `oclm` claims a range of free slots, which then read zero, and gives true, or
claims nothing and gives false; `gnode` forms a node that waits for its predecessors; `gsig` signals a node;
`gflag` binds a flag to a node that is in use. -/
def Obligations.SlotsAndNodes : Prop :=
  (∀ f s, (Instr.oclm f).wf = true →
    let cmd := commandFor s 0x120 f (Shape.oclm f) none
    EngineReady s 0x120 f (Shape.oclm f) cmd none → (Tab.get [] s.cur.eq.cmds 0).length < 16 →
    let first := f.va.toNat
    let n := (f.imm.extractLsb' 6 8).toNat
    let owner (k : Nat) : Nat := Tab.get 0 s.curCore.mem.claims k
    let free (k : Nat) : Prop := (owner k = 0 ∨ owner k = s.cur.block + 1) ∧
      s.reservedSlot s.focus.core k = false
    ((∀ j, j < n → free (first + j)) → Gives (.oclm f) s (fun t => Queued s t 0 cmd ∧ Advanced s t 3 ∧
      t.cur.pred f.vd.toNat = (s.cur.pred f.vd.toNat ||| taking s f) ∧
      (∀ j, j < n → Tab.get 0 t.curCore.mem.claims (first + j) = s.cur.block + 1) ∧
      (∀ j b, j < n → b < 4352 → owner (first + j) = 0 →
        t.curCore.mem.slotByte (4352 * (first + j) + b) = 0) ∧
      (∀ k, (k < first ∨ first + n ≤ k) → Tab.get 0 t.curCore.mem.claims k = owner k))) ∧
    ((∃ j, j < n ∧ ¬free (first + j)) → Gives (.oclm f) s (fun t => Queued s t 0 cmd ∧ Advanced s t 3 ∧
      t.cur.pred f.vd.toNat = (s.cur.pred f.vd.toNat &&& ~~~taking s f) ∧ t.curCore.mem = s.curCore.mem))) ∧
  (∀ f s, (Instr.gnode f).wf = true → (s.cur.scalar f.va.toNat).poison = false →
    let d := (s.cur.scalar f.va.toNat).bits
    let id := (d.extractLsb' 0 9).toNat
    let cmd := commandFor s 0x140 f (Shape.graph f) (some id)
    EngineReady s 0x140 f (Shape.graph f) cmd (some d) → d.extractLsb' 16 8 ≠ 0 →
    Gives (.gnode f) s (fun t => Advanced s t 3 ∧
      (t.node s.focus.core s.cur.block id).state = .waiting ∧
      (t.node s.focus.core s.cur.block id).count = (d.extractLsb' 16 8).toNat ∧
      (t.node s.focus.core s.cur.block id).cmd = some (3, s.focus.fib, cmd))) ∧
  (∀ f s, (Instr.gsig f).wf = true →
    let id := ((s.cur.scalar f.va.toNat).bits.extractLsb' 0 9).toNat
    let cmd := commandFor s 0x141 f (Shape.graph f) none
    EngineReady s 0x141 f (Shape.graph f) cmd none → (Tab.get [] s.cur.eq.cmds 3).length < 16 →
    (s.node s.focus.core s.cur.block id).state = .waiting →
    1 < (s.node s.focus.core s.cur.block id).count →
    Gives (.gsig f) s (fun t => Queued s t 3 cmd ∧ Advanced s t 3 ∧
      (t.node s.focus.core s.cur.block id).state = .waiting ∧
      (t.node s.focus.core s.cur.block id).count + 1 = (s.node s.focus.core s.cur.block id).count)) ∧
  (∀ f s, (Instr.gflag f).wf = true → s.flagFor f.fs = none →
    let id := ((s.cur.scalar f.va.toNat).bits.extractLsb' 0 9).toNat
    let cmd := commandFor s 0x142 f (Shape.gflag f) none
    EngineReady s 0x142 f (Shape.gflag f) cmd none → (Tab.get [] s.cur.eq.cmds 3).length < 16 →
    let n := s.node s.focus.core s.cur.block id
    (n.state ≠ .free → Gives (.gflag f) s (fun t => Advanced s t 3 ∧
      t.cur.flag f.vd.toNat = s.cur.flag f.vd.toNat + 1 ∧
      (t.node s.focus.core s.cur.block id).bindings = n.bindings ++ [(s.focus.fib, f.vd.toNat)])) ∧
    (n.state = .free → Gives (.gflag f) s (fun t => Advanced s t 3 ∧
      t.cur.flag f.vd.toNat = s.cur.flag f.vd.toNat)))

/-- R310 to R316, R363: the ascent instructions of a fibre outside a pair: `asco` opens an ascent, or gives 0
where the quota is used up; `ascp` pushes an entry; `ascl` lands and `ascr` rips an open or grounded ascent;
`ascf` marks the running entry of a compensation as failed; `ascq` reports. -/
def Obligations.AscentInstructions : Prop :=
  ∀ (f : LaneFields) (s : State), s.isAlone s.focus.core s.focus.fib = true → s.flagFull f.fs = false →
    f.va.toNat < 64 → f.vd.toNat < 64 → f.vd ≠ 0 →
    (∀ k, k < 4 → (s.cur.scalar (f.va.toNat + k)).poison = false) →
    let a := (s.cur.scalar f.va.toNat).bits
    let word (k : Nat) : DWord := (s.cur.scalar (f.va.toNat + k)).bits
    let part := s.curBlock.part
    let used := (s.asc.table.filter (fun e => e.2.inUse && e.2.part == part)).length
    (∀ n, a.extractLsb' 57 7 = 0 → a.toNat % 4 = 0 → s.asc.next = some n → n < 4096 →
      (Tab.get Ascent.absent s.asc.table n).generation + 1 < 2 ^ 52 → used < (s.partition part).quota →
      Gives (.asco f) s (fun t => Advanced s t 3 ∧ ∃ id e, t.cur.scalar f.vd.toNat = ⟨id, false⟩ ∧ id ≠ 0 ∧
        t.asc.find id = some e ∧ e.stage = .opened ∧ e.handler = a ∧ e.stack = [] ∧ e.part = part ∧
        s.asc.find id = none)) ∧
    (a.extractLsb' 57 7 = 0 → a.toNat % 4 = 0 → (s.partition part).quota ≤ used →
      Gives (.asco f) s (fun t => Advanced s t 3 ∧ t.cur.scalar f.vd.toNat = ⟨0, false⟩ ∧ t.asc = s.asc)) ∧
    (∀ e, (word 1).toNat % 4 = 0 → s.asc.find a = some e → e.part = part → e.stage = .opened →
      s.asc.onDie (dieOf s.focus.core) < 2 ^ 20 →
      Gives (.ascp f) s (fun t => Advanced s t 3 ∧ t.cur.scalar f.vd.toNat = ⟨s.asc.nextSeq, false⟩ ∧
        t.asc.nextSeq = s.asc.nextSeq + 1 ∧ ∃ b, t.asc.find a = some { e with stack := b :: e.stack } ∧
          b.seq = s.asc.nextSeq ∧ b.fn = word 1 ∧ b.a0 = word 2 ∧ b.a1 = word 3)) ∧
    (∀ e, s.asc.find a = some e → e.part = part → (e.stage = .opened ∨ e.stage = .grounded) →
      (s.landHeld s.focus.core s.focus.fib a = false → Gives (.ascl f) s (fun t => Advanced s t 3 ∧
        t.cur.scalar f.vd.toNat = ⟨1, false⟩ ∧ ∃ e2, t.asc.find a = some e2 ∧ e2.stage = .landed ∧ e2.stack = [])) ∧
      Gives (.ascr f) s (fun t => Advanced s t 3 ∧ t.cur.scalar f.vd.toNat = ⟨1, false⟩ ∧
        ∃ e2, t.asc.find a = some e2 ∧
          (if e.stack = [] then e2.stage = .done else e2.stage = .ripping ∧ e2.stack = e.stack))) ∧
    ((∀ e, s.asc.find a = some e → e.part ≠ part) → s.landHeld s.focus.core s.focus.fib a = false →
      Gives (.ascl f) s (fun t => t.cur.scalar f.vd.toNat = ⟨0, false⟩ ∧ t.asc = s.asc) ∧
      Gives (.ascr f) s (fun t => t.cur.scalar f.vd.toNat = ⟨0, false⟩ ∧ t.asc = s.asc) ∧
      Gives (.ascq f) s (fun t => t.cur.scalar f.vd.toNat = ⟨7, false⟩ ∧ t.asc = s.asc)) ∧
    (∀ id q failed, s.curBlock.role = .compensation id q failed →
      Gives (.ascf f) s (fun t => Advanced s t 3 ∧
        t.curBlock.role = .compensation id q (some (a.extractLsb' 0 16)))) ∧
    ((∀ id q failed, s.curBlock.role ≠ .compensation id q failed) →
      exec (.ascf f) s = .next (s.trap 0x08 0 (.ascf f))) ∧
    (∀ e, s.asc.find a = some e → e.part = part →
      Gives (.ascq f) s (fun t => Advanced s t 3 ∧ t.asc = s.asc ∧ t.cur.scalar f.vd.toNat =
        ⟨BitVec.ofNat 64 (2 ^ 32 * e.stack.length + (match e.stage with
          | .opened => 0
          | .landed => 1
          | .ripping => 2
          | .grounded => 3
          | .done => 4)), false⟩))

namespace Sys2Proof.Spec
open Sys2Proof.Machine

/-! ### The machine -/

/-- A gang may issue the instruction of some parcels at its address (R33, R106, R110, R111): nothing of its
fibre waits to act, no breakpoint matches, and the parcels stand where their clause admits them. -/
structure Issues (z : State) (ps : List Word) (i : Instr) : Prop where
  may : z.mayIssue = true
  quiet : z.cur.scrollTrap = none
  breaks : z.curCore.regs.breakAt z.pc = none
  inside : z.leadQuad.inClause = true
  fetched : z.fetchAt z.focus.core z.curCtx z.pc = .parcels ps
  body : isHeader (ps.headD 0) = false
  decoded : decode ps = .instr i
  fits : z.leadQuad.within (nextPc z.leadQuad.pc ps.length) = true ∨
    nextPc z.leadQuad.pc ps.length = z.leadQuad.clauseEnd
  last : isTransfer i = true → nextPc z.leadQuad.pc ps.length = z.leadQuad.clauseEnd
  first : i = .regang → z.leadQuad.first = true
  tail : isTransfer i = false → ∀ q, q < 16 → z.focus.quads.getLsbD q = true → (z.cur.quad q).tail = false
  owed : z.awaits i = false
  residue : z.cur.residue = none

/-- A header is passed by one quad (R106, R107, R111). -/
def Entered (h : ClauseHeader) (y z : Quad) : Prop :=
  z.pc = y.pc + 4 ∧ z.inClause = true ∧ z.header = y.pc ∧
  z.clauseEnd = y.pc + BitVec.ofNat 57 (4 * (1 + h.len.toNat)) ∧ z.seta = h.seta ∧ z.setb = h.setb ∧
  z.first = true ∧ z.tail = false ∧ z.active = y.active ∧ z.stack = y.stack ∧
  (h.rgn = true → z.region = y.pc ∧ z.regionActive = y.active ∧ z.regionStack = y.stack) ∧
  (h.rgn = false → z.region = y.region)

/-- The `sys` functions: function, sD, sA, queue (R179, R180). -/
def sysCall : Instr → Option (Nat × BitVec 6 × BitVec 6 × Nat)
  | .sysLaunch f => some (0, f.sd, f.sa, 0)
  | .sysLaunchLong f => some (0, f.sd, f.sa, f.imm.toNat)
  | .sysLstat f => some (1, f.sd, f.sa, 0)
  | .sysLstatLong f => some (1, f.sd, f.sa, 0)
  | .sysAbort f => some (2, f.sd, f.sa, 0)
  | .sysAbortLong f => some (2, f.sd, f.sa, 0)
  | _ => none

/-- The state of a launch as `sys lstat` gives it (R179). -/
def lstatWord (l : Option Launch) : DWord :=
  match l with
  | none => 4
  | some l =>
    if l.stage = .queued then 0
    else if l.stage = .running then 1
    else
      let st := match l.ending with
        | some e => if e.endCode = 0 then 2 else 3
        | none => 2
      BitVec.ofNat 64 (st + 2 ^ 32 * (l.chki.toNat % 2 ^ 11))

/-- The registers of a core at reset (R376, R382, R445, R458). -/
def CoreAtReset (r : CoreRegs) : Prop :=
  r.corectl = 0 ∧ r.facterr = false ∧ r.evfull = false ∧ r.suspect = false ∧ r.evqbase = 0 ∧ r.evqtail = 0 ∧
  r.evqhead = 0 ∧ r.fxaddr = 0 ∧ r.fxbusy = false ∧ r.fxresult = 0 ∧ r.dbgctl = 0 ∧ r.engsel = 0 ∧
  r.peer = 0 ∧ r.role = 0 ∧ r.matched = 0 ∧ r.reruns = 0 ∧ r.ckpts = 0 ∧ r.inject = 0 ∧ r.injectMask = 0 ∧
  ∀ n, Tab.get 0 r.slotbind n = 0 ∧ Tab.get 0 r.ibka n = 0 ∧ Tab.get 0 r.dwa n = 0

end Sys2Proof.Spec

open Sys2Proof Sys2Proof.Machine Sys2Proof.Spec

/-- R105, R106, R112, R113: a step runs the device step that is scheduled, else the instruction of the gang that
issues next, decoded from the parcels at its address, after clearing the marks of a resumed or stepping
fibre; a clause header is run as the WAIT test. That a schedule picks the order is the model's choice, log
entry 1. -/
def Obligations.StepRunsDecoded : Prop :=
  (∀ (s : State) (i : Instr) (rest : List Instr), s.schedule = i :: rest →
    step s = exec i { s with schedule := rest }) ∧
  (∀ (s : State) (g : Focus) (rest : List Focus) (ps : List Word) (i : Instr),
    s.schedule = [] → s.granted = g :: rest →
    let z : State := { s with granted := rest, focus := g }
    Issues z ps i →
    step s = exec i (z.modCur (fun x =>
      { x with skipBreak := false, stepping := x.stepping &&& ~~~g.quads }))) ∧
  (∀ (s : State) (g : Focus) (rest : List Focus) (p : Word) (h : ClauseHeader),
    s.schedule = [] → s.granted = g :: rest →
    let z : State := { s with granted := rest, focus := g }
    z.mayIssue = true → z.cur.scrollTrap = none → z.leadQuad.inClause = false →
    z.fetchParcels z.focus.core z.curCtx z.pc 1 = .parcels [p] → decode [p] = .instr (.clauseWaitTest h) →
    (h.rgn = true ∨ ∀ q, q < 16 → g.quads.getLsbD q = true → (z.cur.quad q).mustRgn = false) →
    step s = exec (.clauseWaitTest h) z) ∧
  (∀ (s : State) (c : Nat) (asid : BitVec 16) (pc : VAddr) (l : Located) (n : Nat),
    s.translate c asid pc.toNat .fetch = .ok l → l.por = false → s.mem.anyPoison l.addr 4 = false →
    (∀ ps, s.fetchParcels c asid (pc + 4) n = .parcels ps →
      s.fetchParcels c asid pc (n + 1) = .parcels (BitVec.ofNat 32 (s.mem.num l.addr 4) :: ps)))

/-- R106 to R108, R111: a header whose WAIT flags are clear takes the gang into its clause, and starts a
region where RGN is set; with WAIT = 0 the gang issues again in the same cycle; a header whose flags are
busy stalls the gang. -/
def Obligations.HeadersWait : Prop :=
  ∀ (h : ClauseHeader) (s : State),
    ((∀ n, n < 12 → h.wait.getLsbD n = true → s.cur.flag n = 0) →
      (h.rgn = false ∨ s.isAlone s.focus.core s.focus.fib = true) →
      Gives (.clauseWaitTest h) s (fun t =>
        (∀ q, q < 16 → s.focus.quads.getLsbD q = true → Entered h (s.cur.quad q) (t.cur.quad q)) ∧
        (∀ q, q < 16 → s.focus.quads.getLsbD q = false → t.cur.quad q = s.cur.quad q) ∧
        t.granted = (if h.wait = 0 then s.focus :: s.granted else s.granted) ∧ SameRegs s t [] ∧
        SameOutside s t)) ∧
    (∀ n, n < 12 → h.wait.getLsbD n = true → s.cur.flag n ≠ 0 →
      exec (.clauseWaitTest h) s = .next (s.wait .stall))

/-- R105, R107, R113, R120, R122, R124, R125: words written out from the encoding tables, and what they
decode to. -/
def Obligations.DecodeWords : Prop :=
  decode [0x000C4141] = .instr (.sadd ⟨3, 4, 5, 1⟩) ∧
  decode [0x12180FFD] = .instr (.sli ⟨6, 0, 0xFFD⟩) ∧
  decode [0xC00C4005, 0x00010000] = .instr (.saddLong ⟨3, 4, 5, 0x10000⟩) ∧
  decode [0x80043E03] = .instr (.clauseWaitTest ⟨1, 0, 15, true, 3⟩) ∧
  decode [0x23000000] = .instr .exit ∧
  decode [0x40001808, 0x10002200, 0] = .instr (.add ⟨false, false, 3, 1, 2, 0, 0, false, 17, false,
    false, false, 0, 0, 0⟩) ∧
  decode [0x80043F03] = .illegal ∧ decode [0x4C180000, 0, 0] = .extension ∧ decode [0x40001808] = .short

/-- R310, R376, R382, R399, R419, R445, R452, R458, R465, R469: what reset leaves. Registers stand at the
reset values of their tables, the compute dies are held in reset, no measurement is listed, memory lists
nothing. (That `TIME` reads 0 and what a byte of memory reads are the model's choices, log entries 6 and 4.) -/
def Obligations.ResetState : Prop :=
  (∀ c, CoreAtReset (State.reset.core c).regs ∧ (State.reset.core c).scan = ⟨0, false, 0⟩) ∧
  (∀ d, (State.reset.die d).ctxbase = 0 ∧ (State.reset.die d).invva = 0 ∧ (State.reset.die d).invcmd = 12 ∧
    (State.reset.die d).audbase = 0 ∧ (State.reset.die d).audsize = 0 ∧ (State.reset.die d).mismatch = 0 ∧
    (State.reset.die d).sampled = 0 ∧ (State.reset.die d).powered = false) ∧
  (∀ k, (State.reset.cluster k).refill = 0 ∧ (State.reset.cluster k).pacap = 0 ∧
    (State.reset.cluster k).pacnt = (State.reset.cluster k).pacap ∧ (State.reset.cluster k).step = 1 ∧
    (State.reset.cluster k).thi = 0 ∧ (State.reset.cluster k).wheld = 0) ∧
  (∀ n, (State.reset.link n).en = false ∧ (State.reset.link n).wreq = 0 ∧ (State.reset.link n).role = 0 ∧
    (State.reset.link n).state = 0 ∧ (State.reset.link n).width = 0 ∧ (State.reset.link n).peer = 0 ∧
    (State.reset.link n).replays = 0 ∧ (State.reset.link n).crcerr = 0) ∧
  State.reset.rot.phase = .off ∧ State.reset.rot.measured = [] ∧ State.reset.asc.nextSeq = 1 ∧
  State.reset.trans.inv = none ∧ State.reset.mem.wf = true ∧ State.reset.mem.cells = [] ∧ State.reset.granted = []

/-- R105, R107, R113, R120: every instruction of a program decodes from the parcels that `encode` writes,
with every operand; and the parcels that decode to an instruction are those that `encode` writes for it. -/
def Obligations.EncodeDecode : Prop :=
  (∀ i : Instr, i.wf = true → encode i ≠ [] → decode (encode i) = .instr i) ∧
  (∀ (p : Word) (ps : List Word) (i : Instr), decode (p :: ps) = .instr i →
    i.wf = true ∧ encode i = (p :: ps).take (parcelCount p))

/-- Every step goes on: no instruction of a program and no device step stops the machine, but for an access
that a hart or another device makes to an address of its own choice (R412, R462, R466). That a step which is
not due changes nothing is the model's choice, log entry 13. -/
def Obligations.EveryStepAnswers : Prop :=
  ∀ s : State, (∀ i rest, s.schedule = i :: rest →
      (∀ hart access, i ≠ .applicationCoreAccess hart access) ∧ (∀ port flit, i ≠ .tetherFlitDelivery port flit)) →
    ∃ t, step s = .next t

/-- R9, R241: the memory keeps its canonical form in every step, whichever instruction or device step it runs.
The form is the model's choice, and so is the 0 that an unwritten byte reads, log entry 4. -/
def Obligations.MemoryStaysCanonical : Prop :=
  ∀ s t : State, s.mem.wf = true → step s = .next t → t.mem.wf = true

/-- R179, R180, R389: `sys launch` of a fibre outside a pair submits the parameter block at an aligned
address: the queue takes it, or it is full, or the block is rejected, or the address has been submitted
already. `sys lstat` gives the state of a launch; `sys abort` of an ordinary block ends its launch with
END 1 and every fibre of it. -/
def Obligations.SystemCalls : Prop :=
  ∀ i op sd sa q s, sysCall i = some (op, sd, sa, q) → (s.cur.scalar sa.toNat).poison = false →
    s.isAlone s.focus.core s.focus.fib = true →
    let a := (s.cur.scalar sa.toNat).bits
    let part := s.curBlock.part
    let ctx := s.ctxOf s.focus.core s.cur.block
    let addr := (s.walkAddr ctx a.toNat .load).getD 0
    let params := s.paramsAt ctx a.toNat
    let answers (P : State → Prop) (v : DWord) : Prop :=
      Gives i s (fun t => P t ∧ Advanced s t i.parcels ∧ t.mem = s.mem ∧ (sd ≠ 0 → t.cur.scalar sd.toNat = ⟨v, false⟩))
    (op = 0 →
      (a.extractLsb' 57 7 ≠ 0 → exec i s = .next (s.trap 0x08 0 i)) ∧
      (a.extractLsb' 57 7 = 0 → a.toNat % 64 ≠ 0 → exec i s = .next (s.trap 0x07 0 i)) ∧
      (∀ ps, a.extractLsb' 57 7 = 0 → a.toNat % 64 = 0 → s.range s.focus.core ctx .load a.toNat 128 = .ok ps →
        (∀ lid, s.submitted part addr = some lid →
          answers (fun t => t.launches = s.launches) (BitVec.ofNat 64 (2 ^ 63 + lid.toNat))) ∧
        (s.submitted part addr = none →
          (32 ≤ ((s.partition part).queue q).ids.length → answers (fun t => t.launches = s.launches) 0) ∧
          (((s.partition part).queue q).ids.length < 32 →
            (∀ code, s.rejection part ctx params false = some code →
              answers (fun t => t.launches = s.launches) (BitVec.ofNat 64 (2 ^ 62 + code))) ∧
            (s.rejection part ctx params false = none →
              let lid : BitVec 32 := BitVec.ofNat 32 (q % 64 * 2 ^ 26 + nextCount ((s.partition part).queue q).count)
              answers (fun t => (∃ l, t.launches = l :: s.launches ∧ l.lid = lid ∧ l.part = part ∧ l.queue = q ∧
                  l.stage = .queued ∧ l.params = params ∧ l.address = BitVec.ofNat 64 addr ∧ l.level1 = false) ∧
                ((t.partition part).queue q).ids = ((s.partition part).queue q).ids ++ [lid])
                (BitVec.ofNat 64 (2 ^ 63 + lid.toNat))))))) ∧
    (op = 1 → answers (fun t => t.launches = s.launches)
      (lstatWord (if a.extractLsb' 32 32 = 0 then s.launch? part (a.setWidth 32) else none))) ∧
    (op = 2 → s.curBlock.role = .ordinary →
      ∀ l, s.launch? part s.curBlock.lid = some l → l.ending = none → l.stage = .running →
        Gives i s (fun t => t.mem = s.mem ∧
          (∃ l2 e, t.launch? part s.curBlock.lid = some l2 ∧ l2.ending = some e ∧ e.endCode = 1 ∧
            e.abcode = a.setWidth 16) ∧
          ∀ c f, (s.block c (s.fibre c f).block).stage ≠ .empty →
            (s.block c (s.fibre c f).block).ofLaunch part s.curBlock.lid = true →
            (t.fibre c f).run = .exited))

/-- R192 to R194, R374: the image instructions raise 0x08 outside level 1. At level 1, on an aligned address
and with no command of the core on the tile or slot, a save writes its words or bytes to memory, and nothing
else; a restore gives the tile or the slot what memory holds. R64, R300: `cbld` of a fibre outside a pair
loads a codebook with the 32 bytes at an aligned address, entry x from bytes 2x and 2x + 1, and leaves every
other codebook as it was. -/
def Obligations.CoreImages : Prop :=
  (∀ i s x, imageAccess i = some x → (s.cur.scalar x.sa.toNat).poison = false →
     let addr := (s.cur.scalar x.sa.toNat).bits + x.off
     let c := s.focus.core
     let n := if x.tile then 16384 else 4352
     (s.level1 = false → exec i s = .next (s.trap 0x08 0 i)) ∧
     (s.level1 = true → (x.tile = true → s.curBlock.acc = true) →
       (addr.extractLsb' 57 7 ≠ 0 → exec i s = .next (s.trap 0x08 0 i)) ∧
       (addr.extractLsb' 57 7 = 0 → addr.toNat % 256 ≠ 0 → exec i s = .next (s.trap 0x07 0 i)) ∧
       (addr.extractLsb' 57 7 = 0 → addr.toNat % 256 = 0 → s.flagFull false = false → imageBusy s x = false →
         s.isAlone c s.focus.fib = true →
         (∀ ps p, x.save = true → s.range c (s.ctxOf c s.cur.block) .store addr.toNat n = .ok ps →
           Contiguous ps p n →
           Gives i s (fun t => t.cur.regs = s.cur.regs ∧ Advanced s t i.parcels ∧
             (∀ a, a < p ∨ p + n ≤ a → t.mem.byte a = s.mem.byte a) ∧
             (x.tile = true → ∀ e, e < 4096 → t.mem.num (p + 4 * e) 4 = (s.curCore.mem.tile x.index e).bits.toNat) ∧
             (x.tile = false → ∀ k, k < 4352 → t.mem.byte (p + k) = s.curCore.mem.slotByte (4352 * x.index + k)))) ∧
         (∀ ps p, x.save = false → s.range c (s.ctxOf c s.cur.block) .load addr.toNat n = .ok ps →
           Contiguous ps p n →
           Gives i s (fun t => t.cur.regs = s.cur.regs ∧ Advanced s t i.parcels ∧ t.mem = s.mem ∧
             (x.tile = true → ∀ e, e < 4096 →
               (t.curCore.mem.tile x.index e).bits.toNat = s.mem.num (p + 4 * e) 4) ∧
             (x.tile = false → ∀ k, k < 4352 →
               t.curCore.mem.slotByte (4352 * x.index + k) = s.mem.byte (p + k))))))) ∧
  (∀ (f : LaneFields) (s : State), f.va.toNat < 64 → (s.cur.scalar f.va.toNat).poison = false →
     s.isAlone s.focus.core s.focus.fib = true →
     let a := (s.cur.scalar f.va.toNat).bits
     let cb := f.imm.toNat % 16
     let entry (t : State) (n : Nat) : BitVec 16 := Tab.get 0 t.curCore.mem.codebooks n
     (a.extractLsb' 57 7 ≠ 0 → exec (.cbld f) s = .next (s.trap 0x08 0 (.cbld f))) ∧
     (a.extractLsb' 57 7 = 0 → a.toNat % 32 ≠ 0 → exec (.cbld f) s = .next (s.trap 0x07 0 (.cbld f))) ∧
     (∀ l, a.extractLsb' 57 7 = 0 → a.toNat % 32 = 0 →
       s.translate s.focus.core (s.ctxOf s.focus.core s.cur.block) a.toNat .load = .ok l → l.por = false →
       s.mem.anyPoison l.addr 32 = false →
       Gives (.cbld f) s (fun t => Advanced s t 3 ∧ t.cur.regs = s.cur.regs ∧ t.mem = s.mem ∧
         (∀ x, x < 16 → (entry t (16 * cb + x)).toNat = s.mem.num (l.addr + 2 * x) 2) ∧
         (∀ n, (n < 16 * cb ∨ 16 * cb + 16 ≤ n) → entry t n = entry s n))))

namespace Sys2Proof.Spec
open Sys2Proof.Machine

/-! ### Engines -/

/-- What the end of a command finds: a resident fibre outside a pair, room for a record, no node. -/
structure Closes (s : State) (c f e : Nat) (cmd : Command) : Prop where
  alone : s.isAlone c f = true
  resident : (s.fibre c f).resident = true
  room : (Tab.get [] (s.fibre c f).eq.recs e).length < 16
  inOrder : Tab.get [] (s.fibre c f).eq.held e = []
  node : cmd.node = none

/-- A command has ended with a status (R276, R277): it no longer counts as outstanding, its flag counts one
less, and its record, where it is asked for or the status says more than complete or cancelled, stands last
in its queue. -/
def Closed (s t : State) (c f e : Nat) (cmd : Command) (status detail : Nat) : Prop :=
  Tab.get 0 (t.fibre c f).eq.outstanding e = Tab.get 0 (s.fibre c f).eq.outstanding e - 1 ∧
  (∀ n, cmd.flag = some n → (t.fibre c f).flag n = (s.fibre c f).flag n - 1) ∧
  Tab.get [] (t.fibre c f).eq.recs e = Tab.get [] (s.fibre c f).eq.recs e ++
    (if cmd.imm.testBit 18 ∨ (status ≠ 0 ∧ status ≠ 6) then
      [BitVec.ofNat 64 (2 ^ 60 * e + 2 ^ 56 * status + 2 ^ 32 * (cmd.cseq % 65536) + detail % 2 ^ 32)] else [])

/-- The front command of a queue is the given one. -/
def Front (s : State) (c f e : Nat) (cmd : Command) : Prop :=
  s.engineRuns c f = true ∧ ∃ rest, Tab.get [] (s.fibre c f).eq.cmds e = cmd :: rest

/-- The queue without its front command. -/
def Taken (s t : State) (c f e : Nat) : Prop :=
  Tab.get [] (t.fibre c f).eq.cmds e = (Tab.get [] (s.fibre c f).eq.cmds e).drop 1

/-- A command of the matrix engine that may end now, and nothing special about it. -/
def MayEnd (s : State) (c f : Nat) (op : Nat) (a : Accepted) : Prop :=
  (s.core c).eng.readyMatrix f (fun d => d.op == op) = some a ∧ a.cmd.op = op ∧ a.fib = f ∧
  s.engineHeld c f = false ∧ Closes s c f 0 a.cmd

/-- The accepted commands without one. -/
def Without (l : List Accepted) (a : Accepted) : List Accepted := l.filter (fun b => b.seq != a.seq)

/-- The sum of products of two rows of signed bytes. -/
def dotBytes (a b : Nat → BitVec 8) (n : Nat) : Int :=
  ((List.range n).map (fun k => (a k).toInt * (b k).toInt)).sum

/-- The value that a word of a scroll row takes from its source, where no earlier row has overwritten it
(R137, R139, R140). -/
def sourceWord (s : State) (l : Launch) (z : Nat) : ScrollSource → Option PW
  | .fill w => some ⟨w, false⟩
  | .at x y =>
    match s.scrollCell l x y with
    | .cell c j p => some ((s.core c).cell j (p + z))
    | .hole => some PW.zero
    | _ => none

end Sys2Proof.Spec

open Sys2Proof Sys2Proof.Machine Sys2Proof.Spec

/-- R274, R277, R281, R283, R288, R289, R293, R306: what acceptance does with the front command of a fibre's
queue: `mma`, `drain` and `wgath` join the matrix engine's commands, a copy those of the copy engine, a `wpool`
waits as the fibre's pooling command; `azero` and `ald` write a tile that nothing works on, `orel` releases
slots that nothing uses, and they and the commands that acted at issue end. -/
def Obligations.EngineAcceptance : Prop :=
  ∀ (c f e : Nat) (cmd : Command) (s : State), Front s c f e cmd →
    let mine (j : Nat) : Prop := Tab.get 0 (s.core c).mem.claims j = (s.fibre c f).block + 1
    (e = 0 → (cmd.op = 0x122 ∨ cmd.op = 0x124 ∨ cmd.op = 0x138) →
      (cmd.op = 0x122 → s.samples c f cmd = false) →
      Gives (.engineAccept c f e) s (fun t => Taken s t c f 0 ∧
        ∃ a, (t.core c).eng.matrix = (s.core c).eng.matrix ++ [a] ∧ a.cmd = cmd ∧ a.fib = f ∧
          a.sampled = false ∧ a.seq = (s.core c).eng.nextSeq ∧
          (a.held = true ↔ cmd.op = 0x122 ∧ (emulated (fwAf cmd.word) = true ∨ emulated (fwBf cmd.word) = true)))) ∧
    (e = 1 → Gives (.engineAccept c f e) s (fun t => Taken s t c f 1 ∧
      ∃ a, (t.core c).eng.copies = (s.core c).eng.copies ++ [a] ∧ a.cmd = cmd ∧ a.fib = f ∧
        a.seq = (s.core c).eng.nextSeq)) ∧
    (e = 2 → cmd.op = 0x139 → Tab.get none (s.core c).eng.pools f = none →
      Tab.get none (s.core c).eng.scrolls f = none →
      Gives (.engineAccept c f e) s (fun t => Taken s t c f 2 ∧
        ∃ a, Tab.get none (t.core c).eng.pools f = some a ∧ a.cmd = cmd ∧ a.fib = f)) ∧
    (Closes s c f e cmd →
      (e = 0 → cmd.op = 0x120 → Gives (.engineAccept c f e) s (fun t => Taken s t c f 0 ∧ Closed s t c f 0 cmd 0 0)) ∧
      (e = 0 → cmd.op = 0x121 → Gives (.engineAccept c f e) s (fun t => Taken s t c f 0 ∧ Closed s t c f 0 cmd 0 0 ∧
        ∀ j, cmd.va ≤ j → j < cmd.va + cmd.imm / 64 % 256 → mine j → (s.core c).eng.uses j = false →
          Tab.get 0 (t.core c).mem.claims j = 0 ∧ ∀ b, b < 4352 → (t.core c).mem.slotByte (4352 * j + b) = 0)) ∧
      (e = 0 → cmd.op = 0x123 → (s.core c).tilesFree [cmd.vd] = true →
        Gives (.engineAccept c f e) s (fun t => Taken s t c f 0 ∧ Closed s t c f 0 cmd 0 0 ∧
          (t.core c).mem.marks.getLsbD cmd.vd = false ∧
          (∀ n, n < 4096 → (t.core c).mem.tile cmd.vd n = PW.zero) ∧
          (∀ d n, d ≠ cmd.vd → n < 4096 → (t.core c).mem.tile d n = (s.core c).mem.tile d n))) ∧
      (e = 0 → cmd.op = 0x125 → (s.core c).tilesFree [cmd.vd] = true → s.engineHeld c f = false → cmd.vd < 18 →
        ∀ l : Nat → Located,
        let r := s.recordOf c f (bitsAt cmd.imm 6 6)
        let a := recBase r + bitsAt (cmd.desc.getD 0 0).toNat 0 32
        a % 4 = 0 → (∀ n, n < 4096 →
          s.translate c (s.ctxOf c (s.fibre c f).block) (a + 4 * n) .load = .ok (l n) ∧ (l n).por = false) →
        Gives (.engineAccept c f e) s (fun t => Taken s t c f 0 ∧ Closed s t c f 0 cmd 0 0 ∧ t.mem = s.mem ∧
          ((t.core c).mem.marks.getLsbD cmd.vd = cmd.imm.testBit 12) ∧
          ∀ n, n < 4096 → (t.core c).mem.tile cmd.vd n =
            ⟨BitVec.ofNat 32 (s.mem.num (l n).addr 4), s.mem.anyPoison (l n).addr 4⟩)) ∧
      (e = 3 → Gives (.engineAccept c f e) s (fun t => Taken s t c f 3 ∧
        Closed s t c f 3 cmd 0 ((cmd.desc.getD 0 0).extractLsb' 0 9).toNat)))

/-- R71 to R73, R286, R291, R295 to R298, R303, R304: the matrix, copy and pooling engines complete. An `mma`
replaces its accumulator by its product; a dense product of signed bytes adds 64 products in each entry,
modulo 2^32. A `wgath` of bytes writes its window lines to its slot. An unscaled drain of integers writes the
entries of its tile to the plane. A copy moves its bytes between a slot and a handle's memory, or ends with
the status of its checks. A `wpool` writes its output cells. A held record enters its queue. -/
def Obligations.EngineCompletions : Prop :=
  (∀ c f s a, MayEnd s c f 0x122 a → a.sampled = false → a.alter = none → a.cmd.uncovered = false →
    (fwAf a.cmd.word = 3 → fwCf a.cmd.word = 3) →
    Gives (.mmaComplete c f) s (fun t => Closed s t c f 0 a.cmd 0 0 ∧
      (t.core c).eng.matrix = Without (s.core c).eng.matrix a ∧ t.mem = s.mem ∧
      (t.core c).mem.accumulator a.cmd.tiles = (s.core c).mem.product a.cmd s.fresh ∧
      (∀ d n, d ∉ a.cmd.tiles → n < 4096 → (t.core c).mem.tile d n = (s.core c).mem.tile d n))) ∧
  (∀ (m : CoreMem) (cmd : Command) (n x y : Nat), cmd.op = 0x122 → fwAf cmd.word = 9 → fwBf cmd.word = 9 →
    fwCf cmd.word = 17 → fwSp cmd.word = false → fwTra cmd.word = false → fwTrb cmd.word = false →
    x < 64 → y < 64 →
    let a (k : Nat) : BitVec 8 := m.slotByte (4352 * cmd.va + 64 * x + k)
    let b (k : Nat) : BitVec 8 := m.slotByte (4352 * cmd.vb + 64 * y + k)
    let bad (base k : Nat) : Bool := Tab.get false m.slotPoison ((base + k) / 32)
    let old := m.tile cmd.vd (64 * x + y)
    (m.product cmd n).getD (64 * x + y) PX.zero =
      ⟨(BitVec.ofInt 32 (old.bits.toInt + dotBytes a b 64)).setWidth 64,
       old.poison || (List.range 64).any (bad (4352 * cmd.va + 64 * x)) ||
         (List.range 64).any (bad (4352 * cmd.vb + 64 * y))⟩) ∧
  (∀ c f s a l, MayEnd s c f 0x138 a → s.launchOf c (s.fibre c f).block = some l →
    s.winAway l c ((List.range 64).filterMap (gatherRead a.cmd)) = false → fwAf a.cmd.word = 9 →
    0 < (winX a.cmd.desc).out → 0 < (winY a.cmd.desc).out →
    (∀ m r, m < 64 → gatherRead a.cmd m = some r →
      (s.winElem l c 9 (descFld a.cmd.desc 3 0 12) 0 r).cross = false) →
    Gives (.wgathComplete c f) s (fun t => Closed s t c f 0 a.cmd 0 0 ∧
      (t.core c).eng.matrix = Without (s.core c).eng.matrix a ∧
      ((s.core c).mem.releasing = [] → ∀ m k, m < 64 → k < 64 →
        (t.core c).mem.slotByte (4352 * a.cmd.vd + 64 * m + k) =
          (match gatherRead a.cmd m with
           | none => 0
           | some r => BitVec.ofNat 8 (s.winElem l c 9 (descFld a.cmd.desc 3 0 12) k r).code)))) ∧
  (∀ c f s a, MayEnd s c f 0x124 a → a.undefinedRead = false → a.cmd.m1 = 1 → a.cmd.imm.testBit 12 = false →
    fwCf a.cmd.word = 17 → fwDf a.cmd.word = 17 → (s.core c).holes = 0 →
    (s.core c).mem.marks.getLsbD a.cmd.va = false →
    let d := (s.block c (s.fibre c f).block).pdepth + bitsAt (a.cmd.desc.getD 0 0).toNat 0 12
    d + 64 ≤ 4096 →
    (∀ n, n < 4096 → ((s.core c).mem.tile a.cmd.va n).poison = false) →
    Gives (.drainComplete c f) s (fun t => Closed s t c f 0 a.cmd 0 0 ∧
      (t.core c).eng.matrix = Without (s.core c).eng.matrix a ∧
      ∀ l e, l < 64 → e < 4096 → (t.core c).cell l e =
        if d ≤ e ∧ e < d + 64 then (s.core c).mem.tile a.cmd.va (64 * l + (e - d)) else (s.core c).cell l e)) ∧
  (∀ c f n' s a, (s.core c).eng.copies.find? (fun b => b.fib == f && b.cmd.cseq == n') = some a →
    s.engineHeld c f = false → a.fib = f → Closes s c f 1 a.cmd → a.cmd.op = 0x128 →
    (s.core c).eng.matrix.any (fun b => decide (b.seq < a.seq) && b.cmd.op == 0x122 &&
      meets a.cmd.writes b.cmd.reads) = false →
    let cmd := a.cmd
    let r := s.recordOf c f (bitsAt cmd.imm 6 6)
    let h := s.copyHandle c f r
    let n := cmd.cpyNr * cmd.cpyRb
    let local' (i o : Nat) : Nat := 4352 * cmd.vd + bitsAt (cmd.desc.getD 2 0).toNat 0 13 + i * cmd.cpyRb + o
    let remote (i o : Nat) : Nat := s.handleAddr h (byteOffset r (cmd.cpyGofs + i * cmd.cpyGstride + o))
    (s.copyStatus c f cmd r ≠ 0 → s.copyStatus c f cmd r < 16 →
      Gives (.copyComplete c f n') s (fun t => Closed s t c f 1 cmd (s.copyStatus c f cmd r) 0 ∧
        t.mem = s.mem ∧ (t.core c).eng.copies = Without (s.core c).eng.copies a)) ∧
    (s.copyStatus c f cmd r = 0 → cmd.kind = 2 → cmd.outward = false → (s.core c).mem.releasing = [] →
      Gives (.copyComplete c f n') s (fun t => Closed s t c f 1 cmd 0 n ∧ t.mem = s.mem ∧
        (t.core c).eng.copies = Without (s.core c).eng.copies a ∧
        (∀ i o, i < cmd.cpyNr → o < cmd.cpyRb →
          (t.core c).mem.slotByte (local' i o) = s.mem.byte (remote i o)) ∧
        (∀ x, (x < local' 0 0 ∨ local' 0 0 + n ≤ x) → (t.core c).mem.slotByte x = (s.core c).mem.slotByte x))) ∧
    (s.copyStatus c f cmd r = 0 → cmd.kind = 2 → cmd.outward = true →
      (∀ i o i' o', i < cmd.cpyNr → o < cmd.cpyRb → i' < cmd.cpyNr → o' < cmd.cpyRb →
        remote i o = remote i' o' → i = i' ∧ o = o') →
      Gives (.copyComplete c f n') s (fun t => Closed s t c f 1 cmd 0 n ∧
        (t.core c).eng.copies = Without (s.core c).eng.copies a ∧
        (∀ i o, i < cmd.cpyNr → o < cmd.cpyRb →
          t.mem.byte (remote i o) = (s.core c).mem.slotByte (local' i o)) ∧
        (∀ x, (∀ i o, i < cmd.cpyNr → o < cmd.cpyRb → remote i o ≠ x) → t.mem.byte x = s.mem.byte x)))) ∧
  (∀ c f s a l p reads k j d0, Tab.get none (s.core c).eng.pools f = some a → a.fib = f →
    s.launchOf c (s.fibre c f).block = some l →
    s.engineRuns c f = true → Closes s c f 2 a.cmd →
    let outs := poolOutputs a.cmd
    let fmt := descFld a.cmd.desc 3 16 5
    let nc := descFld a.cmd.desc 3 21 11 + 1
    let d := d0 + descFld a.cmd.desc 1 32 12
    0 < (winX a.cmd.desc).out → 0 < (winY a.cmd.desc).out →
    s.winAway l c (outs.flatMap (fun o => o.2)) = false → outs.any (fun o => s.poolAway l o.1.1 o.1.2) = false →
    (p, reads) ∈ outs → s.poolTarget l p.1 p.2 = some (k, j, d0) →
    (∀ o ∈ outs, ∀ e, s.poolTarget l o.1.1 o.1.2 = some e →
      e.2.2 + descFld a.cmd.desc 1 32 12 + channelWords fmt nc ≤ 4096 ∧
      (o.1 ≠ p → (e.1, e.2.1) ≠ (k, j))) →
    (∀ o ∈ outs, (WinRead.image p.1 p.2) ∉ o.2) →
    Gives (.wpoolComplete c f) s (fun t => Tab.get none (t.core c).eng.pools f = none ∧
      Tab.get 0 (t.fibre c f).eq.outstanding 2 = Tab.get 0 (s.fibre c f).eq.outstanding 2 - 1 ∧
      ∀ w, w < channelWords fmt nc → (t.core k).cell j (d + w) =
        poolWord (codeWidth fmt) nc w ((s.core k).cell j (d + w))
          ((List.range nc).map (s.poolElem l c a.cmd reads)))) ∧
  (∀ c f e s r flag rest, Tab.get [] (s.fibre c f).eq.held e = (r, flag) :: rest →
    (Tab.get [] (s.fibre c f).eq.recs e).length < 16 → s.isAlone c f = true →
    Gives (.completionRecordEnqueue c f e) s (fun t =>
      Tab.get [] (t.fibre c f).eq.recs e = Tab.get [] (s.fibre c f).eq.recs e ++ [r] ∧
      Tab.get [] (t.fibre c f).eq.held e = rest ∧
      Tab.get 0 (t.fibre c f).eq.outstanding e = Tab.get 0 (s.fibre c f).eq.outstanding e - 1 ∧
      (∀ n, flag = some n → (t.fibre c f).flag n = (s.fibre c f).flag n - 1)))

/-- R136, R137, R139 to R146, R368, R369, R468: a scroll. Acceptance compares the ticket with `SPROG`, starts
at the first row that has not completed, and ends a bad descriptor with status 4; the spill header is read
once; a row writes all its words and counts itself in `SPROG`, a strict hole or a full spill buffer stops it;
the end status clears the flag, and a fault of a fibre that cannot stop at once leaves its trap pending and
its later scrolls cancelled; firmware cancels with status 6. -/
def Obligations.ScrollEvents : Prop :=
  (∀ c f s cmd l, Front s c f 2 cmd → s.launchOf c (s.fibre c f).block = some l → cmd.op = 0x130 →
    Tab.get none (s.core c).eng.pools f = none → Tab.get none (s.core c).eng.scrolls f = none →
    let d := cmd.scroll
    let prog := (s.fibre c f).sys.sprog
    let same : Prop := prog.extractLsb' 32 32 = d.ticket
    let first : Nat := if prog.extractLsb' 32 32 = d.ticket then (prog.extractLsb' 0 16).toNat else 0
    let begun (t : State) (st : Option Nat) : Prop := Taken s t c f 2 ∧
      (∃ r, t.scrollRun c f = some r ∧ r.cmd = cmd ∧ r.row = first ∧ r.status = st) ∧
      (same → (t.fibre c f).sys.sprog = prog) ∧
      (¬same → (t.fibre c f).sys.sprog = d.ticket ++ (0 : BitVec 32))
    (d.bad (s.planeW l) (s.planeH l) l.depth = true → Gives (.scrollAccept c f) s (fun t => begun t (some 4))) ∧
    (d.bad (s.planeW l) (s.planeH l) l.depth = false → d.spill = false → d.carryTooLarge = true →
      Gives (.scrollAccept c f) s (fun t => begun t (some 5))) ∧
    (d.bad (s.planeW l) (s.planeH l) l.depth = false → d.spill = false → d.carryTooLarge = false → first < d.h →
      Gives (.scrollAccept c f) s (fun t => begun t none))) ∧
  (∀ c f s r, s.scrollRun c f = some r → r.status = none → r.nrec = none →
    Gives (.spillHeaderRead c f) s (fun t => t.mem = s.mem ∧
      t.scrollRun c f = some { r with nrec := some (s.mem.num (runAddr r.spill 0) 4) })) ∧
  (∀ c f s r l nrec, s.scrollRun c f = some r → s.launchOf c (s.fibre c f).block = some l → r.nrec = some nrec →
    r.status = none → s.engineRuns c f = true →
    let d := r.cmd.scroll
    let ends (st : Nat) : Prop :=
      Gives (.scrollRow c f) s (fun t => t.mem = s.mem ∧ t.scrollRun c f = some { r with status := some st } ∧
        (t.fibre c f) = (s.fibre c f))
    (s.rowItems l d r.row = none → ends 2) ∧
    (∀ items, s.rowItems l d r.row = some items → items.any (s.itemAway l) = false →
      let recs := (items.filter RowItem.isRecord).length
      (d.spill = true → r.capacity < nrec + recs → ends 1) ∧
      ((d.spill = false ∨ nrec + recs ≤ r.capacity) →
        Gives (.scrollRow c f) s (fun t =>
          (t.fibre c f).sys.sprog = BitVec.ofNat 64 (d.ticket.toNat * 2 ^ 32 + (r.row + 1)) ∧
          (∃ q, t.scrollRun c f = some q ∧ q.row = r.row + 1 ∧ q.nrec = some (nrec + recs) ∧
            q.status = if d.h ≤ r.row + 1 then some 0 else none) ∧
          (∀ i x y k j p v, i ∈ items → i.fate = .write x y → s.scrollCell l x y = .cell k j p →
            (∀ i' x' y' j' p', i' ∈ items → i' ≠ i → i'.fate = .write x' y' →
              s.scrollCell l x' y' = .cell k j' p' → 4096 * j' + (p' + i'.depth) ≠ 4096 * j + (p + i.depth)) →
            (∀ x' y', i.src = .at x' y' → d.move = true ∨ r.row ≤ d.rowIndex y') →
            sourceWord s l i.depth i.src = some v → (t.core k).cell j (p + i.depth) = v))))) ∧
  (∀ c f s r st, s.scrollRun c f = some r → r.status = some st → r.dirty = false → Closes s c f 2 r.cmd →
    (st = 0 ∨ st = 6 → Gives (.endStatusDelivery c f) s (fun t => t.scrollRun c f = none ∧
      Closed s t c f 2 r.cmd st r.holes ∧ (t.fibre c f).run = (s.fibre c f).run ∧
      (t.fibre c f).sys.chki = (s.fibre c f).sys.chki ||| (if r.holeSeen then 0x200 else 0))) ∧
    (1 ≤ st → st ≤ 5 → (s.fibre c f).awakeQuads = [] →
      Gives (.endStatusDelivery c f) s (fun t => t.scrollRun c f = none ∧
        (t.fibre c f).scrollTrap = some ⟨r.cmd.pc⟩ ∧ Tab.get [] (t.fibre c f).eq.cmds 2 = []))) ∧
  (∀ c f s r, s.scrollRun c f = some r → r.status = none →
    Gives (.torusScrollCancel c f) s (fun t => t.scrollRun c f = some { r with status := some 6 }))

namespace Sys2Proof.Spec
open Sys2Proof.Machine

/-! ### Issue, firmware's actions on fibres, registers of a core -/

/-- The fibres of a slot but its current one. -/
def Rivals (s : State) (c slot : Nat) (g : Nat) : Prop := g < 4 ∧ g ≠ (s.slot c slot).current

/-- The slot has gone over to another fibre, from the next cycle on (R31). -/
def Switched (s t : State) (c slot g : Nat) : Prop :=
  (t.slot c slot).current = g ∧ (t.slot c slot).switchTo = none ∧ (t.slot c slot).switching = true ∧
  (t.slot c slot).queues = (s.slot c slot).queues ∧ t.mem = s.mem

/-- One event record in memory, field by field (R377). -/
def RecordAt (m : Memory) (a c : Nat) (seq : BitVec 16) (e : HeldEvent) : Prop :=
  let r := m.num a 32
  bitsAt r 0 8 = e.cause % 256 ∧ bitsAt r 9 1 = (if e.unh then 1 else 0) ∧ bitsAt r 10 2 = e.fib % 4 ∧
  bitsAt r 12 4 = e.slotIdx % 16 ∧ bitsAt r 16 8 = c % 196 ∧ bitsAt r 24 2 = c / 196 ∧
  bitsAt r 32 16 = e.ctx.toNat ∧ bitsAt r 48 16 = seq.toNat ∧ bitsAt r 64 57 = e.pc.toNat ∧
  bitsAt r 128 64 = e.lanes.toNat ∧ bitsAt r 192 64 = e.detail.toNat

/-- The quads of a mask restart at their region starts; one past a non-idempotent instruction stays before
the header that must follow (R111, R379). -/
def Restarted (x y : Fibre) (m : QuadMask) : Prop :=
  ∀ q, q < 16 → m.getLsbD q = true → (x.quad q).ended = false →
    (y.quad q).wait = .none ∧
    ((x.quad q).mustRgn = true → (y.quad q).pc = (x.quad q).pc) ∧
    ((x.quad q).mustRgn = false → (y.quad q).pc = (x.quad q).region ∧ (y.quad q).inClause = false ∧
      (y.quad q).active = (x.quad q).regionActive &&& ~~~x.sys.dead ∧ (y.quad q).stack = (x.quad q).regionStack)

/-- The memory image of a register of 64 lanes (R381). -/
def LanesAt (m : Memory) (a : Nat) (v : Nat → PW) : Prop := ∀ l, l < 64 → m.num (a + 4 * l) 4 = (v l).bits.toNat

/-- A write of a core's register, with what it leaves (R376, R382). -/
def registerAfter (r : CoreRegs) (off : Nat) (v : DWord) : CoreRegs → Prop := fun r' =>
  if off = 0x000 then r' = { r with corectl := v &&& 7 }
  else if off = 0x008 then r'.facterr = (r.facterr && !v.getLsbD 0) ∧ r'.evfull = (r.evfull && !v.getLsbD 1) ∧
    r'.suspect = (r.suspect && !v.getLsbD 2) ∧ r'.corectl = r.corectl
  else if off = 0x100 then r' = { r with evqbase := (v >>> 5) <<< 5 }
  else if off = 0x110 then r' = { r with evqhead := v }
  else if off = 0x148 then r'.fxaddr.toNat = v.toNat / 256 * 256 % 2 ^ 52 ∧ r'.fxbusy = r.fxbusy
  else if off = 0x1C0 then Tab.get 0 r'.ibka 0 = v &&& 0x81FFFFFFFFFFFFFF ∧ r'.dwa = r.dwa
  else if off = 0x1E8 then Tab.get 0 r'.dwa 1 = v ∧ r'.ibka = r.ibka
  else if off = 0x300 then r' = r
  else True

end Sys2Proof.Spec

open Sys2Proof Sys2Proof.Machine Sys2Proof.Spec

/-- R5, R31 to R33, R90, R108, R178, R186, R187, R257, R265, R314, R351, R354, R355, R377, R398, R399: what
lets fibres go on between their instructions. A cycle advances `TIME` and grants every WAIT test and every
candidate whose age has reached 250; slots switch; operations complete and clear their flags; waits end; a
held `xacq` is granted or, where every fibre waits, fails; handlers are entered, left, and overrun; held
events enter the queue. How `TIME` follows the cycles is the model's reading, log entry 73. -/
def Obligations.IssueEvents : Prop :=
  (∀ s, Gives .issueCycle s (fun t => t.cycle = s.cycle + 1 ∧
    t.time = s.time + BitVec.ofNat 64 (2 * (s.cycle + 1) / 3 - 2 * s.cycle / 3) ∧
    (∀ c k n x, (c, k) ∈ s.cores → let s1 := s.tick.ageAll.stopAll
      n < 16 → (s1.slot c n).bound = true → s1.candidate c n = some x → (x.test = true ∨ 250 ≤ x.age) →
      x.gang ∈ t.granted))) ∧
  (∀ k s, k < 196 → (s.cluster k).refilled = false →
    Gives (.allowanceRefill k) s (fun t => (t.cluster k).pacnt =
      BitVec.ofInt 32 (min ((s.cluster k).pacap.toNat : Int) ((s.cluster k).pacnt.toInt + (s.cluster k).refill.toNat)))) ∧
  (∀ c n g s, (s.slot c n).switchTo = some g → Gives (.slotSwitch c n) s (fun t => Switched s t c n g)) ∧
  (∀ c n g s, (s.slot c n).switchTo = none → (s.slot c n).bound = true →
    (s.fibre c (4 * n + (s.slot c n).current)).run ≠ .running →
    (s.core c).nextReady n (s.slot c n).current = some g →
    Gives (.slotSwitch c n) s (fun t => Switched s t c n g)) ∧
  (∀ c n g s, 128 ≤ (s.fibre c (4 * n + (s.slot c n).current)).stall →
    (s.core c).nextReady n (s.slot c n).current = some g →
    Gives (.stallSwitch c n) s (fun t => Switched s t c n g ∧
      (t.fibre c (4 * n + (s.slot c n).current)).stall = 0)) ∧
  (∀ c n g s, Rivals s c n g → (s.core c).ready (4 * n + g) = true →
    let age (h : Nat) : Nat := (s.fibre c (4 * n + h)).age
    248 ≤ age g → age g < 2 ^ 64 →
    (age (s.slot c n).current < age g ∨ (s.core c).ready (4 * n + (s.slot c n).current) = false) →
    (∀ h, Rivals s c n h → h ≠ g → (s.core c).ready (4 * n + h) = true → age h < age g ∨ (age h = age g ∧ g < h)) →
    Gives (.ageSwitch c n) s (fun t => Switched s t c n g)) ∧
  (∀ c f n m s, (s.fibre c f).ops[n]? = some (.access m) →
    Gives (.longLatencyCompletion c f n) s (fun t => (t.fibre c f).flag m = (s.fibre c f).flag m - 1 ∧
      (t.fibre c f).ops = (s.fibre c f).ops.eraseIdx n ∧ (t.fibre c f).regs = (s.fibre c f).regs)) ∧
  (∀ c f n m id s, (s.fibre c f).ops[n]? = some (.rip m id) →
    (∀ e, s.asc.find id = some e → e.stage ≠ .ripping) →
    Gives (.longLatencyCompletion c f n) s (fun t => (t.fibre c f).flag m = (s.fibre c f).flag m - 1 ∧
      (t.fibre c f).ops = (s.fibre c f).ops.eraseIdx n)) ∧
  (∀ c f q s, q < 16 → ((s.fibre c f).quad q).ended = false →
    let x := s.fibre c f
    let y := x.quad q
    let again := Gives (.fibreWake c f) s (fun t =>
      ((t.fibre c f).quad q).wait = .none ∧ ((t.fibre c f).quad q).pc = y.pc ∧ (t.fibre c f).regs = x.regs)
    (∀ m, y.wait = .flags m → (∀ n, n < 12 → m.getLsbD n = true → x.flag n = 0) → again) ∧
    (∀ n, y.wait = .arrivals n → n ≤ x.sys.arrivals.toNat → again) ∧
    (∀ n ph, y.wait = .barrier n ph → ((s.core c).barrier (s.block c x.block).scrb n).phase ≠ ph →
      Gives (.fibreWake c f) s (fun t => ((t.fibre c f).quad q).wait = .none ∧
        ((t.fibre c f).quad q).pc = y.pc + 12))) ∧
  (∀ c f first count p n s, (∀ r ∈ (s.core c).blockedXacqs, r.2.1 = f ∧ r.2.2 = count) →
    (s.fibre c f).resident = true →
    (∃ q, q < 16 ∧ ((s.fibre c f).quad q).wait = .xacq first count p n) →
    (∀ q, q < 16 → ∀ a b d e, ((s.fibre c f).quad q).wait = .xacq a b d e → a = first ∧ b = count ∧ d = p) →
    p ≠ 0 → p < 15 →
    let m : BitVec 12 := BitVec.ofNat 12 ((2 ^ count - 1) * 2 ^ first)
    let ends (t : State) (v : Bool) : Prop :=
      (∀ l, l < 64 → (s.fibre c f).live.getLsbD l = true → ((t.fibre c f).pred p).getLsbD l = v) ∧
      (∀ q, q < 16 → ((s.fibre c f).quad q).wait = .xacq first count p n →
        ((t.fibre c f).quad q).wait = .none ∧ ((t.fibre c f).quad q).pc = ((s.fibre c f).quad q).pc + 4)
    (count ≤ (s.core c).freeUnits → Gives (.xacqGrant c) s (fun t => ends t true ∧
      (t.fibre c f).regs.units = (s.fibre c f).regs.units ||| m)) ∧
    ((s.core c).freeUnits < count → (s.core c).starved = true → Gives (.xacqGrant c) s (fun t => ends t false ∧
      (t.fibre c f).regs.units = (s.fibre c f).regs.units))) ∧
  (∀ c f q s, ((s.fibre c f).quad q).wait = .entering →
    Gives (.userHandlerEntry c f) s (fun t => (t.fibre c f).quad q = { (s.fibre c f).quad q with wait := .none } ∧
      (t.fibre c f).handler = (s.fibre c f).handler)) ∧
  (∀ c f q s, ((s.fibre c f).quad q).wait = .resuming →
    Gives (.tretResume c f) s (fun t => (t.fibre c f).quad q = { (s.fibre c f).quad q with wait := .none })) ∧
  (∀ c f h s, (s.fibre c f).handler = some h → (s.fibre c f).run = .running →
    (s.block c (s.fibre c f).block).stage = .parking → 65536 ≤ s.cycle - (s.block c (s.fibre c f).block).parkSince →
    Gives (.handlerOverrun c f) s (fun t => (t.fibre c f).run = .frozen 0x13 ∧ (t.fibre c f).second = 0x13 ∧
      (t.fibre c f).sys.trapCause = 0x13)) ∧
  (∀ c e s, c < 784 → (s.core c).heldEvents = [e] →
    let r := (s.core c).regs
    r.evqtail.toNat - r.evqhead.toNat < r.evSize →
    Gives (.eventRecordRelease c) s (fun t => (t.core c).heldEvents = [] ∧
      (t.core c).regs.evqtail = r.evqtail + 1 ∧ (t.core c).evseq = (s.core c).evseq + 1 ∧
      (t.core c).regs.evfull = false ∧
      RecordAt t.mem (bitsAt r.evqbase.toNat 5 52 * 32 + 32 * (r.evqtail.toNat % r.evSize)) c (s.core c).evseq e))

/-- R174, R178, R347, R354, R378, R379, R382 to R384: the fibre actions of firmware and of a debugger, each in
the states in which it applies; in another state it sets FACTERR and nothing else. Writing `DBGCTL` with ATT
clear resumes what had stopped. -/
def Obligations.FibreActions : Prop :=
  ∀ (c f : Nat) (s : State),
    let x := s.fibre c f
    let refused (i : Instr) : Prop := Gives i s (fun t => (t.core c).regs.facterr = true ∧ t.fibre c f = x ∧ t.mem = s.mem)
    let first := (quadsIn x.frozenQuads).headD 0
    let pc := (x.quad first).pc
    ((x.run = .frozen 0x06 ∨ x.run = .frozen 0x81) → s.isAlone c f = true →
      Gives (.replay c f) s (fun t => (t.fibre c f).run = .running ∧ Restarted x (t.fibre c f) x.frozenQuads ∧
        (t.fibre c f).regs = x.regs)) ∧
    (x.run ≠ .frozen 0x06 → x.run ≠ .frozen 0x81 → refused (.replay c f)) ∧
    (∀ ps, x.run = .frozen 0x02 → s.fetchAt c (s.ctxOf c x.block) pc = .parcels ps →
      Gives (.next c f) s (fun t => (t.fibre c f).run = .running ∧ (t.fibre c f).regs = x.regs ∧
        ∀ q, q < 16 → x.frozenQuads.getLsbD q = true →
          ((t.fibre c f).quad q).pc = pc + BitVec.ofNat 57 (4 * ps.length)) ∧
      ∀ u, exec (.user c f u) s = .next ((s.setFibre c f { x with run := .running, frozenQuads := 0 }).userTrap c f
        x.frozenQuads u pc (if ps.length ≤ 2 then 0 else x.activeIn x.frozenQuads)
        (pc + BitVec.ofNat 57 (4 * ps.length)) ((x.quad first).within (pc + BitVec.ofNat 57 (4 * ps.length))))) ∧
    (x.run ≠ .frozen 0x02 → refused (.next c f) ∧ ∀ u, refused (.user c f u)) ∧
    (x.resident = true → Gives (.kill c f) s (fun t => (t.fibre c f).run = .exited ∧ t.mem = s.mem)) ∧
    (∀ code l, x.resident = true → (s.block c x.block).role = .ordinary → (s.block c x.block).stage ≠ .empty →
      s.launch? (s.block c x.block).part (s.block c x.block).lid = some l → l.ending = none → l.stage = .running →
      Gives (.abort c f code) s (fun t => (t.fibre c f).run = .exited ∧
        ∃ l2 e, t.launch? l.part l.lid = some l2 ∧ l2.ending = some e ∧
          (∀ cause, x.run = .frozen cause → cause = 0x13 → e.endCode = 3 ∧ e.cause2 = x.second) ∧
          (∀ cause, x.run = .frozen cause → cause ≠ 0x13 → cause ≠ 0x02 → cause ≠ 0x06 → cause ≠ 0x81 →
            e.endCode = 2 ∧ e.cause = cause ∧ e.pc = x.sys.trapPc ∧ e.lanes = x.sys.trapLanes) ∧
          (x.run = .running → e.endCode = 4 ∧ e.abcode = code))) ∧
    (x.run = .stopped →
      Gives (.cont c f) s (fun t => (t.fibre c f).run = .running ∧ (t.fibre c f).skipBreak = true ∧
        (t.fibre c f).regs = x.regs) ∧
      (∀ q rest, x.steppable = q :: rest →
        Gives (.step c f) s (fun t => (t.fibre c f).run = .running ∧ (t.fibre c f).stopSoon = some 2 ∧
          ∀ p, p < 16 → ((t.fibre c f).stepping.getLsbD p = true ↔
            p ∈ x.steppable ∧ (x.quad p).pc = (x.quad q).pc ∧ (x.quad p).inClause = (x.quad q).inClause)) ∧
        Gives (.stepall c f) s (fun t => (t.fibre c f).run = .running ∧ (t.fibre c f).stopSoon = some 2 ∧
          ∀ p, p < 16 → ((t.fibre c f).stepping.getLsbD p = true ↔ p ∈ x.steppable)))) ∧
    (x.run ≠ .stopped → refused (.cont c f) ∧ refused (.step c f) ∧ refused (.stepall c f)) ∧
    (x.run = .running → x.stopSoon = none →
      Gives (.stop c f) s (fun t => (t.fibre c f).stopSoon = some 4 ∧ (t.fibre c f).regs = x.regs)) ∧
    (x.run ≠ .running → refused (.stop c f)) ∧
    (∀ v : BitVec 64, Gives (.dbgctlWrite c v) s (fun t => (t.core c).regs.dbgctl = v &&& 0xFFFF00000000000D ∧
      ((s.core c).regs.dbgctl.getLsbD 0 = true → v.getLsbD 0 = false → x.run = .stopped →
        (t.fibre c f).run = .running) ∧
      (v.getLsbD 0 = true → t.fibre c f = x)))

/-- R376, R380, R381, R382, R395, R399, R419: firmware's accesses to a core's registers. A save writes the
fibre save record of a frozen, stopped or parked fibre at `FXADDR`, a restore reads one back after its checks,
and BUSY is set until it is done; `ENGDATA` writes the selected word and moves on; `ENGDONE` ends a held `mma`;
a write of a register leaves what its table says. -/
def Obligations.FirmwareRegisters : Prop :=
  (∀ c f s, (s.core c).regs.fxbusy = false →
    let x := s.fibre c f
    let a := bitsAt (s.core c).regs.fxaddr.toNat 8 44 * 256
    (s.mayMove c f = false → Gives (.fibreSave c f) s (fun t => (t.core c).regs.fxresult = 1 ∧ t.mem = s.mem) ∧
      Gives (.fibreRestore c f) s (fun t => (t.core c).regs.fxresult = 1 ∧ t.fibre c f = x)) ∧
    (s.mayMove c f = true →
      Gives (.fibreSave c f) s (fun t => (t.core c).regs.fxbusy = true ∧ (t.core c).regs.fxresult = 0 ∧
        t.mem.num a 4 = 0x4B465352 ∧ t.mem.num (a + 4) 2 = 1 ∧ t.mem.num (a + 8) 2 = x.regs.units.toNat ∧
        (∀ i, i < 64 → t.mem.num (a + 0x100 + 8 * i) 8 = (x.scalar i).bits.toNat) ∧
        t.mem.num (a + 0x300) 8 = x.sys.chki.toNat ∧ t.mem.num (a + 0x310) 8 = x.sys.sprog.toNat ∧
        t.mem.num (a + 0x328) 8 = x.sys.trapPc.toNat ∧ t.mem.num (a + 0x338) 8 = x.sys.dead.toNat ∧
        (∀ i, i < 12 → t.mem.num (a + 0x340 + 2 * i) 2 = x.flag i % 65536) ∧
        (∀ i, i < 16 → t.mem.num (a + 0x380 + 8 * i) 8 = (x.pred i).toNat) ∧
        (∀ q, q < 16 → t.mem.num (a + 0x400 + 32 * q) 8 = (x.quad q).pc.toNat ∧
          t.mem.num (a + 0x408 + 32 * q) 8 = (x.quad q).active.toNat ∧
          t.mem.num (a + 0x418 + 32 * q) 8 = (x.quad q).region.toNat) ∧
        (∀ r, r < 16 → LanesAt t.mem (a + 0x1700 + 256 * r) (fun l => Tab.get PW.zero x.regs.h (64 * r + l))) ∧
        (∀ r, r < 48 → LanesAt t.mem (a + 0x6900 + 256 * r) (fun l => Tab.get PW.zero x.regs.v (64 * r + l))) ∧
        (∀ u r, u < 12 → r < 16 → x.regs.units.getLsbD u = true →
          LanesAt t.mem (a + 0x9900 + 0x1000 * u + 256 * r) (fun l =>
            Tab.get PW.zero x.regs.v (64 * (48 + 16 * u + r) + l)))) ∧
      (s.recordGood c f a = false → Gives (.fibreRestore c f) s (fun t => (t.core c).regs.fxresult = 2 ∧
        t.fibre c f = x)) ∧
      (s.recordGood c f a = true → Gives (.fibreRestore c f) s (fun t => (t.core c).regs.fxbusy = true ∧
        (t.core c).regs.fxresult = 0 ∧ (t.fibre c f).block = x.block ∧
        (t.fibre c f).regs.units.toNat = s.mem.num (a + 8) 2 ∧
        (∀ i, 1 ≤ i → i < 64 → ((t.fibre c f).scalar i).bits.toNat = s.mem.num (a + 0x100 + 8 * i) 8) ∧
        (t.fibre c f).sys.sprog.toNat = s.mem.num (a + 0x310) 8 ∧
        (t.fibre c f).sys.dead.toNat = s.mem.num (a + 0x338) 8 ∧
        (∀ i, 1 ≤ i → i < 15 → ((t.fibre c f).pred i).toNat = s.mem.num (a + 0x380 + 8 * i) 8) ∧
        (∀ q, q < 16 → ((t.fibre c f).quad q).pc.toNat = s.mem.num (a + 0x400 + 32 * q) 8 % 2 ^ 57 ∧
          ((t.fibre c f).quad q).active.toNat = s.mem.num (a + 0x408 + 32 * q) 8) ∧
        (∀ r l, r < 48 → l < 64 → (Tab.get PW.zero (t.fibre c f).regs.v (64 * r + l)).bits.toNat =
          s.mem.num (a + 0x6900 + 256 * r + 4 * l) 4))))) ∧
  (∀ c s, Gives (.fibreSaveRecordDone c) s (fun t => (t.core c).regs.fxbusy = false ∧ t.mem = s.mem ∧
    ∀ f, t.fibre c f = s.fibre c f)) ∧
  (∀ c s, let r := (s.core c).regs
    let n := bitsAt r.engsel.toNat 8 8
    Gives (.engdataAccess c none) s (fun t => (t.core c).regs.engIndex = r.engIndex + 1 ∧ (t.core c).mem = (s.core c).mem) ∧
    (∀ v : BitVec 64, n < 128 → r.engIndex < 544 →
      Gives (.engdataAccess c (some v)) s (fun t => (t.core c).regs.engIndex = r.engIndex + 1 ∧
        (t.core c).mem.slotNum (4352 * n + 8 * r.engIndex) 8 = v.toNat)) ∧
    (∀ v : BitVec 64, 128 ≤ n → n < 144 → r.engIndex < 2048 →
      Gives (.engdataAccess c (some v)) s (fun t => (t.core c).regs.engIndex = r.engIndex + 1 ∧
        (t.core c).mem.tile (n - 128) (2 * r.engIndex) = ⟨v.setWidth 32, false⟩ ∧
        (t.core c).mem.tile (n - 128) (2 * r.engIndex + 1) = ⟨v.extractLsb' 32 32, false⟩))) ∧
  (∀ c v s a, (s.core c).eng.heldMma = some a → a.sampled = false → Closes s c a.fib 0 a.cmd →
    Gives (.engdone c v) s (fun t => Closed s t c a.fib 0 a.cmd 0 0 ∧
      (t.core c).eng.matrix = Without (s.core c).eng.matrix a ∧
      (a.progress ≠ 0 → ∀ d n, n < 4096 → (t.core c).mem.tile d n = (s.core c).mem.tile d n))) ∧
  (∀ c v s, (s.core c).eng.heldMma = none → exec (.engdone c v) s = .next s) ∧
  (∀ c off v s, off < 0x1000 → (off < 0x040 ∨ 0x0B8 < off) →
    Gives (.registerWrite c off v) s (fun t => registerAfter (s.core c).regs off v (t.core c).regs ∧
      t.mem = s.mem ∧ (t.core c).mem = (s.core c).mem)) ∧
  (∀ c n v s, n < 16 → v.getLsbD 47 = true → (s.slot c n).bound = false →
    let b := (v.extractLsb' 40 4).toNat
    (s.block c b).stage = .empty →
    Gives (.registerWrite c (0x040 + 8 * n) v) s (fun t => (t.slot c n).bound = true ∧ (t.slot c n).block = b ∧
      (t.block c b).scrb = (v.extractLsb' 12 12).toNat ∧ (t.block c b).pdepth = (v.extractLsb' 0 12).toNat ∧
      (t.block c b).fibres = (v.extractLsb' 34 2).toNat + 1)) ∧
  (∀ c v s, let k := clusterOf c
    let d := dieOf c
    Gives (.registerWrite c 0x20008 v) s (fun t => t.cluster k = { s.cluster k with refill := v.setWidth 16 }) ∧
    Gives (.registerWrite c 0x20010 v) s (fun t => t.cluster k = { s.cluster k with pacap := v.setWidth 32 }) ∧
    Gives (.registerWrite c 0x30020 v) s (fun t => (t.die d).ctxbase.toNat = v.toNat / 4096 * 4096 % 2 ^ 52) ∧
    Gives (.registerWrite c 0x30088 v) s (fun t => (t.die d).audsize = v.setWidth 16))

namespace Sys2Proof.Spec
open Sys2Proof.Machine

/-! ### Blocks, launches, ascents -/

/-- A lane of a block lies inside the active extent of its launch (R24). -/
def Inside (s : State) (c b : Nat) (l : Launch) (i : Nat) : Prop :=
  (s.originOf c b).1 + i % 8 < (if l.params.actW = 0 then 8 * l.gridW else l.params.actW) ∧
  (s.originOf c b).2 + i / 8 < (if l.params.actH = 0 then 8 * l.gridH else l.params.actH)

/-- A fibre as it starts in slot `j` of a block, at index `f` (R24, R25, R78, R98, R386): its lanes, its quads
before a header of the entry, its registers and flags; `s1` holds ARGS. -/
structure Started (s : State) (c b j f : Nat) (l : Launch) (x : Fibre) : Prop where
  place : x.block = b ∧ x.bslot = j ∧ x.index = f ∧ x.handler = none ∧ x.ops = []
  args : x.scalar 1 = ⟨BitVec.ofNat 64 l.params.args, false⟩
  scalars : ∀ n, n ≠ 1 → x.scalar n = PX.zero
  preds : ∀ n, 1 ≤ n → n < 15 → x.pred n = 0
  sys : x.sys.chki = 0 ∧ x.sys.satc = 0 ∧ x.sys.sprog = 0 ∧ x.sys.dead = 0 ∧ x.sys.arrivals = 0
  flags : ∀ n, x.flag n = 0
  lanes : ∀ i, i < 64 → (x.present.getLsbD i = true ↔
    (s.core c).holes.getLsbD i = false ∧ ∃ k, k < 64 ∧ quadOfLane k = quadOfLane i ∧ Inside s c b l k)
  helpers : ∀ i, i < 64 → (x.helpers.getLsbD i = true ↔ x.present.getLsbD i = true ∧ ¬ Inside s c b l i)
  quads : ∀ q, q < 16 →
    (x.present &&& quadLanes q = 0 → (x.quad q).ended = true) ∧
    (x.present &&& quadLanes q ≠ 0 → (x.quad q).ended = false ∧ (x.quad q).pc = l.entryOf j f ∧
      (x.quad q).active = x.present &&& quadLanes q ∧ (x.quad q).inClause = false ∧ (x.quad q).mustRgn = true ∧
      (x.quad q).wait = .none)
  seeds : ∀ i, i < 64 → Tab.get 0 x.sys.rseed i = BitVec.ofNat 32 l.params.seed ^^^
    BitVec.ofNat 32 (((((s.block c b).by' * l.gridW + (s.block c b).bx) * 64 + 4 * j + f) * 64 + i) * 0x9E3779B9)

/-- The entry has moved to a state, and nothing else of its block has changed (R396). -/
def Staged (s t : State) (c b : Nat) (st : BlockStage) (busy : Bool) : Prop :=
  (t.block c b).stage = st ∧ (t.block c b).busy = busy ∧ (t.block c b).role = (s.block c b).role ∧
  t.mem = s.mem ∧ (t.core c).mem = (s.core c).mem ∧ ∀ f, t.fibre c f = s.fibre c f

/-- A command that the state of its entry does not admit (R376, R396). -/
def TurnedAway (i : Instr) (s : State) (c : Nat) : Prop :=
  Gives i s (fun t => (t.core c).regs.facterr = true ∧ t.mem = s.mem ∧ (∀ b, t.block c b = s.block c b) ∧
    ∀ f, t.fibre c f = s.fibre c f)

end Sys2Proof.Spec

open Sys2Proof Sys2Proof.Machine Sys2Proof.Spec

/-- R24, R25, R78, R98, R381, R386, R396, R404, R406: the commands of a block table entry. RUN starts the
fibres of a placed block or lets a parked one go on; PREEMPT begins to park, and a parked block's fibres stand
at their region starts; SAVE writes the scratch words of the block to its save area and RESTORE reads them
back; RELEASE frees the entry, its slots and its claims. Another state refuses the command. The offsets of the
header are the model's choice, log entry 67. -/
def Obligations.BlockCommands : Prop :=
  ∀ (c b : Nat) (s : State),
    let k := s.block c b
    let area := k.save / 256 % 2 ^ 44 * 256
    (∀ l, k.stage = .empty → k.slots ≠ 0 → k.fibres ≤ 4 → s.launchOf c b = some l → l.ending = none →
      l.stage ≠ .ended → Gives (.blockRun c b) s (fun t =>
        (t.block c b).stage = .running ∧ (t.block c b).busy = false ∧ t.mem = s.mem ∧
        (∀ j f, j < k.slots → f < k.fibres → Started s c b j f l (t.fibre c (4 * (k.slot0 + j) + f))) ∧
        (k.acc = true → ∀ d n, d < 16 → n < 4096 → (t.core c).mem.tile d n = PW.zero))) ∧
    (k.stage = .parked → Gives (.blockRun c b) s (fun t => Staged s t c b .running false)) ∧
    (k.stage ≠ .empty → k.stage ≠ .parked → TurnedAway (.blockRun c b) s c) ∧
    (k.stage = .running → s.otherBlock c b = none →
      Gives (.blockPreempt c b) s (fun t => Staged s t c b .parking true ∧ (t.block c b).parkSince = s.cycle)) ∧
    (k.stage = .parking → s.parkReady c b = true → s.otherBlock c b = none →
      Gives (.blockParked c b) s (fun t => (t.block c b).stage = .parked ∧ (t.block c b).busy = false ∧
        t.mem = s.mem ∧ (t.core c).mem = (s.core c).mem ∧
        ∀ f, (s.fibre c f).block = b → (s.fibre c f).resident = true → (s.fibre c f).atBarrier = false →
          Restarted (s.fibre c f) (t.fibre c f) (BitVec.allOnes 16) ∧ (t.fibre c f).monitor = none ∧
          (t.fibre c f).regs = (s.fibre c f).regs)) ∧
    (k.stage = .parked → s.planeParked c b = true → Gives (.blockSave c b) s (fun t =>
      (t.block c b).stage = .saving ∧ (t.block c b).busy = true ∧ (t.core c).mem = (s.core c).mem ∧
      t.mem.num area 4 = 0x4B425352 ∧ t.mem.num (area + 4) 2 = 1 ∧
      (∀ d i, d < k.srows → i < 64 →
        t.mem.num (area + 256 + 256 * d + 4 * i) 4 = ((s.core c).cell i (k.scrb + d)).bits.toNat))) ∧
    (k.stage ≠ .parked → TurnedAway (.blockSave c b) s c) ∧
    (k.stage = .empty → k.slots ≠ 0 → k.role = .ordinary → Tab.get none s.savedBlocks area = none →
      s.mem.num area 4 = 0x4B425352 → s.mem.num (area + 4) 2 = 1 → s.mem.num (area + 6) 2 = k.srows →
      s.depthOf c b = 0 → s.mem.num (area + 8) 2 = 0 → k.scrb + k.srows ≤ 4096 →
      Gives (.blockRestore c b) s (fun t =>
        (t.block c b).stage = .restoring ∧ (t.block c b).busy = true ∧ t.mem = s.mem ∧
        ∀ d i, d < k.srows → i < 64 → (s.core c).holes.getLsbD i = false →
          ((t.core c).cell i (k.scrb + d)).bits.toNat = s.mem.num (area + 256 + 256 * d + 4 * i) 4)) ∧
    (k.stage ≠ .empty → TurnedAway (.blockRestore c b) s c) ∧
    (k.stage = .saving → Gives (.blockCommandComplete c b) s (fun t => Staged s t c b .saved false)) ∧
    (k.stage = .restoring → Gives (.blockCommandComplete c b) s (fun t => Staged s t c b .parked false)) ∧
    ((k.stage = .parked ∨ k.stage = .saved) → Gives (.blockRelease c b) s (fun t =>
      t.block c b = Block.absent ∧ t.mem = s.mem ∧
      (∀ n, Tab.get 0 (t.core c).mem.claims n ≠ b + 1) ∧
      (∀ j, j < k.slots → (t.slot c (k.slot0 + j)).bound = false ∧
        ∀ f, f < 4 → (t.fibre c (4 * (k.slot0 + j) + f)).resident = false))) ∧
    (k.stage ≠ .parked → k.stage ≠ .saved → TurnedAway (.blockRelease c b) s c)

/-- R14, R29, R179, R387, R389 to R396: a launch from its doorbell to its end. A block at the address enters
its queue with the next launch id, or is refused with its code and the queue as it was; a waiting head ages;
firmware places a block of the head where it fits, with its entry and bind records; a launch whose work is
done is recorded as ended. -/
def Obligations.LaunchLifecycle : Prop :=
  ∀ (part q : Nat) (s : State),
    let lq := (s.partition part).queue q
    let after (t : State) : LaunchQueue := (t.partition part).queue q
    (∀ (address : BitVec 64) fw, q < 64 → part < 8 → s.rot.phase = .running →
      let a := address.toNat % 2 ^ 52
      let p : ParamBlock := (List.range 16).map (fun k => BitVec.ofNat 64 (s.mem.num (a + 8 * k) 8))
      let run (P : State → Prop) : Prop := Gives (.launchDoorbell part q address fw) s P
      (32 ≤ lq.ids.length → run (fun t => t.launches = s.launches ∧ (after t).ids = lq.ids ∧
        (after t).full = true ∧ (after t).rej = true ∧ (after t).code = 0)) ∧
      (∀ code, lq.ids.length < 32 → s.rejection part (s.driverCtx part) p fw = some code →
        run (fun t => t.launches = s.launches ∧ (after t).ids = lq.ids ∧ (after t).full = false ∧
          (after t).rej = true ∧ (after t).code = BitVec.ofNat 8 code)) ∧
      (lq.ids.length < 32 → s.rejection part (s.driverCtx part) p fw = none → run (fun t =>
        let n := if lq.count = 2 ^ 26 - 1 then 1 else lq.count + 1
        let id : BitVec 32 := BitVec.ofNat 32 (q * 2 ^ 26 + n)
        (after t).ids = lq.ids ++ [id] ∧ (after t).count = n ∧ (after t).last = id ∧ (after t).rej = false ∧
        (after t).full = decide (31 ≤ lq.ids.length) ∧
        ∃ l, t.launches = l :: s.launches ∧ l.lid = id ∧ l.part = part ∧ l.queue = q ∧ l.params = p ∧
          l.stage = .queued ∧ l.prio = p.prio ∧ l.placed = 0 ∧ l.ending = none))) ∧
    (∀ l, s.headOf part q = some l → l.stage = .queued → l.prio + l.aged < 7 → (s.partition part).ageing ≠ 0 →
      (s.partition part).ageing * (l.aged + 1) ≤ s.time.toNat - l.submitted →
      Gives (.launchAgeing part q) s (fun t => ∃ m, t.launch? part l.lid = some m ∧ m.aged = l.aged + 1 ∧
        m.effective = l.effective + 1 ∧ m.stage = .queued)) ∧
    (∀ l p b rest, s.headOf part q = some l → s.waitsForPlace l = true → s.headBefore part q l = false →
      l.depth = 0 → l.redund = false → (s.blocksOf l).drop l.placed = b :: rest → s.fits l b p = true →
      (if l.stage = .queued then s.readTables l else l).entryBad = false →
      Gives (.launchPlacement part q [p]) s (fun t =>
        (t.block p.core p.entry).stage = .empty ∧ (t.block p.core p.entry).bx = b.1 ∧
        (t.block p.core p.entry).by' = b.2 ∧ (t.block p.core p.entry).lid = l.lid ∧
        (t.block p.core p.entry).part = part ∧ (t.block p.core p.entry).slot0 = p.slot ∧
        (t.block p.core p.entry).slots = l.slots ∧ (t.block p.core p.entry).fibres = l.fibres ∧
        (t.block p.core p.entry).scrb = p.depth ∧ (t.block p.core p.entry).role = .ordinary ∧
        (∀ j, j < l.slots → (t.slot p.core (p.slot + j)).bound = true ∧
          (t.slot p.core (p.slot + j)).block = p.entry ∧
          let r := Tab.get 0 (t.core p.core).regs.slotbind (p.slot + j)
          r.getLsbD 47 = true ∧ (r.extractLsb' 40 4).toNat = p.entry ∧ (r.extractLsb' 36 4).toNat = j ∧
          r.extractLsb' 48 16 = l.ctx) ∧
        (t.partition part).lastServed = q ∧
        (after t).ids = (if rest = [] then lq.ids.drop 1 else lq.ids) ∧
        ∃ m, t.launch? part l.lid = some m ∧ m.stage = .running ∧ m.placed = l.placed + 1 ∧
          (l.stage = .queued → m.tstart = s.time))) ∧
    (∀ l lid, s.launch? part lid = some l → l.stage = .running → s.launchDone l = true →
      Gives (.launchCompletion part lid) s (fun t => (∃ m e, t.launch? part lid = some m ∧ m.stage = .ended ∧
        m.recorded = true ∧ m.ending = some e ∧ (∀ e0, l.ending = some e0 → e = e0 ∧ m.tend = l.tend) ∧
        (l.ending = none → e.endCode = 0 ∧ m.tend = s.time)) ∧
        lid ∉ ((t.partition part).queue l.queue).ids)) ∧
    (∀ (l : Launch) (e : EndInfo), (l.record e).length = 7 ∧
      (l.record e)[0]? = some (BitVec.ofNat 64 ((if e.endCode = 0 then 2 else 3) + 2 ^ 4 * e.endCode +
        2 ^ 16 * e.abcode.toNat + 2 ^ 32 * l.lid.toNat)) ∧
      (l.record e)[3]? = some (if e.endCode = 2 ∨ e.endCode = 3 then e.pc.setWidth 64 else 0) ∧
      (l.record e)[4]? = some (if e.endCode = 2 ∨ e.endCode = 3 then e.lanes else 0) ∧
      (l.record e)[5]? = some l.tstart ∧ (l.record e)[6]? = some l.tend)

/-- R310 to R316, R364, R365, R372: what goes on for ascents of itself. The entry with the highest sequence
number runs as a compensation block with its words in `s2` to `s5`; its end pops the entry, or grounds the
ascent and starts the owner block with the code; a landing held for audits is performed when they are over. -/
def Obligations.AscentEvents : Prop :=
  (∀ (a : Ascents) n e v, a.nextEntry = some (n, e, v) → (n, e) ∈ a.table ∧ e.stage = .ripping ∧
    e.stack.head? = some v ∧
    ∀ m e2 v2, (m, e2) ∈ a.table → e2.stage = .ripping → e2.stack.head? = some v2 → v2.seq.toNat ≤ v.seq.toNat) ∧
  (∀ s p n e v l, s.asc.running = none → s.asc.nextEntry = some (n, e, v) →
    s.launch? v.part v.lid = some l → l.params.length = 16 → s.specialFits l p = true →
    let id : BitVec 64 := BitVec.ofNat 64 (e.generation * 4096 + n)
    Gives (.compensationLaunch p) s (fun t => t.asc.running = some (p.core, p.entry) ∧ t.mem = s.mem ∧
      (t.block p.core p.entry).role = .compensation id v.seq none ∧
      (t.block p.core p.entry).stage = .running ∧ (t.block p.core p.entry).slots = 1 ∧
      let x := t.fibre p.core (4 * p.slot)
      x.scalar 2 = ⟨id, false⟩ ∧ x.scalar 3 = ⟨v.a0, false⟩ ∧ x.scalar 4 = ⟨v.a1, false⟩ ∧
      x.scalar 5 = ⟨v.seq, false⟩ ∧
      ∀ q, q < 16 → (x.quad q).ended = false → (x.quad q).pc = v.fn.extractLsb' 0 57)) ∧
  (∀ c b s id seq e, (s.block c b).role = .compensation id seq none → (s.block c b).stage = .running →
    s.blockDone c b = true → s.asc.find id = some e → e.stage = .ripping →
    let left := e.stack.filter (fun v => v.seq != seq)
    Gives (.compensationExit c b) s (fun t => t.asc.running = none ∧ t.block c b = Block.absent ∧
      ∃ e2, t.asc.find id = some e2 ∧ e2.stack = left ∧
        (left = [] → e2.stage = .done) ∧ (left ≠ [] → e2.stage = .ripping))) ∧
  (∀ c b s id seq code e, (s.block c b).role = .compensation id seq (some code) → (s.block c b).stage = .running →
    s.blockDone c b = true → s.asc.find id = some e → e.stage = .ripping →
    Gives (.compensationExit c b) s (fun t => t.asc.running = none ∧
      (∃ e2, t.asc.find id = some e2 ∧ e2.stage = .grounded ∧ e2.stack = e.stack) ∧
      (e.handler = 0 → t.block c b = Block.absent) ∧
      (∀ l, e.handler ≠ 0 → s.launch? e.part e.lid = some l →
        (t.block c b).role = .owner id ∧ (t.block c b).stage = .running ∧
        let x := t.fibre c (4 * (s.block c b).slot0)
        x.scalar 2 = ⟨id, false⟩ ∧ x.scalar 3 = ⟨seq, false⟩ ∧ x.scalar 4 = ⟨code.setWidth 64, false⟩ ∧
        x.sys.trapCause = 0x14))) ∧
  (∀ s id e c f sd rest, s.asc.find id = some e → e.heldLands = (c, f, sd) :: rest → s.landHeld c f id = false →
    1 ≤ sd → (s.block c (s.fibre c f).block).part = e.part → (e.stage = .opened ∨ e.stage = .grounded) →
    Gives (.asclAuditRelease id) s (fun t => (t.fibre c f).scalar sd = ⟨1, false⟩ ∧
      (∀ o ∈ (t.fibre c f).owed, o.dest ≠ .scalar sd) ∧
      ∃ e2, t.asc.find id = some e2 ∧ e2.stage = .landed ∧ e2.heldLands = rest))

namespace Sys2Proof.Spec
open Sys2Proof.Machine

/-! ### Clusters, links, translation, errors, pairs, resets -/

/-- Nothing of the cores, of memory or of the launches has changed. -/
def SameWork (s t : State) : Prop := t.cores = s.cores ∧ t.mem = s.mem ∧ t.launches = s.launches

/-- No clock change waits for a link (R410). -/
def NoClock (s : State) (n : Nat) : Prop := ∀ d, d ∈ linkDies n → (s.die d).pendingMhz = none

/-- A width code as a request means it: 3 acts as 0 (R410). -/
def asked (w : BitVec 2) : BitVec 2 := if w = 3 then 0 else w

/-- A saturating count. -/
def counted {w : Nat} (n : BitVec w) : BitVec w := if n = BitVec.allOnes w then n else n + 1

/-- A page of a walk, as R416 and R417 find it: the address of a byte, where a leaf answers. -/
def walked (s : State) (asid : BitVec 16) (va : Nat) (kind : AccessKind) : Option Nat :=
  match s.walk asid va kind with
  | .found e => some (e.frame + va % 2 ^ e.lsize)
  | .failed _ => none

/-- Every cached translation that an invalidation names is gone (R419, R424). -/
def Dropped (t : State) (p : TlbEntry → Prop) : Prop :=
  (∀ c e, e ∈ Tab.get [] t.trans.coreTlb c → ¬ p e) ∧ (∀ d e, e ∈ Tab.get [] t.trans.dieTlb d → ¬ p e)

/-- A lifetime counter of a core counts one more, up to its greatest value (R456). -/
def LifeCounted (s t : State) (c n : Nat) : Prop :=
  (Tab.get 0 (t.core c).life n).toNat = min (2 ^ 64 - 1) ((Tab.get 0 (s.core c).life n).toNat + 1)

/-- The core reads zero where it held local memory, and holds no fibre (R452). -/
def Cleared (k : CoreState) : Prop :=
  k.mem = CoreMem.empty ∧ k.fibres = [] ∧ k.slots = [] ∧ k.blocks = []

/-- Every context is lost (R469, R473). -/
def Lost (s t : State) : Prop :=
  t.rot.phase = .off ∧ t.cores = [] ∧ t.launches = [] ∧ t.mem.cells = [] ∧ t.rot.boots = s.rot.boots

end Sys2Proof.Spec

open Sys2Proof Sys2Proof.Machine Sys2Proof.Spec

/-- R402, R408 to R410, R464 to R466, R473, R474: clusters change class, hot clusters give their blocks to
cool ones, links change width and clock, retrain and count errors, port registers are written, and the power
limit scales the refill. That firmware keeps the proportion is the model's choice, log entry 76. -/
def Obligations.ClustersAndLinks : Prop :=
  (∀ k cls s, k < 196 → cls < 8 → s.clusterEmpty k = true → s.inCompPool k = false →
    (s.cluster k).moving = none → (s.cluster k).migrating = none →
    Gives (.poolMove k cls) s (fun t => (t.cluster k).moving = some cls ∧ (t.cluster k).cls = (s.cluster k).cls ∧
      SameWork s t)) ∧
  (∀ k cls s, (s.cluster k).moving = some cls →
    Gives (.poolMoveComplete k) s (fun t => (t.cluster k).moving = none ∧ (t.cluster k).cls = cls ∧ SameWork s t)) ∧
  (∀ a b s, s.canMigrate a b = true → Gives (.thermalMigration a b) s (fun t =>
    (t.cluster a).migrating = some b ∧ t.mem = s.mem ∧
    ∀ c e, c < 784 → clusterOf c = a → (s.block c e).slots ≠ 0 → (s.block c e).stage = .running →
      (t.block c e).stage = .parking ∧ (t.block c e).busy = true)) ∧
  (∀ a b s, a < 196 → b < 196 → a ≠ b → (s.cluster a).migrating = some b → s.allParked a = true →
    Gives (.migrationComplete a) s (fun t => (t.cluster a).migrating = none ∧ t.mem = s.mem ∧
      ∀ c d, (c, d) ∈ List.zip (coresOf a) (coresOf b) →
        (t.core d).mem = (s.core c).mem ∧ (∀ f, t.fibre d f = s.fibre c f) ∧ (t.core c).blocks = [] ∧
        ∀ e, ((s.block c e).stage = .parked → (s.block c e).preempted = false → (s.block c e).preemptLater = false →
            (t.block d e).stage = .running) ∧
          ((s.block c e).preempted = true → (t.block d e).stage = (s.block c e).stage))) ∧
  (∀ n (w : BitVec 2) s, n < 40 → let l := s.link n
    (l.state = 2 → asked w ≠ l.width → ¬ (asked w < l.width ∧ s.clockPending n = true) →
      Gives (.linkWidthChange n w) s (fun t => (t.link n).state = 3 ∧ (t.link n).width = asked w ∧ SameWork s t)) ∧
    (l.state = 3 → asked w ≠ l.width → Gives (.linkWidthChange n w) s (fun t =>
      t.link n = { l with pending := some (asked w) } ∧ SameWork s t)) ∧
    ((l.state = 2 ∨ l.state = 3) → asked w = l.width → Gives (.linkWidthChange n w) s (fun t =>
      t.link n = { l with pending := none } ∧ SameWork s t))) ∧
  (∀ d mhz s, d < 4 →
    ((∀ n, n < 40 → d ∈ linkDies n → (s.link n).state ≠ 1 ∧ (s.link n).state ≠ 3) →
      Gives (.linkFrequencyChange d mhz) s (fun t => (t.die d).fabricMhz = mhz ∧ (t.die d).pendingMhz = none ∧
        ∀ n, n < 40 → d ∈ linkDies n → (s.link n).state = 2 → (t.link n).state = 3)) ∧
    (∀ n, n < 40 → d ∈ linkDies n → ((s.link n).state = 1 ∨ (s.link n).state = 3) →
      Gives (.linkFrequencyChange d mhz) s (fun t => (t.die d).pendingMhz = some mhz ∧
        (t.die d).fabricMhz = (s.die d).fabricMhz))) ∧
  (∀ n s, n < 40 → ((s.link n).state = 1 ∨ (s.link n).state = 3) → NoClock s n → let l := s.link n
    (l.pending = none → Gives (.linkRetrainComplete n true) s (fun t => (t.link n).state = 2 ∧
      (t.link n).failures = 0 ∧ (t.link n).width = l.width ∧ (n < 36 → (t.link n).peer = s.farDevice l.group))) ∧
    (l.failures + 1 < 3 → Gives (.linkRetrainComplete n false) s (fun t =>
      t.link n = { l with failures := l.failures + 1 })) ∧
    (3 ≤ l.failures + 1 → Gives (.linkRetrainComplete n false) s (fun t =>
      (t.link n).state = (if n < 36 then 0 else 4) ∧ (36 ≤ n → t.warm.requested = true)))) ∧
  (∀ n s, n < 36 → (s.link n).state = 2 →
    Gives (.flitCrcError n) s (fun t => t.link n = { s.link n with crcerr := counted (s.link n).crcerr,
                                                                    replays := counted (s.link n).replays } ∧
      SameWork s t) ∧
    (16 ≤ (s.link n).flitReplays → Gives (.portRetrain n) s (fun t => (t.link n).state = 3 ∧
      (t.link n).flitReplays = 0))) ∧
  (∀ n (v : BitVec 64) s, n < 36 → let l := s.link n
    let run (off : Nat) (P : State → Prop) : Prop := Gives (.tetherPortWrite n off v) s P
    (l.en = false → v.getLsbD 63 = true → run 0 (fun t => t.link n = { l with
      en := true, wreq := v.extractLsb' 61 2, role := v.extractLsb' 58 3, state := 1,
      width := asked (v.extractLsb' 61 2) })) ∧
    (v.getLsbD 63 = false → run 0 (fun t => (t.link n).en = false ∧ (t.link n).state = 0)) ∧
    (l.en = true → v.extractLsb' 58 3 ≠ l.role → run 0 (fun t => (t.link n).role = l.role ∧
      (t.core (196 * (n / 9))).regs.facterr = true)) ∧
    run 8 (fun t => (t.link n).crcerr = (if v.toNat % 2 ^ 32 = 0 then 0 else l.crcerr) ∧
      (t.link n).replays = (if v.toNat / 2 ^ 32 % 2 ^ 16 = 0 then 0 else l.replays))) ∧
  (∀ w s, 800 ≤ w → w ≤ 3200 → Gives (.powerLimitSet w) s (fun t => t.powerLimit = w ∧
    ∀ k, (t.cluster k).refill = BitVec.ofNat 16 ((s.cluster k).refill.toNat * w / s.powerLimit))) ∧
  (∀ d celsius s, 105 < celsius → Gives (.dieOverheat d celsius) s (fun t => ∀ k,
    (k / 49 = d → (s.cluster k).refill ≠ 0 → (t.cluster k).refill < (s.cluster k).refill) ∧
    (k / 49 ≠ d → t.cluster k = s.cluster k)))

/-- R330, R335, R411 to R424, R462 to R464: a finished walk fills the TLBs and changes nothing else; a reply
to a fault replays its waiters or ends their launch with 0xF000 and the reason; an invalidation that is done
leaves no entry that it names; requesters, harts and other devices read and write memory. -/
def Obligations.TranslationAndHosts : Prop :=
  (∀ d asid (va : VAddr) (w : Bool) e s, d < 4 → s.walk asid va.toNat (if w then .store else .load) = .found e →
    Gives (.pageWalk d asid va w) s (fun t => (Tab.get [] t.trans.dieTlb d).head? = some e ∧ SameWork s t)) ∧
  (∀ part token f c x s, s.faultOf part token = some f → f.waiters = [.fibre c x] →
    (s.fibre c x).run = .frozen 0x06 →
    (s.isAlone c x = true → Gives (.faultReplyGrant part token) s (fun t => (t.fibre c x).run = .running ∧
      t.faultOf part token = none ∧
      Restarted (s.fibre c x) (t.fibre c x) (s.fibre c x).frozenQuads)) ∧
    (∀ l, (s.block c (s.fibre c x).block).role = .ordinary → (s.block c (s.fibre c x).block).stage ≠ .empty →
      s.launch? (s.block c (s.fibre c x).block).part (s.block c (s.fibre c x).block).lid = some l →
      l.ending = none → l.stage = .running →
      Gives (.faultReplyRefuse part token) s (fun t => (t.fibre c x).run = .exited ∧
        ∃ m e, t.launch? l.part l.lid = some m ∧ m.ending = some e ∧ e.endCode = 4 ∧
          e.abcode = BitVec.ofNat 16 (0xF000 + f.reason)))) ∧
  (∀ d asid (base : VAddr) (lsize : BitVec 6) s, s.trans.inv = none →
    let busy (t : State) (kind : Nat) : Prop := ∃ i, t.trans.inv = some i ∧ i.kind = kind ∧ SameWork s t ∧
      bitsAt (t.die d).invcmd.toNat 6 2 = kind
    Gives (.invalidateRange d asid base lsize) s (fun t => busy t 0 ∧ ∃ i, t.trans.inv = some i ∧ i.asid = asid ∧
      i.base = base.toNat ∧ i.lsize = (if 12 ≤ lsize.toNat ∧ lsize.toNat ≤ 57 then lsize.toNat else 57)) ∧
    Gives (.invalidateAsid d asid) s (fun t => busy t 1 ∧ ∃ i, t.trans.inv = some i ∧ i.asid = asid) ∧
    Gives (.invalidateAll d) s (fun t => busy t 2) ∧
    Gives (.invalidateHandles d asid) s (fun t => busy t 3 ∧ ∃ i, t.trans.inv = some i ∧ i.asid = asid)) ∧
  (∀ i s, s.trans.inv = some i → Gives .invalidationDone s (fun t => t.trans.inv = none ∧ SameWork s t ∧
    (i.kind = 0 → Dropped t (fun e => e.asid = i.asid ∧ e.base < i.base / 2 ^ i.lsize * 2 ^ i.lsize + 2 ^ i.lsize ∧
      i.base / 2 ^ i.lsize * 2 ^ i.lsize < e.base + 2 ^ e.lsize)) ∧
    (i.kind = 1 → Dropped t (fun e => e.asid = i.asid)) ∧
    (i.kind = 2 → Dropped t (fun _ => True) ∧ t.trans.handleCache = []) ∧
    (i.kind = 3 → ∀ h, h ∈ t.trans.handleCache → h.1 ≠ i.asid))) ∧
  (∀ asid (va : BitVec 64) n s, va.toNat < 2 ^ 57 → 0 < n → va.toNat % 4096 + n ≤ 4096 →
    let answers (t : State) (r : Option (List (BitVec 8))) : Prop := t.trans.dmaReplies = s.trans.dmaReplies ++ [r]
    (∀ a, walked s asid va.toNat .load = some a → s.mem.anyPoison a n = false →
      (∀ e, s.walk asid va.toNat .load = .found e → e.por = false) →
      Gives (.dmaRequest asid va n none) s (fun t => answers t (some (s.mem.read a n)) ∧ t.mem = s.mem)) ∧
    (walked s asid va.toNat .load = none → Gives (.dmaRequest asid va n none) s (fun t => answers t none ∧
      t.mem = s.mem)) ∧
    (∀ a (bs : List (BitVec 8)), bs.length = n → walked s asid va.toNat .store = some a →
      Gives (.dmaRequest asid va n (some bs)) s (fun t => answers t (some []) ∧ t.mem.read a n = bs)) ∧
    (∀ bs : List (BitVec 8), bs.length = n → walked s asid va.toNat .store = none →
      Gives (.dmaRequest asid va n (some bs)) s (fun t => answers t none ∧ t.mem = s.mem))) ∧
  (∀ h a n (bs : List (BitVec 8)) s, h < 32 →
    exec (.applicationCoreAccess h .fence) s = .next s ∧
    (rangePopulated a n = true → exec (.applicationCoreAccess h (.load a n)) s = .next s) ∧
    (rangePopulated a n = false → exec (.applicationCoreAccess h (.load a n)) s = .fault (.unpopulatedAddress a)) ∧
    (rangePopulated a bs.length = true → s.ownRange a = true →
      Gives (.applicationCoreAccess h (.store a bs)) s (fun t => t.mem.read a bs.length = bs ∧
        (∀ b, b < a ∨ a + bs.length ≤ b → t.mem.byte b = s.mem.byte b)))) ∧
  (∀ p a n (bs : List (BitVec 8)) c i d w s, p < 36 → (s.link p).state = 2 →
    let good (t : State) : Prop := t.link p = { s.link p with flitReplays := 0 }
    (rangePopulated a n = true → Gives (.tetherFlitDelivery p (.read a n)) s (fun t => good t ∧ SameWork s t)) ∧
    (rangePopulated a n = false → exec (.tetherFlitDelivery p (.read a n)) s = .fault (.unpopulatedAddress a)) ∧
    (rangePopulated a bs.length = true → Gives (.tetherFlitDelivery p (.write a bs)) s (fun t => good t ∧
      t.mem.read a bs.length = bs ∧ (∀ b, b < a ∨ a + bs.length ≤ b → t.mem.byte b = s.mem.byte b))) ∧
    ((s.core c).holes.getLsbD (i % 64) = false → Gives (.tetherFlitDelivery p (.scrollWord c i d w)) s (fun t =>
      good t ∧ (t.core c).cell (i % 64) (d % 4096) = w ∧ t.mem = s.mem)) ∧
    Gives (.tetherFlitDelivery p .replay) s (fun t => SameWork s t ∧
      (t.link p).flitReplays = min 16 ((s.link p).flitReplays + 1)))

/-- R318, R431 to R437, R446 to R453, R456, R457: an error that the code corrects changes no value and is
counted; another poisons the word in place; lost control state ends the work that depends on it; a failed
product is held for firmware and its core is suspect; a replayed sample that agrees is only counted, another
posts its event; a scan clears the core, and one that fails removes it. -/
def Obligations.Reliability : Prop :=
  (∀ c i d s, c < 784 → i < 64 → d < 4096 → (s.core c).holes.getLsbD i = false →
    Gives (.registerEccError (.cell c i d) true) s (fun t => (t.core c).mem = (s.core c).mem ∧ t.mem = s.mem ∧
      LifeCounted s t c 18) ∧
    Gives (.registerEccError (.cell c i d) false) s (fun t => (t.core c).cell i d = ⟨((s.core c).cell i d).bits, true⟩ ∧
      t.mem = s.mem)) ∧
  (∀ c d e s, c < 784 → d < 18 → e < 4096 →
    Gives (.registerEccError (.tile c d e) false) s (fun t =>
      (t.core c).mem.tile d e = ⟨((s.core c).mem.tile d e).bits, true⟩)) ∧
  (∀ c f r i s, (s.fibre c f).resident = true → r < 48 → i < 64 →
    (s.block c (s.fibre c f).block).inWindow r = false →
    Gives (.registerEccError (.laneReg c f r i) false) s (fun t =>
      Tab.get PW.zero (t.fibre c f).regs.v (64 * r + i) =
        ⟨(Tab.get PW.zero (s.fibre c f).regs.v (64 * r + i)).bits, true⟩) ∧
    Gives (.registerEccError (.laneReg c f r i) true) s (fun t => t.fibre c f = s.fibre c f ∧ LifeCounted s t c 17)) ∧
  (∀ c f b s l, (s.fibre c f).resident = true → (s.fibre c f).block = b → (s.block c b).role = .ordinary →
    (s.block c b).stage ≠ .empty → s.launch? (s.block c b).part (s.block c b).lid = some l → l.ending = none →
    l.stage = .running →
    let ends (t : State) (code : Nat) : Prop := (t.fibre c f).run = .exited ∧
      ∃ m e, t.launch? l.part l.lid = some m ∧ m.ending = some e ∧ e.endCode = 4 ∧ e.abcode = BitVec.ofNat 16 code
    Gives (.uncorrectableControlError (.parcel c f)) s (fun t => ends t 0xE001) ∧
    Gives (.uncorrectableControlError (.fibre c f)) s (fun t => ends t 0xE003)) ∧
  (∀ a s, populated a = true → Gives (.scrubVisit a true) s (fun t => t.mem.poisoned a = true ∧
    (∀ b, t.mem.byte b = s.mem.byte b) ∧ (∀ b, b / 32 ≠ a / 32 → t.mem.poisoned b = s.mem.poisoned b) ∧
    exec (.scrubVisit a false) s = .next s)) ∧
  (∀ c a rest s, (s.core c).eng.matrix = a :: rest → a.cmd.op = 0x122 → a.held = false →
    (∀ b ∈ rest, a.seq < b.seq) →
    Gives (.matrixResidueFailure c) s (fun t => (t.core c).eng.matrix.head? = some { a with held := true } ∧
      (t.core c).regs.suspect = true ∧ (t.core c).mem = (s.core c).mem ∧ LifeCounted s t c 25)) ∧
  (∀ part h th r s, s.audit.find? (fun r => r.part == part) = some r → s.hostFits r h = true →
    ((s.core h).mem.replay r).2 = r.crc → Gives (.auditReplay part h th) s (fun t =>
      t.audit.length + 1 = s.audit.length ∧ (t.die (dieOf r.core)).sampled = counted (s.die (dieOf r.core)).sampled ∧
      (t.die (dieOf r.core)).mismatch = (s.die (dieOf r.core)).mismatch ∧ t.mem = s.mem ∧
      t.launches = s.launches)) ∧
  (∀ part h th r s, s.audit.find? (fun r => r.part == part) = some r → s.hostFits r h = true →
    ((s.core h).mem.replay r).2 ≠ r.crc → th ≠ h → th ≠ r.core → th < 784 → (s.core th).eng.matrix = [] →
    Gives (.auditReplay part h th) s (fun t => t.audit.length + 1 = s.audit.length ∧
      (t.die (dieOf r.core)).mismatch = counted (s.die (dieOf r.core)).mismatch ∧
      (((s.core th).mem.replay r).2 = ((s.core h).mem.replay r).2 → (t.core r.core).regs.suspect = true) ∧
      (((s.core th).mem.replay r).2 ≠ ((s.core h).mem.replay r).2 →
        (t.core r.core).regs.suspect = (s.core r.core).regs.suspect))) ∧
  (∀ c s, (s.core c).regs.corectl.getLsbD 2 = false → (∀ e ∈ (s.core c).slots, e.2.bound = false) →
    (s.core c).takenBlocks = [] → (s.core c).scan.state ≠ 1 →
    Gives (.scanStart c) s (fun t => (t.core c).scan.state = 1 ∧ (t.core c).scan.aborted = false ∧
      (t.core c).mem = (s.core c).mem)) ∧
  (∀ c s, (s.core c).scan.state = 1 →
    Gives (.scanAbort c) s (fun t => (t.core c).scan.state = 0 ∧ (t.core c).scan.aborted = true ∧
      Cleared (t.core c) ∧ (t.core c).regs.corectl.getLsbD 2 = true) ∧
    Gives (.scanComplete c s.rot.config.scanSig) s (fun t => (t.core c).scan.state = 2 ∧ Cleared (t.core c) ∧
      (t.core c).regs.suspect = false ∧ (t.core c).enabled = (s.core c).enabled) ∧
    ∀ sig, sig ≠ s.rot.config.scanSig → Gives (.scanComplete c sig) s (fun t => (t.core c).scan.state = 3 ∧
      (t.core c).scan.sig = sig ∧ Cleared (t.core c) ∧ (t.core c).enabled = false ∧
      .removal c ∈ t.rot.lifeLog)) ∧
  (∀ c f s, (s.core c).scan.state = 1 → Gives (.scanAbort c) s (fun t => (t.fibre c f).resident = false)) ∧
  (∀ s, Gives .lifeLogAppend s (fun t => SameWork s t ∧ ∃ cs bs, t.rot.lifeLog.getLast? =
    some (.counters s.time s.rot.boots cs bs))) ∧
  (∀ c s, Gives (.supplyDroopEvent c) s (fun t => LifeCounted s t c 16 ∧ t.mem = s.mem)) ∧
  (∀ c celsius s, 20 ≤ celsius → Gives (.lifetimeCounterTick c celsius false) s (fun t =>
    LifeCounted s t c (min 15 ((celsius - 20) / 5)) ∧ t.mem = s.mem))

/-- R438 to R445, R459 to R461: what the logic of a pair does between its copies. A value on its way reaches
the trail; entries that agree are released once and counted; entries that differ restore both copies, and
after a second difference at the same place the launch ends with 0xE101; a checkpoint keeps both copies'
states and holds them until it is complete. -/
def Obligations.PairEvents : Prop :=
  ∀ (p : Nat) (s : State), let q := s.pair p
    (∀ e rest, q.lvq = e :: rest → e.kind ≠ .once → Gives (.loadValueForward p) s (fun t =>
      t.pair p = { q with lvq := rest, ready := q.ready ++ [e] } ∧ SameWork s t)) ∧
    (∀ a b, q.busy = false → q.leadBuf = [a] → q.trailBuf = [b] → a.fib = b.fib →
      (a.sig = b.sig → a.once = none → q.lead.1 ≠ q.trail.1 → Gives (.compareDecision p) s (fun t =>
        (t.pair p).leadBuf = [] ∧ (t.pair p).trailBuf = [] ∧
        Tab.get 0 (t.pair p).index a.fib = Tab.get 0 q.index a.fib + 1 ∧
        (t.core q.lead.1).regs.matched = counted (s.core q.lead.1).regs.matched ∧
        t.mem.cells = (a.puts.foldl Memory.apply s.mem).cells)) ∧
      (a.sig ≠ b.sig → q.mismatched ≠ some (a.fib, Tab.get 0 q.index a.fib) → Gives (.compareDecision p) s (fun t =>
        (t.pair p).busy = true ∧ (t.pair p).restoring = true ∧ (t.pair p).leadBuf = [] ∧ (t.pair p).trailBuf = [] ∧
        (t.pair p).mismatched = some (a.fib, Tab.get 0 q.index a.fib) ∧ t.mem = s.mem)) ∧
      (∀ f l, a.sig ≠ b.sig → q.mismatched = some (a.fib, Tab.get 0 q.index a.fib) →
        s.copyFibre q.lead a.fib = some f → (s.block q.lead.1 (s.fibre q.lead.1 f).block).role = .lead p →
        s.launch? (s.block q.lead.1 (s.fibre q.lead.1 f).block).part
          (s.block q.lead.1 (s.fibre q.lead.1 f).block).lid = some l → l.ending = none → l.stage = .running →
        Gives (.compareDecision p) s (fun t => ∃ m e, t.launch? l.part l.lid = some m ∧ m.ending = some e ∧
          e.endCode = 4 ∧ e.abcode = 0xE101))) ∧
    (q.busy = false → (q.snap = [] ∨ q.forced = true ∨ 1000 * q.interval ≤ s.time.toNat - q.lastCkpt) →
      s.pairAligned q = true → s.pairQuiet q = true → Gives (.checkpoint p) s (fun t =>
        (t.pair p).busy = true ∧ (t.pair p).forced = false ∧ (t.pair p).snap.length = 2 ∧
        (t.pair p).lastCkpt = s.time.toNat ∧ (t.pair p).mismatched = none ∧ t.mem = s.mem)) ∧
    (q.busy = true → q.restoring = false → Gives (.checkpointComplete p) s (fun t => (t.pair p).busy = false ∧
      t.mem = s.mem)) ∧
    (q.restoring = true → Gives (.pairRestoreDone p) s (fun t => (t.pair p).busy = false ∧
      (t.pair p).restoring = false ∧ t.mem = s.mem)) ∧
    (∀ c f, s.side c f = .lead p → s.pairSettled p = true → (s.fibre c f).handler = none →
      (∀ n, n < 16 → ((s.fibre c f).quad n).ended = true ∨ (((s.fibre c f).quad n).wait = .heldExit ∧
        ((s.fibre c f).quad n).stack = [])) →
      (∃ n, n < 16 ∧ ((s.fibre c f).quad n).wait = .heldExit) → (∀ e ∈ (s.fibre c f).quads, e.1 < 16) →
      Tab.sortedFrom none (s.fibre c f).quads = true →
      Gives (.heldExit c f) s (fun t => (t.fibre c f).run = .exited ∧ t.mem = s.mem))

/-- R4, R427, R454, R455, R466, R469 to R474: a cold boot measures the images and brings up the enabled sites
with their holes, or stays in recovery; a warm reset ends every running launch, clears the cores, retrains
the links and is reported; a cold reset and a thermal trip lose everything but the flash; requests of SPDM are
answered. -/
def Obligations.BootAndReset : Prop :=
  (∀ s, s.rot.phase = .off → (s.rot.copy0.signatureOk = true ∨ s.rot.copy1.signatureOk = true) →
    (∀ n, n = 1 ∨ n = 3 ∨ n = 4 → ∃ d, s.rot.images.find? (fun e => e.1 == n && e.2.1) = some (n, true, d)) →
    Gives .coldBoot s (fun t => t.rot.phase = .running ∧ t.rot.boots = s.rot.boots + 1 ∧
      t.rot.measured.map (fun e => e.1) = [1, 2, 3, 4] ∧ t.mem = s.mem ∧
      (∀ c, c < 784 → (t.core c).enabled = (!s.rot.config.disabled.contains c && !(removedSites s.rot.lifeLog).contains c)) ∧
      (∀ c, (t.core c).enabled = true → (t.core c).holes = s.rot.config.holesAt c ∧ (t.core c).fibres = [] ∧
        (t.core c).blocks = []) ∧
      (∀ n, n < 36 → (t.link n).state = 2 ∧ (t.link n).en = true) ∧
      t.device = BitVec.ofNat 11 s.rot.config.device)) ∧
  (∀ s, s.rot.phase = .off → s.rot.copy0.signatureOk = false → s.rot.copy1.signatureOk = false →
    Gives .coldBoot s (fun t => t.rot.phase = .recovery ∧ t.rot.measured = [] ∧ SameWork s t)) ∧
  (∀ s, Gives .watchdogExpiry s (fun t => t.warm.requested = true ∧ SameWork s t)) ∧
  (∀ s, s.rot.phase = .running → Gives .warmResetRequest s (fun t => t.warm.requested = true ∧ SameWork s t)) ∧
  (∀ (touched : List (BitVec 16)) s, s.rot.phase = .running → s.warm.active = false →
    Gives (.warmReset touched) s (fun t => t.warm.active = true ∧ t.warm.requested = false ∧ t.mem = s.mem ∧
      t.pairs = [] ∧ t.rwrs = [] ∧ (∀ c, Tab.get [] t.trans.coreTlb c = []) ∧
      (∀ c, (s.core c).enabled = true → (t.core c).fibres = [] ∧ (t.core c).blocks = [] ∧
        (t.core c).mem = CoreMem.empty ∧ (t.core c).enabled = true ∧ (t.core c).holes = (s.core c).holes) ∧
      (∀ n, (s.link n).en = true → (t.link n).state = 1) ∧
      (∀ l, l ∈ s.launches → s.launch? l.part l.lid = some l → l.stage = .running → l.ending = none →
        ∃ m e, t.launch? l.part l.lid = some m ∧ m.ending = some e ∧ e.endCode = 4 ∧
          e.abcode = (if l.ctx ∈ touched then 0xE201 else 0xE200)))) ∧
  (∀ s, s.warm.active = true → Gives .warmResetResume s (fun t => t.warm.active = false ∧
    t.warm.reportContexts = s.warm.touched ∧ t.mem = s.mem ∧
    (∀ n, (s.link n).state = 1 → (t.link n).state = 2) ∧
    (∀ c, (s.core c).enabled = true → (t.core c).regs.corectl = 4))) ∧
  (∀ s, Gives .coldResetRequest s (fun t => Lost s t ∧ t.rot.lifeLog = s.rot.lifeLog)) ∧
  (∀ celsius s, 115 ≤ celsius → Gives (.thermalTrip celsius) s (fun t => Lost s t ∧
    t.rot.lifeLog.getLast? = some (.trip s.time))) ∧
  (∀ doe s, (s.rot.phase = .running ∨ (s.rot.phase = .recovery ∧ doe = false)) → (doe = true → s.rot.config.endpoint = true) →
    let answers (i : Instr) (listed : List (Nat × BitVec 384)) (P : RootOfTrust → Prop) : Prop :=
      Gives i s (fun t => P t.rot ∧ SameWork s t ∧ ∃ code, t.rot.responses = s.rot.responses ++ [(code, doe, listed)])
    answers (.getVersion doe) [] (fun r => r.version = true) ∧
    answers (.getCapabilities doe) [] (fun r => r.capabilities = true) ∧
    answers (.negotiateAlgorithms doe) [] (fun r => r.algorithms = true) ∧
    answers (.getDigests doe) [] (fun _ => True) ∧ answers (.getCertificate doe) [] (fun _ => True) ∧
    (∀ nonce, answers (.challenge doe nonce) s.rot.measured (fun _ => True)) ∧
    answers (.getMeasurements doe) s.rot.measured (fun _ => True)) ∧
  (∀ doe s, (s.rot.phase = .off ∨ (doe = true ∧ s.rot.phase = .recovery)) → exec (.getMeasurements doe) s = .next s)

/-- R175: `nop` has one word, issues and has no effect but that the gang goes on. -/
def Obligations.NopHasNoEffect : Prop :=
  (∀ w : Word, decode [w] = .instr .nop ↔ w = 0x24000000) ∧
  (∀ s : State, Gives .nop s (fun t => SameRegs s t [] ∧ SameOutside s t ∧ Advanced s t 1))

/-- R162: `sclz` writes the number of leading zero bits of its W-bit operand, W for zero, and `spopc` the
number of its one bits, both extended with zeros; SB, COND and U are zero. -/
def Obligations.LeadingZerosAndOnes : Prop :=
  (∀ (f : ScalarReg) (s : State), (s.cur.scalar f.sa.toNat).poison = false →
    let a := (s.cur.scalar f.sa.toNat).bits.setWidth (widthOf f.fn)
    exec (.sclz f) s = .next (s.putScalar (.sclz f) f.sd (a.clz.setWidth 64)) ∧
    exec (.spopc f) s = .next (s.putScalar (.spopc f) f.sd
      (BitVec.ofNat 64 ((List.range (widthOf f.fn)).countP (fun j => a.getLsbD j))))) ∧
  (∀ w : Nat, (0 : BitVec w).clz = BitVec.ofNat w w) ∧
  (∀ (f : ScalarReg), ((Instr.sclz f).wf = true ∨ (Instr.spopc f).wf = true) →
    f.sb = 0 ∧ f.fn.extractLsb' 2 4 = 0)

/-- R97: `ARRIVALS` counts the remote writes into a fibre, one for each, and holds at 0xFFFF; `arrc` reads and
resets it, `await` waits on it, and `mts` may not write it. -/
def Obligations.ArrivalsCount : Prop :=
  (∀ s r rest c b fib, s.rwrs = r :: rest → s.planeCore r.part r.lid r.cx r.cy = some (c, b) →
    (s.core c).fibreAt b r.bslot r.index = some fib → (∀ k, (s.core c).regs.laneTarget fib k = none) →
    Gives (.rwrDelivery 0) s (fun t => (t.fibre c fib).sys.arrivals =
      (if (s.fibre c fib).sys.arrivals = 0xFFFF then 0xFFFF else (s.fibre c fib).sys.arrivals + 1))) ∧
  (∀ f s, Gives (.arrc f) s (fun t => t.cur.sys.arrivals = 0 ∧
    (f.vd ≠ 0 → t.cur.scalar f.vd.toNat = ⟨s.cur.sys.arrivals.setWidth 64, false⟩))) ∧
  (∀ f s, (s.cur.scalar f.va.toNat).poison = false →
    let n := (s.cur.scalar f.va.toNat).bits.extractLsb' 0 16
    (n.toNat ≤ s.cur.sys.arrivals.toNat → exec (.await f) s = .next (s.retire (.await f))) ∧
    (s.cur.sys.arrivals.toNat < n.toNat → exec (.await f) s = .next (s.wait (.arrivals n.toNat)))) ∧
  (∀ f s, f.imm = 0x017 → exec (.mts f) s = .next (s.trap 0x08 0 (.mts f)))

/-- R292: `azero` sets every entry of its tile to zero and clears its quarter mark; it touches no other tile, so
that a pair needs one for each. -/
def Obligations.AzeroClearsTile : Prop :=
  (∀ f, (Instr.azero f).form = .lane 0x123 f (Shape.azero f)) ∧
  ∀ (c f : Nat) (cmd : Command) (s : State), Front s c f 0 cmd → cmd.op = 0x123 → Closes s c f 0 cmd →
    (s.core c).tilesFree [cmd.vd] = true →
    Gives (.engineAccept c f 0) s (fun t => (t.core c).mem.marks.getLsbD cmd.vd = false ∧
      (∀ n, n < 4096 → (t.core c).mem.tile cmd.vd n = PW.zero) ∧
      (∀ d n, d ≠ cmd.vd → n < 4096 → (t.core c).mem.tile d n = (s.core c).mem.tile d n))

/-- R389: a partition has 64 launch queues, each of at most 32 accepted launches in order of acceptance; a
launch id holds the queue number in bits [31:26] and in bits [25:0] a count of the queue that starts at 1 and
wraps from 2^26 − 1 to 1. -/
def Obligations.LaunchIds : Prop :=
  LaunchQueue.empty.count = 0 ∧
  ∀ (part q : Nat) (address : BitVec 64) (fw : Bool) (s : State),
    let lq := (s.partition part).queue q
    (64 ≤ q → exec (.launchDoorbell part q address fw) s = .next s) ∧
    (q < 64 → part < 8 → s.rot.phase = .running → 32 ≤ lq.ids.length →
      Gives (.launchDoorbell part q address fw) s (fun t =>
        ((t.partition part).queue q).ids = lq.ids ∧ ((t.partition part).queue q).count = lq.count)) ∧
    (q < 64 → part < 8 → s.rot.phase = .running → lq.ids.length < 32 → lq.count < 2 ^ 26 →
      s.rejection part (s.driverCtx part) ((List.range 16).map (fun k =>
        BitVec.ofNat 64 (s.mem.num (address.toNat % 2 ^ 52 + 8 * k) 8))) fw = none →
      Gives (.launchDoorbell part q address fw) s (fun t => ∃ id : BitVec 32,
        ((t.partition part).queue q).ids = lq.ids ++ [id] ∧ (id.extractLsb' 26 6).toNat = q ∧
        (id.extractLsb' 0 26).toNat = (if lq.count = 2 ^ 26 - 1 then 1 else lq.count + 1)))
end

