-- ==== Sys2Proof/Laws/Tab.lean ====
section
/-! SUPPORT. Laws of sparse tables: what a read gives after a write, and that writes keep the canonical
form. -/

namespace Sys2Proof.Machine.Tab

variable {α : Type}

/-! ### Reads after writes -/

@[simp] theorem get_nil (d : α) (n : Nat) : get d [] n = d := rfl

theorem get_cons (d : α) (k : Nat) (v : α) (rest : Tab α) (n : Nat) :
    get d ((k, v) :: rest) n = if n = k then v else get d rest n := rfl

theorem get_insert (d : α) (t : Tab α) (n m : Nat) (x : α) :
    get d (insert n x t) m = if m = n then x else get d t m := by
  induction t with
  | nil => rfl
  | cons e rest ih =>
    obtain ⟨k, v⟩ := e
    unfold insert
    split
    · rfl
    · split
      · subst_vars; simp only [get_cons]; split <;> rfl
      · rename_i h1 h2
        simp only [get_cons, ih]
        by_cases h : m = k
        · have : m ≠ n := by omega
          simp [h]; omega
        · simp [h]

theorem get_drop (d : α) (t : Tab α) (n m : Nat) : get d (drop n t) m = if m = n then d else get d t m := by
  induction t with
  | nil => simp [drop]
  | cons e rest ih =>
    obtain ⟨k, v⟩ := e
    unfold drop
    split
    · subst_vars; rw [ih, get_cons]; split <;> simp_all
    · rename_i h
      simp only [get_cons, ih]
      by_cases hm : m = k
      · have : m ≠ n := by omega
        simp [hm]; omega
      · simp [hm]

/-- A read after a write: the value written, and every other key as before. -/
theorem get_set [DecidableEq α] (d : α) (t : Tab α) (n m : Nat) (x : α) :
    get d (set d t n x) m = if m = n then x else get d t m := by
  unfold set
  split
  · rename_i h; rw [get_drop, h]
  · rw [get_insert]

@[simp] theorem get_set_same [DecidableEq α] (d : α) (t : Tab α) (n : Nat) (x : α) : get d (set d t n x) n = x := by
  simp [get_set]
theorem get_set_other [DecidableEq α] (d : α) (t : Tab α) {n m : Nat} (x : α) (h : m ≠ n) :
    get d (set d t n x) m = get d t m := by
  simp [get_set, h]

/-- The last value written to a key stands. -/
theorem get_setAll [DecidableEq α] (d : α) (es : List (Nat × α)) (t : Tab α) (m : Nat) :
    get d (setAll d t es) m = ((es.reverse.find? (fun e => e.1 == m)).map (fun e => e.2)).getD (get d t m) := by
  induction es generalizing t with
  | nil => rfl
  | cons e rest ih =>
    obtain ⟨n, x⟩ := e
    rw [setAll, ih, get_set, List.reverse_cons, List.find?_append]
    cases h : rest.reverse.find? (fun e => e.1 == m) with
    | some y => simp
    | none =>
      by_cases hm : m = n
      · subst hm; simp
      · have : (n == m) = false := by simp; omega
        simp [this, hm]
theorem get_setAll_other [DecidableEq α] (d : α) (es : List (Nat × α)) (t : Tab α) {m : Nat}
    (h : ∀ e ∈ es, e.1 ≠ m) : get d (setAll d t es) m = get d t m := by
  induction es generalizing t with
  | nil => rfl
  | cons e rest ih =>
    obtain ⟨n, x⟩ := e
    rw [setAll, ih _ (fun e he => h e (List.mem_cons_of_mem _ he)), get_set]
    have := h (n, x) List.mem_cons_self
    simp only [ite_eq_right_iff]
    intro h2; exact absurd h2.symm this

/-! ### The canonical form -/

theorem sortedFrom_weaken {t : Tab α} {n : Nat} {o : Option Nat} (ho : ∀ m, o = some m → m ≤ n)
    (h : sortedFrom (some n) t = true) : sortedFrom o t = true := by
  cases t with
  | nil => cases o <;> rfl
  | cons e rest =>
    cases o with
    | none => simp_all [sortedFrom]
    | some m =>
      have := ho m rfl
      simp_all [sortedFrom]; omega

theorem sortedFrom_drop {t : Tab α} {n : Nat} {o : Option Nat} (h : sortedFrom o t = true) :
    sortedFrom o (drop n t) = true := by
  induction t generalizing o with
  | nil => cases o <;> rfl
  | cons e rest ih =>
    obtain ⟨k, v⟩ := e
    have h2 : sortedFrom (some k) rest = true := by cases o <;> simp_all [sortedFrom]
    unfold drop
    split
    · exact sortedFrom_weaken (o := o) (fun m hm => by subst hm; simp_all [sortedFrom]; omega) (ih h2)
    · cases o <;> simp_all [sortedFrom]

theorem sortedFrom_insert {t : Tab α} {n : Nat} {x : α} {o : Option Nat} (ho : ∀ m, o = some m → m < n)
    (h : sortedFrom o t = true) : sortedFrom o (insert n x t) = true := by
  induction t generalizing o with
  | nil => cases o <;> simp_all [insert, sortedFrom]
  | cons e rest ih =>
    obtain ⟨k, v⟩ := e
    have h2 : sortedFrom (some k) rest = true := by cases o <;> simp_all [sortedFrom]
    unfold insert
    split
    · cases o <;> simp_all [sortedFrom]
    · split
      · subst_vars; cases o <;> simp_all [sortedFrom]
      · have h3 := ih (o := some k) (fun m hm => by cases hm; omega) h2
        cases o <;> simp_all [sortedFrom]

theorem mem_drop {t : Tab α} {n : Nat} {e : Nat × α} (h : e ∈ drop n t) : e ∈ t ∧ e.1 ≠ n := by
  induction t with
  | nil => simp [drop] at h
  | cons a rest ih =>
    obtain ⟨k, v⟩ := a
    unfold drop at h
    split at h
    · exact ⟨List.mem_cons_of_mem _ (ih h).1, (ih h).2⟩
    · rcases List.mem_cons.mp h with rfl | h2
      · exact ⟨List.mem_cons_self, by simp; omega⟩
      · exact ⟨List.mem_cons_of_mem _ (ih h2).1, (ih h2).2⟩

theorem mem_insert {t : Tab α} {n : Nat} {x : α} {e : Nat × α} (h : e ∈ insert n x t) : e = (n, x) ∨ e ∈ t := by
  induction t with
  | nil => simp [insert] at h; exact Or.inl h
  | cons a rest ih =>
    obtain ⟨k, v⟩ := a
    unfold insert at h
    split at h
    · simpa using h
    · split at h
      · rcases List.mem_cons.mp h with rfl | h2
        · exact Or.inl rfl
        · exact Or.inr (List.mem_cons_of_mem _ h2)
      · rcases List.mem_cons.mp h with rfl | h2
        · exact Or.inr List.mem_cons_self
        · exact (ih h2).imp id (List.mem_cons_of_mem _)

@[simp] theorem wf_nil [DecidableEq α] (d : α) : wf d ([] : Tab α) = true := rfl

/-- A write keeps the canonical form. -/
theorem wf_set [DecidableEq α] {d : α} {t : Tab α} (n : Nat) (x : α) (h : wf d t = true) :
    wf d (set d t n x) = true := by
  simp only [wf, Bool.and_eq_true, List.all_eq_true, Bool.not_eq_true', decide_eq_false_iff_not] at h ⊢
  unfold set
  split
  · exact ⟨sortedFrom_drop h.1, fun e he => h.2 e (mem_drop he).1⟩
  · rename_i hx
    refine ⟨sortedFrom_insert (fun m hm => by cases hm) h.1, fun e he => ?_⟩
    rcases mem_insert he with rfl | h2
    · exact hx
    · exact h.2 e h2

theorem wf_setAll [DecidableEq α] {d : α} (es : List (Nat × α)) {t : Tab α} (h : wf d t = true) :
    wf d (setAll d t es) = true := by
  induction es generalizing t with
  | nil => exact h
  | cons e rest ih => exact ih (wf_set e.1 e.2 h)

theorem get_of_sorted {d : α} {t : Tab α} {n m : Nat} (h : sortedFrom (some n) t = true) (hm : m ≤ n) :
    get d t m = d := by
  induction t generalizing n with
  | nil => rfl
  | cons e rest ih =>
    obtain ⟨k, v⟩ := e
    simp only [sortedFrom, Bool.and_eq_true, decide_eq_true_eq] at h
    have : m ≠ k := by omega
    simp only [get_cons, this, if_false]
    exact ih h.2 (by omega)

/-- A table in canonical form lists exactly the keys that do not read the default. -/
theorem get_of_mem [DecidableEq α] {d : α} {t : Tab α} {e : Nat × α} (h : wf d t = true) (he : e ∈ t) :
    get d t e.1 = e.2 ∧ e.2 ≠ d := by
  simp only [wf, Bool.and_eq_true, List.all_eq_true, Bool.not_eq_true', decide_eq_false_iff_not] at h
  refine ⟨?_, h.2 e he⟩
  have hs := h.1
  clear h
  induction t with
  | nil => cases he
  | cons a rest ih =>
    obtain ⟨k, v⟩ := a
    have hr : sortedFrom (some k) rest = true := hs
    rcases List.mem_cons.mp he with rfl | h2
    · simp [get_cons]
    · have hk : k < e.1 := by
        have hg : ∀ (r : Tab α) (k : Nat), sortedFrom (some k) r = true → ∀ e ∈ r, k < e.1 := by
          intro r
          induction r with
          | nil => intro _ _ e he; cases he
          | cons a r ih2 =>
            intro k h e he
            simp only [sortedFrom, Bool.and_eq_true, decide_eq_true_eq] at h
            rcases List.mem_cons.mp he with rfl | h3
            · exact h.1
            · exact Nat.lt_trans h.1 (ih2 a.1 h.2 e h3)
        exact hg rest k hr e h2
      have : e.1 ≠ k := by omega
      simp only [get_cons, this, if_false]
      exact ih h2 (sortedFrom_weaken (o := none) (n := k) (fun m hm => by cases hm) hr)

end Sys2Proof.Machine.Tab
end

