-- ==== Sys2Proof/Laws/State.lean ====
section
/-! SUPPORT. What each update of the state leaves alone, field by field, and what a read gives after a write of
the same core site, fibre, block, slot or register. -/

namespace Sys2Proof.Machine

/-! ### Fields that an update leaves alone -/

@[simp] theorem State.setDie_cores (s : State) (d : Nat) (x : DieRegs) : (s.setDie d x).cores = s.cores := rfl
@[simp] theorem State.setDie_clusters (s : State) (d : Nat) (x : DieRegs) : (s.setDie d x).clusters = s.clusters := rfl
@[simp] theorem State.setDie_links (s : State) (d : Nat) (x : DieRegs) : (s.setDie d x).links = s.links := rfl
@[simp] theorem State.setDie_mem (s : State) (d : Nat) (x : DieRegs) : (s.setDie d x).mem = s.mem := rfl
@[simp] theorem State.setDie_trans (s : State) (d : Nat) (x : DieRegs) : (s.setDie d x).trans = s.trans := rfl
@[simp] theorem State.setDie_launches (s : State) (d : Nat) (x : DieRegs) : (s.setDie d x).launches = s.launches := rfl
@[simp] theorem State.setDie_partitions (s : State) (d : Nat) (x : DieRegs) : (s.setDie d x).partitions = s.partitions := rfl
@[simp] theorem State.setDie_asc (s : State) (d : Nat) (x : DieRegs) : (s.setDie d x).asc = s.asc := rfl
@[simp] theorem State.setDie_pairs (s : State) (d : Nat) (x : DieRegs) : (s.setDie d x).pairs = s.pairs := rfl
@[simp] theorem State.setDie_audit (s : State) (d : Nat) (x : DieRegs) : (s.setDie d x).audit = s.audit := rfl
@[simp] theorem State.setDie_rot (s : State) (d : Nat) (x : DieRegs) : (s.setDie d x).rot = s.rot := rfl
@[simp] theorem State.setDie_warm (s : State) (d : Nat) (x : DieRegs) : (s.setDie d x).warm = s.warm := rfl
@[simp] theorem State.setDie_rwrs (s : State) (d : Nat) (x : DieRegs) : (s.setDie d x).rwrs = s.rwrs := rfl
@[simp] theorem State.setDie_savedFibres (s : State) (d : Nat) (x : DieRegs) : (s.setDie d x).savedFibres = s.savedFibres := rfl
@[simp] theorem State.setDie_savedBlocks (s : State) (d : Nat) (x : DieRegs) : (s.setDie d x).savedBlocks = s.savedBlocks := rfl
@[simp] theorem State.setDie_time (s : State) (d : Nat) (x : DieRegs) : (s.setDie d x).time = s.time := rfl
@[simp] theorem State.setDie_cycle (s : State) (d : Nat) (x : DieRegs) : (s.setDie d x).cycle = s.cycle := rfl
@[simp] theorem State.setDie_device (s : State) (d : Nat) (x : DieRegs) : (s.setDie d x).device = s.device := rfl
@[simp] theorem State.setDie_torusW (s : State) (d : Nat) (x : DieRegs) : (s.setDie d x).torusW = s.torusW := rfl
@[simp] theorem State.setDie_torusH (s : State) (d : Nat) (x : DieRegs) : (s.setDie d x).torusH = s.torusH := rfl
@[simp] theorem State.setDie_powerLimit (s : State) (d : Nat) (x : DieRegs) : (s.setDie d x).powerLimit = s.powerLimit := rfl
@[simp] theorem State.setDie_schedule (s : State) (d : Nat) (x : DieRegs) : (s.setDie d x).schedule = s.schedule := rfl
@[simp] theorem State.setDie_granted (s : State) (d : Nat) (x : DieRegs) : (s.setDie d x).granted = s.granted := rfl
@[simp] theorem State.setDie_focus (s : State) (d : Nat) (x : DieRegs) : (s.setDie d x).focus = s.focus := rfl
@[simp] theorem State.setDie_choices (s : State) (d : Nat) (x : DieRegs) : (s.setDie d x).choices = s.choices := rfl
@[simp] theorem State.setDie_fresh (s : State) (d : Nat) (x : DieRegs) : (s.setDie d x).fresh = s.fresh := rfl

@[simp] theorem State.setCluster_cores (s : State) (k : Nat) (x : Cluster) : (s.setCluster k x).cores = s.cores := rfl
@[simp] theorem State.setCluster_dies (s : State) (k : Nat) (x : Cluster) : (s.setCluster k x).dies = s.dies := rfl
@[simp] theorem State.setCluster_links (s : State) (k : Nat) (x : Cluster) : (s.setCluster k x).links = s.links := rfl
@[simp] theorem State.setCluster_mem (s : State) (k : Nat) (x : Cluster) : (s.setCluster k x).mem = s.mem := rfl
@[simp] theorem State.setCluster_trans (s : State) (k : Nat) (x : Cluster) : (s.setCluster k x).trans = s.trans := rfl
@[simp] theorem State.setCluster_launches (s : State) (k : Nat) (x : Cluster) : (s.setCluster k x).launches = s.launches := rfl
@[simp] theorem State.setCluster_partitions (s : State) (k : Nat) (x : Cluster) : (s.setCluster k x).partitions = s.partitions := rfl
@[simp] theorem State.setCluster_asc (s : State) (k : Nat) (x : Cluster) : (s.setCluster k x).asc = s.asc := rfl
@[simp] theorem State.setCluster_pairs (s : State) (k : Nat) (x : Cluster) : (s.setCluster k x).pairs = s.pairs := rfl
@[simp] theorem State.setCluster_audit (s : State) (k : Nat) (x : Cluster) : (s.setCluster k x).audit = s.audit := rfl
@[simp] theorem State.setCluster_rot (s : State) (k : Nat) (x : Cluster) : (s.setCluster k x).rot = s.rot := rfl
@[simp] theorem State.setCluster_warm (s : State) (k : Nat) (x : Cluster) : (s.setCluster k x).warm = s.warm := rfl
@[simp] theorem State.setCluster_rwrs (s : State) (k : Nat) (x : Cluster) : (s.setCluster k x).rwrs = s.rwrs := rfl
@[simp] theorem State.setCluster_savedFibres (s : State) (k : Nat) (x : Cluster) : (s.setCluster k x).savedFibres = s.savedFibres := rfl
@[simp] theorem State.setCluster_savedBlocks (s : State) (k : Nat) (x : Cluster) : (s.setCluster k x).savedBlocks = s.savedBlocks := rfl
@[simp] theorem State.setCluster_time (s : State) (k : Nat) (x : Cluster) : (s.setCluster k x).time = s.time := rfl
@[simp] theorem State.setCluster_cycle (s : State) (k : Nat) (x : Cluster) : (s.setCluster k x).cycle = s.cycle := rfl
@[simp] theorem State.setCluster_device (s : State) (k : Nat) (x : Cluster) : (s.setCluster k x).device = s.device := rfl
@[simp] theorem State.setCluster_torusW (s : State) (k : Nat) (x : Cluster) : (s.setCluster k x).torusW = s.torusW := rfl
@[simp] theorem State.setCluster_torusH (s : State) (k : Nat) (x : Cluster) : (s.setCluster k x).torusH = s.torusH := rfl
@[simp] theorem State.setCluster_powerLimit (s : State) (k : Nat) (x : Cluster) : (s.setCluster k x).powerLimit = s.powerLimit := rfl
@[simp] theorem State.setCluster_schedule (s : State) (k : Nat) (x : Cluster) : (s.setCluster k x).schedule = s.schedule := rfl
@[simp] theorem State.setCluster_granted (s : State) (k : Nat) (x : Cluster) : (s.setCluster k x).granted = s.granted := rfl
@[simp] theorem State.setCluster_focus (s : State) (k : Nat) (x : Cluster) : (s.setCluster k x).focus = s.focus := rfl
@[simp] theorem State.setCluster_choices (s : State) (k : Nat) (x : Cluster) : (s.setCluster k x).choices = s.choices := rfl
@[simp] theorem State.setCluster_fresh (s : State) (k : Nat) (x : Cluster) : (s.setCluster k x).fresh = s.fresh := rfl

@[simp] theorem State.setLink_cores (s : State) (n : Nat) (x : Link) : (s.setLink n x).cores = s.cores := rfl
@[simp] theorem State.setLink_dies (s : State) (n : Nat) (x : Link) : (s.setLink n x).dies = s.dies := rfl
@[simp] theorem State.setLink_clusters (s : State) (n : Nat) (x : Link) : (s.setLink n x).clusters = s.clusters := rfl
@[simp] theorem State.setLink_mem (s : State) (n : Nat) (x : Link) : (s.setLink n x).mem = s.mem := rfl
@[simp] theorem State.setLink_trans (s : State) (n : Nat) (x : Link) : (s.setLink n x).trans = s.trans := rfl
@[simp] theorem State.setLink_launches (s : State) (n : Nat) (x : Link) : (s.setLink n x).launches = s.launches := rfl
@[simp] theorem State.setLink_partitions (s : State) (n : Nat) (x : Link) : (s.setLink n x).partitions = s.partitions := rfl
@[simp] theorem State.setLink_asc (s : State) (n : Nat) (x : Link) : (s.setLink n x).asc = s.asc := rfl
@[simp] theorem State.setLink_pairs (s : State) (n : Nat) (x : Link) : (s.setLink n x).pairs = s.pairs := rfl
@[simp] theorem State.setLink_audit (s : State) (n : Nat) (x : Link) : (s.setLink n x).audit = s.audit := rfl
@[simp] theorem State.setLink_rot (s : State) (n : Nat) (x : Link) : (s.setLink n x).rot = s.rot := rfl
@[simp] theorem State.setLink_warm (s : State) (n : Nat) (x : Link) : (s.setLink n x).warm = s.warm := rfl
@[simp] theorem State.setLink_rwrs (s : State) (n : Nat) (x : Link) : (s.setLink n x).rwrs = s.rwrs := rfl
@[simp] theorem State.setLink_savedFibres (s : State) (n : Nat) (x : Link) : (s.setLink n x).savedFibres = s.savedFibres := rfl
@[simp] theorem State.setLink_savedBlocks (s : State) (n : Nat) (x : Link) : (s.setLink n x).savedBlocks = s.savedBlocks := rfl
@[simp] theorem State.setLink_time (s : State) (n : Nat) (x : Link) : (s.setLink n x).time = s.time := rfl
@[simp] theorem State.setLink_cycle (s : State) (n : Nat) (x : Link) : (s.setLink n x).cycle = s.cycle := rfl
@[simp] theorem State.setLink_device (s : State) (n : Nat) (x : Link) : (s.setLink n x).device = s.device := rfl
@[simp] theorem State.setLink_torusW (s : State) (n : Nat) (x : Link) : (s.setLink n x).torusW = s.torusW := rfl
@[simp] theorem State.setLink_torusH (s : State) (n : Nat) (x : Link) : (s.setLink n x).torusH = s.torusH := rfl
@[simp] theorem State.setLink_powerLimit (s : State) (n : Nat) (x : Link) : (s.setLink n x).powerLimit = s.powerLimit := rfl
@[simp] theorem State.setLink_schedule (s : State) (n : Nat) (x : Link) : (s.setLink n x).schedule = s.schedule := rfl
@[simp] theorem State.setLink_granted (s : State) (n : Nat) (x : Link) : (s.setLink n x).granted = s.granted := rfl
@[simp] theorem State.setLink_focus (s : State) (n : Nat) (x : Link) : (s.setLink n x).focus = s.focus := rfl
@[simp] theorem State.setLink_choices (s : State) (n : Nat) (x : Link) : (s.setLink n x).choices = s.choices := rfl
@[simp] theorem State.setLink_fresh (s : State) (n : Nat) (x : Link) : (s.setLink n x).fresh = s.fresh := rfl

@[simp] theorem State.setPartition_cores (s : State) (n : Nat) (x : Partition) : (s.setPartition n x).cores = s.cores := rfl
@[simp] theorem State.setPartition_dies (s : State) (n : Nat) (x : Partition) : (s.setPartition n x).dies = s.dies := rfl
@[simp] theorem State.setPartition_clusters (s : State) (n : Nat) (x : Partition) : (s.setPartition n x).clusters = s.clusters := rfl
@[simp] theorem State.setPartition_links (s : State) (n : Nat) (x : Partition) : (s.setPartition n x).links = s.links := rfl
@[simp] theorem State.setPartition_mem (s : State) (n : Nat) (x : Partition) : (s.setPartition n x).mem = s.mem := rfl
@[simp] theorem State.setPartition_trans (s : State) (n : Nat) (x : Partition) : (s.setPartition n x).trans = s.trans := rfl
@[simp] theorem State.setPartition_launches (s : State) (n : Nat) (x : Partition) : (s.setPartition n x).launches = s.launches := rfl
@[simp] theorem State.setPartition_asc (s : State) (n : Nat) (x : Partition) : (s.setPartition n x).asc = s.asc := rfl
@[simp] theorem State.setPartition_pairs (s : State) (n : Nat) (x : Partition) : (s.setPartition n x).pairs = s.pairs := rfl
@[simp] theorem State.setPartition_audit (s : State) (n : Nat) (x : Partition) : (s.setPartition n x).audit = s.audit := rfl
@[simp] theorem State.setPartition_rot (s : State) (n : Nat) (x : Partition) : (s.setPartition n x).rot = s.rot := rfl
@[simp] theorem State.setPartition_warm (s : State) (n : Nat) (x : Partition) : (s.setPartition n x).warm = s.warm := rfl
@[simp] theorem State.setPartition_rwrs (s : State) (n : Nat) (x : Partition) : (s.setPartition n x).rwrs = s.rwrs := rfl
@[simp] theorem State.setPartition_savedFibres (s : State) (n : Nat) (x : Partition) : (s.setPartition n x).savedFibres = s.savedFibres := rfl
@[simp] theorem State.setPartition_savedBlocks (s : State) (n : Nat) (x : Partition) : (s.setPartition n x).savedBlocks = s.savedBlocks := rfl
@[simp] theorem State.setPartition_time (s : State) (n : Nat) (x : Partition) : (s.setPartition n x).time = s.time := rfl
@[simp] theorem State.setPartition_cycle (s : State) (n : Nat) (x : Partition) : (s.setPartition n x).cycle = s.cycle := rfl
@[simp] theorem State.setPartition_device (s : State) (n : Nat) (x : Partition) : (s.setPartition n x).device = s.device := rfl
@[simp] theorem State.setPartition_torusW (s : State) (n : Nat) (x : Partition) : (s.setPartition n x).torusW = s.torusW := rfl
@[simp] theorem State.setPartition_torusH (s : State) (n : Nat) (x : Partition) : (s.setPartition n x).torusH = s.torusH := rfl
@[simp] theorem State.setPartition_powerLimit (s : State) (n : Nat) (x : Partition) : (s.setPartition n x).powerLimit = s.powerLimit := rfl
@[simp] theorem State.setPartition_schedule (s : State) (n : Nat) (x : Partition) : (s.setPartition n x).schedule = s.schedule := rfl
@[simp] theorem State.setPartition_granted (s : State) (n : Nat) (x : Partition) : (s.setPartition n x).granted = s.granted := rfl
@[simp] theorem State.setPartition_focus (s : State) (n : Nat) (x : Partition) : (s.setPartition n x).focus = s.focus := rfl
@[simp] theorem State.setPartition_choices (s : State) (n : Nat) (x : Partition) : (s.setPartition n x).choices = s.choices := rfl
@[simp] theorem State.setPartition_fresh (s : State) (n : Nat) (x : Partition) : (s.setPartition n x).fresh = s.fresh := rfl

@[simp] theorem State.setPair_cores (s : State) (n : Nat) (x : Pair) : (s.setPair n x).cores = s.cores := rfl
@[simp] theorem State.setPair_dies (s : State) (n : Nat) (x : Pair) : (s.setPair n x).dies = s.dies := rfl
@[simp] theorem State.setPair_clusters (s : State) (n : Nat) (x : Pair) : (s.setPair n x).clusters = s.clusters := rfl
@[simp] theorem State.setPair_links (s : State) (n : Nat) (x : Pair) : (s.setPair n x).links = s.links := rfl
@[simp] theorem State.setPair_mem (s : State) (n : Nat) (x : Pair) : (s.setPair n x).mem = s.mem := rfl
@[simp] theorem State.setPair_trans (s : State) (n : Nat) (x : Pair) : (s.setPair n x).trans = s.trans := rfl
@[simp] theorem State.setPair_launches (s : State) (n : Nat) (x : Pair) : (s.setPair n x).launches = s.launches := rfl
@[simp] theorem State.setPair_partitions (s : State) (n : Nat) (x : Pair) : (s.setPair n x).partitions = s.partitions := rfl
@[simp] theorem State.setPair_asc (s : State) (n : Nat) (x : Pair) : (s.setPair n x).asc = s.asc := rfl
@[simp] theorem State.setPair_audit (s : State) (n : Nat) (x : Pair) : (s.setPair n x).audit = s.audit := rfl
@[simp] theorem State.setPair_rot (s : State) (n : Nat) (x : Pair) : (s.setPair n x).rot = s.rot := rfl
@[simp] theorem State.setPair_warm (s : State) (n : Nat) (x : Pair) : (s.setPair n x).warm = s.warm := rfl
@[simp] theorem State.setPair_rwrs (s : State) (n : Nat) (x : Pair) : (s.setPair n x).rwrs = s.rwrs := rfl
@[simp] theorem State.setPair_savedFibres (s : State) (n : Nat) (x : Pair) : (s.setPair n x).savedFibres = s.savedFibres := rfl
@[simp] theorem State.setPair_savedBlocks (s : State) (n : Nat) (x : Pair) : (s.setPair n x).savedBlocks = s.savedBlocks := rfl
@[simp] theorem State.setPair_time (s : State) (n : Nat) (x : Pair) : (s.setPair n x).time = s.time := rfl
@[simp] theorem State.setPair_cycle (s : State) (n : Nat) (x : Pair) : (s.setPair n x).cycle = s.cycle := rfl
@[simp] theorem State.setPair_device (s : State) (n : Nat) (x : Pair) : (s.setPair n x).device = s.device := rfl
@[simp] theorem State.setPair_torusW (s : State) (n : Nat) (x : Pair) : (s.setPair n x).torusW = s.torusW := rfl
@[simp] theorem State.setPair_torusH (s : State) (n : Nat) (x : Pair) : (s.setPair n x).torusH = s.torusH := rfl
@[simp] theorem State.setPair_powerLimit (s : State) (n : Nat) (x : Pair) : (s.setPair n x).powerLimit = s.powerLimit := rfl
@[simp] theorem State.setPair_schedule (s : State) (n : Nat) (x : Pair) : (s.setPair n x).schedule = s.schedule := rfl
@[simp] theorem State.setPair_granted (s : State) (n : Nat) (x : Pair) : (s.setPair n x).granted = s.granted := rfl
@[simp] theorem State.setPair_focus (s : State) (n : Nat) (x : Pair) : (s.setPair n x).focus = s.focus := rfl
@[simp] theorem State.setPair_choices (s : State) (n : Nat) (x : Pair) : (s.setPair n x).choices = s.choices := rfl
@[simp] theorem State.setPair_fresh (s : State) (n : Nat) (x : Pair) : (s.setPair n x).fresh = s.fresh := rfl

@[simp] theorem State.setLaunch_cores (s : State) (x : Launch) : (s.setLaunch x).cores = s.cores := rfl
@[simp] theorem State.setLaunch_dies (s : State) (x : Launch) : (s.setLaunch x).dies = s.dies := rfl
@[simp] theorem State.setLaunch_clusters (s : State) (x : Launch) : (s.setLaunch x).clusters = s.clusters := rfl
@[simp] theorem State.setLaunch_links (s : State) (x : Launch) : (s.setLaunch x).links = s.links := rfl
@[simp] theorem State.setLaunch_mem (s : State) (x : Launch) : (s.setLaunch x).mem = s.mem := rfl
@[simp] theorem State.setLaunch_trans (s : State) (x : Launch) : (s.setLaunch x).trans = s.trans := rfl
@[simp] theorem State.setLaunch_partitions (s : State) (x : Launch) : (s.setLaunch x).partitions = s.partitions := rfl
@[simp] theorem State.setLaunch_asc (s : State) (x : Launch) : (s.setLaunch x).asc = s.asc := rfl
@[simp] theorem State.setLaunch_pairs (s : State) (x : Launch) : (s.setLaunch x).pairs = s.pairs := rfl
@[simp] theorem State.setLaunch_audit (s : State) (x : Launch) : (s.setLaunch x).audit = s.audit := rfl
@[simp] theorem State.setLaunch_rot (s : State) (x : Launch) : (s.setLaunch x).rot = s.rot := rfl
@[simp] theorem State.setLaunch_warm (s : State) (x : Launch) : (s.setLaunch x).warm = s.warm := rfl
@[simp] theorem State.setLaunch_rwrs (s : State) (x : Launch) : (s.setLaunch x).rwrs = s.rwrs := rfl
@[simp] theorem State.setLaunch_savedFibres (s : State) (x : Launch) : (s.setLaunch x).savedFibres = s.savedFibres := rfl
@[simp] theorem State.setLaunch_savedBlocks (s : State) (x : Launch) : (s.setLaunch x).savedBlocks = s.savedBlocks := rfl
@[simp] theorem State.setLaunch_time (s : State) (x : Launch) : (s.setLaunch x).time = s.time := rfl
@[simp] theorem State.setLaunch_cycle (s : State) (x : Launch) : (s.setLaunch x).cycle = s.cycle := rfl
@[simp] theorem State.setLaunch_device (s : State) (x : Launch) : (s.setLaunch x).device = s.device := rfl
@[simp] theorem State.setLaunch_torusW (s : State) (x : Launch) : (s.setLaunch x).torusW = s.torusW := rfl
@[simp] theorem State.setLaunch_torusH (s : State) (x : Launch) : (s.setLaunch x).torusH = s.torusH := rfl
@[simp] theorem State.setLaunch_powerLimit (s : State) (x : Launch) : (s.setLaunch x).powerLimit = s.powerLimit := rfl
@[simp] theorem State.setLaunch_schedule (s : State) (x : Launch) : (s.setLaunch x).schedule = s.schedule := rfl
@[simp] theorem State.setLaunch_granted (s : State) (x : Launch) : (s.setLaunch x).granted = s.granted := rfl
@[simp] theorem State.setLaunch_focus (s : State) (x : Launch) : (s.setLaunch x).focus = s.focus := rfl
@[simp] theorem State.setLaunch_choices (s : State) (x : Launch) : (s.setLaunch x).choices = s.choices := rfl
@[simp] theorem State.setLaunch_fresh (s : State) (x : Launch) : (s.setLaunch x).fresh = s.fresh := rfl

@[simp] theorem State.setCore_dies (s : State) (c : Nat) (x : CoreState) : (s.setCore c x).dies = s.dies := rfl
@[simp] theorem State.setCore_clusters (s : State) (c : Nat) (x : CoreState) : (s.setCore c x).clusters = s.clusters := rfl
@[simp] theorem State.setCore_links (s : State) (c : Nat) (x : CoreState) : (s.setCore c x).links = s.links := rfl
@[simp] theorem State.setCore_mem (s : State) (c : Nat) (x : CoreState) : (s.setCore c x).mem = s.mem := rfl
@[simp] theorem State.setCore_trans (s : State) (c : Nat) (x : CoreState) : (s.setCore c x).trans = s.trans := rfl
@[simp] theorem State.setCore_launches (s : State) (c : Nat) (x : CoreState) : (s.setCore c x).launches = s.launches := rfl
@[simp] theorem State.setCore_partitions (s : State) (c : Nat) (x : CoreState) : (s.setCore c x).partitions = s.partitions := rfl
@[simp] theorem State.setCore_asc (s : State) (c : Nat) (x : CoreState) : (s.setCore c x).asc = s.asc := rfl
@[simp] theorem State.setCore_pairs (s : State) (c : Nat) (x : CoreState) : (s.setCore c x).pairs = s.pairs := rfl
@[simp] theorem State.setCore_audit (s : State) (c : Nat) (x : CoreState) : (s.setCore c x).audit = s.audit := rfl
@[simp] theorem State.setCore_rot (s : State) (c : Nat) (x : CoreState) : (s.setCore c x).rot = s.rot := rfl
@[simp] theorem State.setCore_warm (s : State) (c : Nat) (x : CoreState) : (s.setCore c x).warm = s.warm := rfl
@[simp] theorem State.setCore_rwrs (s : State) (c : Nat) (x : CoreState) : (s.setCore c x).rwrs = s.rwrs := rfl
@[simp] theorem State.setCore_savedFibres (s : State) (c : Nat) (x : CoreState) : (s.setCore c x).savedFibres = s.savedFibres := rfl
@[simp] theorem State.setCore_savedBlocks (s : State) (c : Nat) (x : CoreState) : (s.setCore c x).savedBlocks = s.savedBlocks := rfl
@[simp] theorem State.setCore_time (s : State) (c : Nat) (x : CoreState) : (s.setCore c x).time = s.time := rfl
@[simp] theorem State.setCore_cycle (s : State) (c : Nat) (x : CoreState) : (s.setCore c x).cycle = s.cycle := rfl
@[simp] theorem State.setCore_device (s : State) (c : Nat) (x : CoreState) : (s.setCore c x).device = s.device := rfl
@[simp] theorem State.setCore_torusW (s : State) (c : Nat) (x : CoreState) : (s.setCore c x).torusW = s.torusW := rfl
@[simp] theorem State.setCore_torusH (s : State) (c : Nat) (x : CoreState) : (s.setCore c x).torusH = s.torusH := rfl
@[simp] theorem State.setCore_powerLimit (s : State) (c : Nat) (x : CoreState) : (s.setCore c x).powerLimit = s.powerLimit := rfl
@[simp] theorem State.setCore_schedule (s : State) (c : Nat) (x : CoreState) : (s.setCore c x).schedule = s.schedule := rfl
@[simp] theorem State.setCore_granted (s : State) (c : Nat) (x : CoreState) : (s.setCore c x).granted = s.granted := rfl
@[simp] theorem State.setCore_focus (s : State) (c : Nat) (x : CoreState) : (s.setCore c x).focus = s.focus := rfl
@[simp] theorem State.setCore_choices (s : State) (c : Nat) (x : CoreState) : (s.setCore c x).choices = s.choices := rfl
@[simp] theorem State.setCore_fresh (s : State) (c : Nat) (x : CoreState) : (s.setCore c x).fresh = s.fresh := rfl

@[simp] theorem State.modCore_dies (s : State) (c : Nat) (g : CoreState → CoreState) : (s.modCore c g).dies = s.dies := rfl
@[simp] theorem State.modCore_clusters (s : State) (c : Nat) (g : CoreState → CoreState) : (s.modCore c g).clusters = s.clusters := rfl
@[simp] theorem State.modCore_links (s : State) (c : Nat) (g : CoreState → CoreState) : (s.modCore c g).links = s.links := rfl
@[simp] theorem State.modCore_mem (s : State) (c : Nat) (g : CoreState → CoreState) : (s.modCore c g).mem = s.mem := rfl
@[simp] theorem State.modCore_trans (s : State) (c : Nat) (g : CoreState → CoreState) : (s.modCore c g).trans = s.trans := rfl
@[simp] theorem State.modCore_launches (s : State) (c : Nat) (g : CoreState → CoreState) : (s.modCore c g).launches = s.launches := rfl
@[simp] theorem State.modCore_partitions (s : State) (c : Nat) (g : CoreState → CoreState) : (s.modCore c g).partitions = s.partitions := rfl
@[simp] theorem State.modCore_asc (s : State) (c : Nat) (g : CoreState → CoreState) : (s.modCore c g).asc = s.asc := rfl
@[simp] theorem State.modCore_pairs (s : State) (c : Nat) (g : CoreState → CoreState) : (s.modCore c g).pairs = s.pairs := rfl
@[simp] theorem State.modCore_audit (s : State) (c : Nat) (g : CoreState → CoreState) : (s.modCore c g).audit = s.audit := rfl
@[simp] theorem State.modCore_rot (s : State) (c : Nat) (g : CoreState → CoreState) : (s.modCore c g).rot = s.rot := rfl
@[simp] theorem State.modCore_warm (s : State) (c : Nat) (g : CoreState → CoreState) : (s.modCore c g).warm = s.warm := rfl
@[simp] theorem State.modCore_rwrs (s : State) (c : Nat) (g : CoreState → CoreState) : (s.modCore c g).rwrs = s.rwrs := rfl
@[simp] theorem State.modCore_savedFibres (s : State) (c : Nat) (g : CoreState → CoreState) : (s.modCore c g).savedFibres = s.savedFibres := rfl
@[simp] theorem State.modCore_savedBlocks (s : State) (c : Nat) (g : CoreState → CoreState) : (s.modCore c g).savedBlocks = s.savedBlocks := rfl
@[simp] theorem State.modCore_time (s : State) (c : Nat) (g : CoreState → CoreState) : (s.modCore c g).time = s.time := rfl
@[simp] theorem State.modCore_cycle (s : State) (c : Nat) (g : CoreState → CoreState) : (s.modCore c g).cycle = s.cycle := rfl
@[simp] theorem State.modCore_device (s : State) (c : Nat) (g : CoreState → CoreState) : (s.modCore c g).device = s.device := rfl
@[simp] theorem State.modCore_torusW (s : State) (c : Nat) (g : CoreState → CoreState) : (s.modCore c g).torusW = s.torusW := rfl
@[simp] theorem State.modCore_torusH (s : State) (c : Nat) (g : CoreState → CoreState) : (s.modCore c g).torusH = s.torusH := rfl
@[simp] theorem State.modCore_powerLimit (s : State) (c : Nat) (g : CoreState → CoreState) : (s.modCore c g).powerLimit = s.powerLimit := rfl
@[simp] theorem State.modCore_schedule (s : State) (c : Nat) (g : CoreState → CoreState) : (s.modCore c g).schedule = s.schedule := rfl
@[simp] theorem State.modCore_granted (s : State) (c : Nat) (g : CoreState → CoreState) : (s.modCore c g).granted = s.granted := rfl
@[simp] theorem State.modCore_focus (s : State) (c : Nat) (g : CoreState → CoreState) : (s.modCore c g).focus = s.focus := rfl
@[simp] theorem State.modCore_choices (s : State) (c : Nat) (g : CoreState → CoreState) : (s.modCore c g).choices = s.choices := rfl
@[simp] theorem State.modCore_fresh (s : State) (c : Nat) (g : CoreState → CoreState) : (s.modCore c g).fresh = s.fresh := rfl

@[simp] theorem State.setFibre_dies (s : State) (c f : Nat) (x : Fibre) : (s.setFibre c f x).dies = s.dies := rfl
@[simp] theorem State.setFibre_clusters (s : State) (c f : Nat) (x : Fibre) : (s.setFibre c f x).clusters = s.clusters := rfl
@[simp] theorem State.setFibre_links (s : State) (c f : Nat) (x : Fibre) : (s.setFibre c f x).links = s.links := rfl
@[simp] theorem State.setFibre_mem (s : State) (c f : Nat) (x : Fibre) : (s.setFibre c f x).mem = s.mem := rfl
@[simp] theorem State.setFibre_trans (s : State) (c f : Nat) (x : Fibre) : (s.setFibre c f x).trans = s.trans := rfl
@[simp] theorem State.setFibre_launches (s : State) (c f : Nat) (x : Fibre) : (s.setFibre c f x).launches = s.launches := rfl
@[simp] theorem State.setFibre_partitions (s : State) (c f : Nat) (x : Fibre) : (s.setFibre c f x).partitions = s.partitions := rfl
@[simp] theorem State.setFibre_asc (s : State) (c f : Nat) (x : Fibre) : (s.setFibre c f x).asc = s.asc := rfl
@[simp] theorem State.setFibre_pairs (s : State) (c f : Nat) (x : Fibre) : (s.setFibre c f x).pairs = s.pairs := rfl
@[simp] theorem State.setFibre_audit (s : State) (c f : Nat) (x : Fibre) : (s.setFibre c f x).audit = s.audit := rfl
@[simp] theorem State.setFibre_rot (s : State) (c f : Nat) (x : Fibre) : (s.setFibre c f x).rot = s.rot := rfl
@[simp] theorem State.setFibre_warm (s : State) (c f : Nat) (x : Fibre) : (s.setFibre c f x).warm = s.warm := rfl
@[simp] theorem State.setFibre_rwrs (s : State) (c f : Nat) (x : Fibre) : (s.setFibre c f x).rwrs = s.rwrs := rfl
@[simp] theorem State.setFibre_savedFibres (s : State) (c f : Nat) (x : Fibre) : (s.setFibre c f x).savedFibres = s.savedFibres := rfl
@[simp] theorem State.setFibre_savedBlocks (s : State) (c f : Nat) (x : Fibre) : (s.setFibre c f x).savedBlocks = s.savedBlocks := rfl
@[simp] theorem State.setFibre_time (s : State) (c f : Nat) (x : Fibre) : (s.setFibre c f x).time = s.time := rfl
@[simp] theorem State.setFibre_cycle (s : State) (c f : Nat) (x : Fibre) : (s.setFibre c f x).cycle = s.cycle := rfl
@[simp] theorem State.setFibre_device (s : State) (c f : Nat) (x : Fibre) : (s.setFibre c f x).device = s.device := rfl
@[simp] theorem State.setFibre_torusW (s : State) (c f : Nat) (x : Fibre) : (s.setFibre c f x).torusW = s.torusW := rfl
@[simp] theorem State.setFibre_torusH (s : State) (c f : Nat) (x : Fibre) : (s.setFibre c f x).torusH = s.torusH := rfl
@[simp] theorem State.setFibre_powerLimit (s : State) (c f : Nat) (x : Fibre) : (s.setFibre c f x).powerLimit = s.powerLimit := rfl
@[simp] theorem State.setFibre_schedule (s : State) (c f : Nat) (x : Fibre) : (s.setFibre c f x).schedule = s.schedule := rfl
@[simp] theorem State.setFibre_granted (s : State) (c f : Nat) (x : Fibre) : (s.setFibre c f x).granted = s.granted := rfl
@[simp] theorem State.setFibre_focus (s : State) (c f : Nat) (x : Fibre) : (s.setFibre c f x).focus = s.focus := rfl
@[simp] theorem State.setFibre_choices (s : State) (c f : Nat) (x : Fibre) : (s.setFibre c f x).choices = s.choices := rfl
@[simp] theorem State.setFibre_fresh (s : State) (c f : Nat) (x : Fibre) : (s.setFibre c f x).fresh = s.fresh := rfl

@[simp] theorem State.modFibre_dies (s : State) (c f : Nat) (g : Fibre → Fibre) : (s.modFibre c f g).dies = s.dies := rfl
@[simp] theorem State.modFibre_clusters (s : State) (c f : Nat) (g : Fibre → Fibre) : (s.modFibre c f g).clusters = s.clusters := rfl
@[simp] theorem State.modFibre_links (s : State) (c f : Nat) (g : Fibre → Fibre) : (s.modFibre c f g).links = s.links := rfl
@[simp] theorem State.modFibre_mem (s : State) (c f : Nat) (g : Fibre → Fibre) : (s.modFibre c f g).mem = s.mem := rfl
@[simp] theorem State.modFibre_trans (s : State) (c f : Nat) (g : Fibre → Fibre) : (s.modFibre c f g).trans = s.trans := rfl
@[simp] theorem State.modFibre_launches (s : State) (c f : Nat) (g : Fibre → Fibre) : (s.modFibre c f g).launches = s.launches := rfl
@[simp] theorem State.modFibre_partitions (s : State) (c f : Nat) (g : Fibre → Fibre) : (s.modFibre c f g).partitions = s.partitions := rfl
@[simp] theorem State.modFibre_asc (s : State) (c f : Nat) (g : Fibre → Fibre) : (s.modFibre c f g).asc = s.asc := rfl
@[simp] theorem State.modFibre_pairs (s : State) (c f : Nat) (g : Fibre → Fibre) : (s.modFibre c f g).pairs = s.pairs := rfl
@[simp] theorem State.modFibre_audit (s : State) (c f : Nat) (g : Fibre → Fibre) : (s.modFibre c f g).audit = s.audit := rfl
@[simp] theorem State.modFibre_rot (s : State) (c f : Nat) (g : Fibre → Fibre) : (s.modFibre c f g).rot = s.rot := rfl
@[simp] theorem State.modFibre_warm (s : State) (c f : Nat) (g : Fibre → Fibre) : (s.modFibre c f g).warm = s.warm := rfl
@[simp] theorem State.modFibre_rwrs (s : State) (c f : Nat) (g : Fibre → Fibre) : (s.modFibre c f g).rwrs = s.rwrs := rfl
@[simp] theorem State.modFibre_savedFibres (s : State) (c f : Nat) (g : Fibre → Fibre) : (s.modFibre c f g).savedFibres = s.savedFibres := rfl
@[simp] theorem State.modFibre_savedBlocks (s : State) (c f : Nat) (g : Fibre → Fibre) : (s.modFibre c f g).savedBlocks = s.savedBlocks := rfl
@[simp] theorem State.modFibre_time (s : State) (c f : Nat) (g : Fibre → Fibre) : (s.modFibre c f g).time = s.time := rfl
@[simp] theorem State.modFibre_cycle (s : State) (c f : Nat) (g : Fibre → Fibre) : (s.modFibre c f g).cycle = s.cycle := rfl
@[simp] theorem State.modFibre_device (s : State) (c f : Nat) (g : Fibre → Fibre) : (s.modFibre c f g).device = s.device := rfl
@[simp] theorem State.modFibre_torusW (s : State) (c f : Nat) (g : Fibre → Fibre) : (s.modFibre c f g).torusW = s.torusW := rfl
@[simp] theorem State.modFibre_torusH (s : State) (c f : Nat) (g : Fibre → Fibre) : (s.modFibre c f g).torusH = s.torusH := rfl
@[simp] theorem State.modFibre_powerLimit (s : State) (c f : Nat) (g : Fibre → Fibre) : (s.modFibre c f g).powerLimit = s.powerLimit := rfl
@[simp] theorem State.modFibre_schedule (s : State) (c f : Nat) (g : Fibre → Fibre) : (s.modFibre c f g).schedule = s.schedule := rfl
@[simp] theorem State.modFibre_granted (s : State) (c f : Nat) (g : Fibre → Fibre) : (s.modFibre c f g).granted = s.granted := rfl
@[simp] theorem State.modFibre_focus (s : State) (c f : Nat) (g : Fibre → Fibre) : (s.modFibre c f g).focus = s.focus := rfl
@[simp] theorem State.modFibre_choices (s : State) (c f : Nat) (g : Fibre → Fibre) : (s.modFibre c f g).choices = s.choices := rfl
@[simp] theorem State.modFibre_fresh (s : State) (c f : Nat) (g : Fibre → Fibre) : (s.modFibre c f g).fresh = s.fresh := rfl

@[simp] theorem State.setBlock_dies (s : State) (c b : Nat) (x : Block) : (s.setBlock c b x).dies = s.dies := rfl
@[simp] theorem State.setBlock_clusters (s : State) (c b : Nat) (x : Block) : (s.setBlock c b x).clusters = s.clusters := rfl
@[simp] theorem State.setBlock_links (s : State) (c b : Nat) (x : Block) : (s.setBlock c b x).links = s.links := rfl
@[simp] theorem State.setBlock_mem (s : State) (c b : Nat) (x : Block) : (s.setBlock c b x).mem = s.mem := rfl
@[simp] theorem State.setBlock_trans (s : State) (c b : Nat) (x : Block) : (s.setBlock c b x).trans = s.trans := rfl
@[simp] theorem State.setBlock_launches (s : State) (c b : Nat) (x : Block) : (s.setBlock c b x).launches = s.launches := rfl
@[simp] theorem State.setBlock_partitions (s : State) (c b : Nat) (x : Block) : (s.setBlock c b x).partitions = s.partitions := rfl
@[simp] theorem State.setBlock_asc (s : State) (c b : Nat) (x : Block) : (s.setBlock c b x).asc = s.asc := rfl
@[simp] theorem State.setBlock_pairs (s : State) (c b : Nat) (x : Block) : (s.setBlock c b x).pairs = s.pairs := rfl
@[simp] theorem State.setBlock_audit (s : State) (c b : Nat) (x : Block) : (s.setBlock c b x).audit = s.audit := rfl
@[simp] theorem State.setBlock_rot (s : State) (c b : Nat) (x : Block) : (s.setBlock c b x).rot = s.rot := rfl
@[simp] theorem State.setBlock_warm (s : State) (c b : Nat) (x : Block) : (s.setBlock c b x).warm = s.warm := rfl
@[simp] theorem State.setBlock_rwrs (s : State) (c b : Nat) (x : Block) : (s.setBlock c b x).rwrs = s.rwrs := rfl
@[simp] theorem State.setBlock_savedFibres (s : State) (c b : Nat) (x : Block) : (s.setBlock c b x).savedFibres = s.savedFibres := rfl
@[simp] theorem State.setBlock_savedBlocks (s : State) (c b : Nat) (x : Block) : (s.setBlock c b x).savedBlocks = s.savedBlocks := rfl
@[simp] theorem State.setBlock_time (s : State) (c b : Nat) (x : Block) : (s.setBlock c b x).time = s.time := rfl
@[simp] theorem State.setBlock_cycle (s : State) (c b : Nat) (x : Block) : (s.setBlock c b x).cycle = s.cycle := rfl
@[simp] theorem State.setBlock_device (s : State) (c b : Nat) (x : Block) : (s.setBlock c b x).device = s.device := rfl
@[simp] theorem State.setBlock_torusW (s : State) (c b : Nat) (x : Block) : (s.setBlock c b x).torusW = s.torusW := rfl
@[simp] theorem State.setBlock_torusH (s : State) (c b : Nat) (x : Block) : (s.setBlock c b x).torusH = s.torusH := rfl
@[simp] theorem State.setBlock_powerLimit (s : State) (c b : Nat) (x : Block) : (s.setBlock c b x).powerLimit = s.powerLimit := rfl
@[simp] theorem State.setBlock_schedule (s : State) (c b : Nat) (x : Block) : (s.setBlock c b x).schedule = s.schedule := rfl
@[simp] theorem State.setBlock_granted (s : State) (c b : Nat) (x : Block) : (s.setBlock c b x).granted = s.granted := rfl
@[simp] theorem State.setBlock_focus (s : State) (c b : Nat) (x : Block) : (s.setBlock c b x).focus = s.focus := rfl
@[simp] theorem State.setBlock_choices (s : State) (c b : Nat) (x : Block) : (s.setBlock c b x).choices = s.choices := rfl
@[simp] theorem State.setBlock_fresh (s : State) (c b : Nat) (x : Block) : (s.setBlock c b x).fresh = s.fresh := rfl

@[simp] theorem State.setSlot_dies (s : State) (c n : Nat) (x : Slot) : (s.setSlot c n x).dies = s.dies := rfl
@[simp] theorem State.setSlot_clusters (s : State) (c n : Nat) (x : Slot) : (s.setSlot c n x).clusters = s.clusters := rfl
@[simp] theorem State.setSlot_links (s : State) (c n : Nat) (x : Slot) : (s.setSlot c n x).links = s.links := rfl
@[simp] theorem State.setSlot_mem (s : State) (c n : Nat) (x : Slot) : (s.setSlot c n x).mem = s.mem := rfl
@[simp] theorem State.setSlot_trans (s : State) (c n : Nat) (x : Slot) : (s.setSlot c n x).trans = s.trans := rfl
@[simp] theorem State.setSlot_launches (s : State) (c n : Nat) (x : Slot) : (s.setSlot c n x).launches = s.launches := rfl
@[simp] theorem State.setSlot_partitions (s : State) (c n : Nat) (x : Slot) : (s.setSlot c n x).partitions = s.partitions := rfl
@[simp] theorem State.setSlot_asc (s : State) (c n : Nat) (x : Slot) : (s.setSlot c n x).asc = s.asc := rfl
@[simp] theorem State.setSlot_pairs (s : State) (c n : Nat) (x : Slot) : (s.setSlot c n x).pairs = s.pairs := rfl
@[simp] theorem State.setSlot_audit (s : State) (c n : Nat) (x : Slot) : (s.setSlot c n x).audit = s.audit := rfl
@[simp] theorem State.setSlot_rot (s : State) (c n : Nat) (x : Slot) : (s.setSlot c n x).rot = s.rot := rfl
@[simp] theorem State.setSlot_warm (s : State) (c n : Nat) (x : Slot) : (s.setSlot c n x).warm = s.warm := rfl
@[simp] theorem State.setSlot_rwrs (s : State) (c n : Nat) (x : Slot) : (s.setSlot c n x).rwrs = s.rwrs := rfl
@[simp] theorem State.setSlot_savedFibres (s : State) (c n : Nat) (x : Slot) : (s.setSlot c n x).savedFibres = s.savedFibres := rfl
@[simp] theorem State.setSlot_savedBlocks (s : State) (c n : Nat) (x : Slot) : (s.setSlot c n x).savedBlocks = s.savedBlocks := rfl
@[simp] theorem State.setSlot_time (s : State) (c n : Nat) (x : Slot) : (s.setSlot c n x).time = s.time := rfl
@[simp] theorem State.setSlot_cycle (s : State) (c n : Nat) (x : Slot) : (s.setSlot c n x).cycle = s.cycle := rfl
@[simp] theorem State.setSlot_device (s : State) (c n : Nat) (x : Slot) : (s.setSlot c n x).device = s.device := rfl
@[simp] theorem State.setSlot_torusW (s : State) (c n : Nat) (x : Slot) : (s.setSlot c n x).torusW = s.torusW := rfl
@[simp] theorem State.setSlot_torusH (s : State) (c n : Nat) (x : Slot) : (s.setSlot c n x).torusH = s.torusH := rfl
@[simp] theorem State.setSlot_powerLimit (s : State) (c n : Nat) (x : Slot) : (s.setSlot c n x).powerLimit = s.powerLimit := rfl
@[simp] theorem State.setSlot_schedule (s : State) (c n : Nat) (x : Slot) : (s.setSlot c n x).schedule = s.schedule := rfl
@[simp] theorem State.setSlot_granted (s : State) (c n : Nat) (x : Slot) : (s.setSlot c n x).granted = s.granted := rfl
@[simp] theorem State.setSlot_focus (s : State) (c n : Nat) (x : Slot) : (s.setSlot c n x).focus = s.focus := rfl
@[simp] theorem State.setSlot_choices (s : State) (c n : Nat) (x : Slot) : (s.setSlot c n x).choices = s.choices := rfl
@[simp] theorem State.setSlot_fresh (s : State) (c n : Nat) (x : Slot) : (s.setSlot c n x).fresh = s.fresh := rfl

@[simp] theorem State.setCur_dies (s : State) (x : Fibre) : (s.setCur x).dies = s.dies := rfl
@[simp] theorem State.setCur_clusters (s : State) (x : Fibre) : (s.setCur x).clusters = s.clusters := rfl
@[simp] theorem State.setCur_links (s : State) (x : Fibre) : (s.setCur x).links = s.links := rfl
@[simp] theorem State.setCur_mem (s : State) (x : Fibre) : (s.setCur x).mem = s.mem := rfl
@[simp] theorem State.setCur_trans (s : State) (x : Fibre) : (s.setCur x).trans = s.trans := rfl
@[simp] theorem State.setCur_launches (s : State) (x : Fibre) : (s.setCur x).launches = s.launches := rfl
@[simp] theorem State.setCur_partitions (s : State) (x : Fibre) : (s.setCur x).partitions = s.partitions := rfl
@[simp] theorem State.setCur_asc (s : State) (x : Fibre) : (s.setCur x).asc = s.asc := rfl
@[simp] theorem State.setCur_pairs (s : State) (x : Fibre) : (s.setCur x).pairs = s.pairs := rfl
@[simp] theorem State.setCur_audit (s : State) (x : Fibre) : (s.setCur x).audit = s.audit := rfl
@[simp] theorem State.setCur_rot (s : State) (x : Fibre) : (s.setCur x).rot = s.rot := rfl
@[simp] theorem State.setCur_warm (s : State) (x : Fibre) : (s.setCur x).warm = s.warm := rfl
@[simp] theorem State.setCur_rwrs (s : State) (x : Fibre) : (s.setCur x).rwrs = s.rwrs := rfl
@[simp] theorem State.setCur_savedFibres (s : State) (x : Fibre) : (s.setCur x).savedFibres = s.savedFibres := rfl
@[simp] theorem State.setCur_savedBlocks (s : State) (x : Fibre) : (s.setCur x).savedBlocks = s.savedBlocks := rfl
@[simp] theorem State.setCur_time (s : State) (x : Fibre) : (s.setCur x).time = s.time := rfl
@[simp] theorem State.setCur_cycle (s : State) (x : Fibre) : (s.setCur x).cycle = s.cycle := rfl
@[simp] theorem State.setCur_device (s : State) (x : Fibre) : (s.setCur x).device = s.device := rfl
@[simp] theorem State.setCur_torusW (s : State) (x : Fibre) : (s.setCur x).torusW = s.torusW := rfl
@[simp] theorem State.setCur_torusH (s : State) (x : Fibre) : (s.setCur x).torusH = s.torusH := rfl
@[simp] theorem State.setCur_powerLimit (s : State) (x : Fibre) : (s.setCur x).powerLimit = s.powerLimit := rfl
@[simp] theorem State.setCur_schedule (s : State) (x : Fibre) : (s.setCur x).schedule = s.schedule := rfl
@[simp] theorem State.setCur_granted (s : State) (x : Fibre) : (s.setCur x).granted = s.granted := rfl
@[simp] theorem State.setCur_focus (s : State) (x : Fibre) : (s.setCur x).focus = s.focus := rfl
@[simp] theorem State.setCur_choices (s : State) (x : Fibre) : (s.setCur x).choices = s.choices := rfl
@[simp] theorem State.setCur_fresh (s : State) (x : Fibre) : (s.setCur x).fresh = s.fresh := rfl

@[simp] theorem State.modCur_dies (s : State) (g : Fibre → Fibre) : (s.modCur g).dies = s.dies := rfl
@[simp] theorem State.modCur_clusters (s : State) (g : Fibre → Fibre) : (s.modCur g).clusters = s.clusters := rfl
@[simp] theorem State.modCur_links (s : State) (g : Fibre → Fibre) : (s.modCur g).links = s.links := rfl
@[simp] theorem State.modCur_mem (s : State) (g : Fibre → Fibre) : (s.modCur g).mem = s.mem := rfl
@[simp] theorem State.modCur_trans (s : State) (g : Fibre → Fibre) : (s.modCur g).trans = s.trans := rfl
@[simp] theorem State.modCur_launches (s : State) (g : Fibre → Fibre) : (s.modCur g).launches = s.launches := rfl
@[simp] theorem State.modCur_partitions (s : State) (g : Fibre → Fibre) : (s.modCur g).partitions = s.partitions := rfl
@[simp] theorem State.modCur_asc (s : State) (g : Fibre → Fibre) : (s.modCur g).asc = s.asc := rfl
@[simp] theorem State.modCur_pairs (s : State) (g : Fibre → Fibre) : (s.modCur g).pairs = s.pairs := rfl
@[simp] theorem State.modCur_audit (s : State) (g : Fibre → Fibre) : (s.modCur g).audit = s.audit := rfl
@[simp] theorem State.modCur_rot (s : State) (g : Fibre → Fibre) : (s.modCur g).rot = s.rot := rfl
@[simp] theorem State.modCur_warm (s : State) (g : Fibre → Fibre) : (s.modCur g).warm = s.warm := rfl
@[simp] theorem State.modCur_rwrs (s : State) (g : Fibre → Fibre) : (s.modCur g).rwrs = s.rwrs := rfl
@[simp] theorem State.modCur_savedFibres (s : State) (g : Fibre → Fibre) : (s.modCur g).savedFibres = s.savedFibres := rfl
@[simp] theorem State.modCur_savedBlocks (s : State) (g : Fibre → Fibre) : (s.modCur g).savedBlocks = s.savedBlocks := rfl
@[simp] theorem State.modCur_time (s : State) (g : Fibre → Fibre) : (s.modCur g).time = s.time := rfl
@[simp] theorem State.modCur_cycle (s : State) (g : Fibre → Fibre) : (s.modCur g).cycle = s.cycle := rfl
@[simp] theorem State.modCur_device (s : State) (g : Fibre → Fibre) : (s.modCur g).device = s.device := rfl
@[simp] theorem State.modCur_torusW (s : State) (g : Fibre → Fibre) : (s.modCur g).torusW = s.torusW := rfl
@[simp] theorem State.modCur_torusH (s : State) (g : Fibre → Fibre) : (s.modCur g).torusH = s.torusH := rfl
@[simp] theorem State.modCur_powerLimit (s : State) (g : Fibre → Fibre) : (s.modCur g).powerLimit = s.powerLimit := rfl
@[simp] theorem State.modCur_schedule (s : State) (g : Fibre → Fibre) : (s.modCur g).schedule = s.schedule := rfl
@[simp] theorem State.modCur_granted (s : State) (g : Fibre → Fibre) : (s.modCur g).granted = s.granted := rfl
@[simp] theorem State.modCur_focus (s : State) (g : Fibre → Fibre) : (s.modCur g).focus = s.focus := rfl
@[simp] theorem State.modCur_choices (s : State) (g : Fibre → Fibre) : (s.modCur g).choices = s.choices := rfl
@[simp] theorem State.modCur_fresh (s : State) (g : Fibre → Fibre) : (s.modCur g).fresh = s.fresh := rfl

/-! ### Fields of a core site -/

@[simp] theorem CoreState.setFibre_enabled (k : CoreState) (f : Nat) (x : Fibre) : (k.setFibre f x).enabled = k.enabled := rfl
@[simp] theorem CoreState.setFibre_holes (k : CoreState) (f : Nat) (x : Fibre) : (k.setFibre f x).holes = k.holes := rfl
@[simp] theorem CoreState.setFibre_slots (k : CoreState) (f : Nat) (x : Fibre) : (k.setFibre f x).slots = k.slots := rfl
@[simp] theorem CoreState.setFibre_blocks (k : CoreState) (f : Nat) (x : Fibre) : (k.setFibre f x).blocks = k.blocks := rfl
@[simp] theorem CoreState.setFibre_mem (k : CoreState) (f : Nat) (x : Fibre) : (k.setFibre f x).mem = k.mem := rfl
@[simp] theorem CoreState.setFibre_eng (k : CoreState) (f : Nat) (x : Fibre) : (k.setFibre f x).eng = k.eng := rfl
@[simp] theorem CoreState.setFibre_regs (k : CoreState) (f : Nat) (x : Fibre) : (k.setFibre f x).regs = k.regs := rfl
@[simp] theorem CoreState.setFibre_scan (k : CoreState) (f : Nat) (x : Fibre) : (k.setFibre f x).scan = k.scan := rfl
@[simp] theorem CoreState.setFibre_life (k : CoreState) (f : Nat) (x : Fibre) : (k.setFibre f x).life = k.life := rfl
@[simp] theorem CoreState.setFibre_idle (k : CoreState) (f : Nat) (x : Fibre) : (k.setFibre f x).idle = k.idle := rfl
@[simp] theorem CoreState.setFibre_heldEvents (k : CoreState) (f : Nat) (x : Fibre) : (k.setFibre f x).heldEvents = k.heldEvents := rfl
@[simp] theorem CoreState.setFibre_evseq (k : CoreState) (f : Nat) (x : Fibre) : (k.setFibre f x).evseq = k.evseq := rfl
@[simp] theorem CoreState.setFibre_xacqOrder (k : CoreState) (f : Nat) (x : Fibre) : (k.setFibre f x).xacqOrder = k.xacqOrder := rfl

@[simp] theorem CoreState.setBlock_enabled (k : CoreState) (b : Nat) (x : Block) : (k.setBlock b x).enabled = k.enabled := rfl
@[simp] theorem CoreState.setBlock_holes (k : CoreState) (b : Nat) (x : Block) : (k.setBlock b x).holes = k.holes := rfl
@[simp] theorem CoreState.setBlock_slots (k : CoreState) (b : Nat) (x : Block) : (k.setBlock b x).slots = k.slots := rfl
@[simp] theorem CoreState.setBlock_fibres (k : CoreState) (b : Nat) (x : Block) : (k.setBlock b x).fibres = k.fibres := rfl
@[simp] theorem CoreState.setBlock_mem (k : CoreState) (b : Nat) (x : Block) : (k.setBlock b x).mem = k.mem := rfl
@[simp] theorem CoreState.setBlock_eng (k : CoreState) (b : Nat) (x : Block) : (k.setBlock b x).eng = k.eng := rfl
@[simp] theorem CoreState.setBlock_regs (k : CoreState) (b : Nat) (x : Block) : (k.setBlock b x).regs = k.regs := rfl
@[simp] theorem CoreState.setBlock_scan (k : CoreState) (b : Nat) (x : Block) : (k.setBlock b x).scan = k.scan := rfl
@[simp] theorem CoreState.setBlock_life (k : CoreState) (b : Nat) (x : Block) : (k.setBlock b x).life = k.life := rfl
@[simp] theorem CoreState.setBlock_idle (k : CoreState) (b : Nat) (x : Block) : (k.setBlock b x).idle = k.idle := rfl
@[simp] theorem CoreState.setBlock_heldEvents (k : CoreState) (b : Nat) (x : Block) : (k.setBlock b x).heldEvents = k.heldEvents := rfl
@[simp] theorem CoreState.setBlock_evseq (k : CoreState) (b : Nat) (x : Block) : (k.setBlock b x).evseq = k.evseq := rfl
@[simp] theorem CoreState.setBlock_xacqOrder (k : CoreState) (b : Nat) (x : Block) : (k.setBlock b x).xacqOrder = k.xacqOrder := rfl

@[simp] theorem CoreState.setSlot_enabled (k : CoreState) (n : Nat) (x : Slot) : (k.setSlot n x).enabled = k.enabled := rfl
@[simp] theorem CoreState.setSlot_holes (k : CoreState) (n : Nat) (x : Slot) : (k.setSlot n x).holes = k.holes := rfl
@[simp] theorem CoreState.setSlot_fibres (k : CoreState) (n : Nat) (x : Slot) : (k.setSlot n x).fibres = k.fibres := rfl
@[simp] theorem CoreState.setSlot_blocks (k : CoreState) (n : Nat) (x : Slot) : (k.setSlot n x).blocks = k.blocks := rfl
@[simp] theorem CoreState.setSlot_mem (k : CoreState) (n : Nat) (x : Slot) : (k.setSlot n x).mem = k.mem := rfl
@[simp] theorem CoreState.setSlot_eng (k : CoreState) (n : Nat) (x : Slot) : (k.setSlot n x).eng = k.eng := rfl
@[simp] theorem CoreState.setSlot_regs (k : CoreState) (n : Nat) (x : Slot) : (k.setSlot n x).regs = k.regs := rfl
@[simp] theorem CoreState.setSlot_scan (k : CoreState) (n : Nat) (x : Slot) : (k.setSlot n x).scan = k.scan := rfl
@[simp] theorem CoreState.setSlot_life (k : CoreState) (n : Nat) (x : Slot) : (k.setSlot n x).life = k.life := rfl
@[simp] theorem CoreState.setSlot_idle (k : CoreState) (n : Nat) (x : Slot) : (k.setSlot n x).idle = k.idle := rfl
@[simp] theorem CoreState.setSlot_heldEvents (k : CoreState) (n : Nat) (x : Slot) : (k.setSlot n x).heldEvents = k.heldEvents := rfl
@[simp] theorem CoreState.setSlot_evseq (k : CoreState) (n : Nat) (x : Slot) : (k.setSlot n x).evseq = k.evseq := rfl
@[simp] theorem CoreState.setSlot_xacqOrder (k : CoreState) (n : Nat) (x : Slot) : (k.setSlot n x).xacqOrder = k.xacqOrder := rfl

/-! ### Fields of a fibre -/

@[simp] theorem Fibre.setScalar_block (k : Fibre) (n : Nat) (v : PX) : (k.setScalar n v).block = k.block := rfl
@[simp] theorem Fibre.setScalar_bslot (k : Fibre) (n : Nat) (v : PX) : (k.setScalar n v).bslot = k.bslot := rfl
@[simp] theorem Fibre.setScalar_index (k : Fibre) (n : Nat) (v : PX) : (k.setScalar n v).index = k.index := rfl
@[simp] theorem Fibre.setScalar_sys (k : Fibre) (n : Nat) (v : PX) : (k.setScalar n v).sys = k.sys := rfl
@[simp] theorem Fibre.setScalar_eq (k : Fibre) (n : Nat) (v : PX) : (k.setScalar n v).eq = k.eq := rfl
@[simp] theorem Fibre.setScalar_lq (k : Fibre) (n : Nat) (v : PX) : (k.setScalar n v).lq = k.lq := rfl
@[simp] theorem Fibre.setScalar_flags (k : Fibre) (n : Nat) (v : PX) : (k.setScalar n v).flags = k.flags := rfl
@[simp] theorem Fibre.setScalar_ops (k : Fibre) (n : Nat) (v : PX) : (k.setScalar n v).ops = k.ops := rfl
@[simp] theorem Fibre.setScalar_quads (k : Fibre) (n : Nat) (v : PX) : (k.setScalar n v).quads = k.quads := rfl
@[simp] theorem Fibre.setScalar_helpers (k : Fibre) (n : Nat) (v : PX) : (k.setScalar n v).helpers = k.helpers := rfl
@[simp] theorem Fibre.setScalar_present (k : Fibre) (n : Nat) (v : PX) : (k.setScalar n v).present = k.present := rfl
@[simp] theorem Fibre.setScalar_run (k : Fibre) (n : Nat) (v : PX) : (k.setScalar n v).run = k.run := rfl
@[simp] theorem Fibre.setScalar_frozenQuads (k : Fibre) (n : Nat) (v : PX) : (k.setScalar n v).frozenQuads = k.frozenQuads := rfl
@[simp] theorem Fibre.setScalar_second (k : Fibre) (n : Nat) (v : PX) : (k.setScalar n v).second = k.second := rfl
@[simp] theorem Fibre.setScalar_handler (k : Fibre) (n : Nat) (v : PX) : (k.setScalar n v).handler = k.handler := rfl
@[simp] theorem Fibre.setScalar_residue (k : Fibre) (n : Nat) (v : PX) : (k.setScalar n v).residue = k.residue := rfl
@[simp] theorem Fibre.setScalar_skipBreak (k : Fibre) (n : Nat) (v : PX) : (k.setScalar n v).skipBreak = k.skipBreak := rfl
@[simp] theorem Fibre.setScalar_stopSoon (k : Fibre) (n : Nat) (v : PX) : (k.setScalar n v).stopSoon = k.stopSoon := rfl
@[simp] theorem Fibre.setScalar_stepping (k : Fibre) (n : Nat) (v : PX) : (k.setScalar n v).stepping = k.stepping := rfl
@[simp] theorem Fibre.setScalar_scrollTrap (k : Fibre) (n : Nat) (v : PX) : (k.setScalar n v).scrollTrap = k.scrollTrap := rfl
@[simp] theorem Fibre.setScalar_monitor (k : Fibre) (n : Nat) (v : PX) : (k.setScalar n v).monitor = k.monitor := rfl
@[simp] theorem Fibre.setScalar_age (k : Fibre) (n : Nat) (v : PX) : (k.setScalar n v).age = k.age := rfl
@[simp] theorem Fibre.setScalar_stall (k : Fibre) (n : Nat) (v : PX) : (k.setScalar n v).stall = k.stall := rfl
@[simp] theorem Fibre.setScalar_fbarArrived (k : Fibre) (n : Nat) (v : PX) : (k.setScalar n v).fbarArrived = k.fbarArrived := rfl
@[simp] theorem Fibre.setScalar_owed (k : Fibre) (n : Nat) (v : PX) : (k.setScalar n v).owed = k.owed := rfl
@[simp] theorem Fibre.setScalar_regions (k : Fibre) (n : Nat) (v : PX) : (k.setScalar n v).regions = k.regions := rfl
@[simp] theorem Fibre.setScalar_passStart (k : Fibre) (n : Nat) (v : PX) : (k.setScalar n v).passStart = k.passStart := rfl

@[simp] theorem Fibre.setPred_block (k : Fibre) (n : Nat) (m v : LaneMask) : (k.setPred n m v).block = k.block := rfl
@[simp] theorem Fibre.setPred_bslot (k : Fibre) (n : Nat) (m v : LaneMask) : (k.setPred n m v).bslot = k.bslot := rfl
@[simp] theorem Fibre.setPred_index (k : Fibre) (n : Nat) (m v : LaneMask) : (k.setPred n m v).index = k.index := rfl
@[simp] theorem Fibre.setPred_sys (k : Fibre) (n : Nat) (m v : LaneMask) : (k.setPred n m v).sys = k.sys := rfl
@[simp] theorem Fibre.setPred_eq (k : Fibre) (n : Nat) (m v : LaneMask) : (k.setPred n m v).eq = k.eq := rfl
@[simp] theorem Fibre.setPred_lq (k : Fibre) (n : Nat) (m v : LaneMask) : (k.setPred n m v).lq = k.lq := rfl
@[simp] theorem Fibre.setPred_flags (k : Fibre) (n : Nat) (m v : LaneMask) : (k.setPred n m v).flags = k.flags := rfl
@[simp] theorem Fibre.setPred_ops (k : Fibre) (n : Nat) (m v : LaneMask) : (k.setPred n m v).ops = k.ops := rfl
@[simp] theorem Fibre.setPred_quads (k : Fibre) (n : Nat) (m v : LaneMask) : (k.setPred n m v).quads = k.quads := rfl
@[simp] theorem Fibre.setPred_helpers (k : Fibre) (n : Nat) (m v : LaneMask) : (k.setPred n m v).helpers = k.helpers := rfl
@[simp] theorem Fibre.setPred_present (k : Fibre) (n : Nat) (m v : LaneMask) : (k.setPred n m v).present = k.present := rfl
@[simp] theorem Fibre.setPred_run (k : Fibre) (n : Nat) (m v : LaneMask) : (k.setPred n m v).run = k.run := rfl
@[simp] theorem Fibre.setPred_frozenQuads (k : Fibre) (n : Nat) (m v : LaneMask) : (k.setPred n m v).frozenQuads = k.frozenQuads := rfl
@[simp] theorem Fibre.setPred_second (k : Fibre) (n : Nat) (m v : LaneMask) : (k.setPred n m v).second = k.second := rfl
@[simp] theorem Fibre.setPred_handler (k : Fibre) (n : Nat) (m v : LaneMask) : (k.setPred n m v).handler = k.handler := rfl
@[simp] theorem Fibre.setPred_residue (k : Fibre) (n : Nat) (m v : LaneMask) : (k.setPred n m v).residue = k.residue := rfl
@[simp] theorem Fibre.setPred_skipBreak (k : Fibre) (n : Nat) (m v : LaneMask) : (k.setPred n m v).skipBreak = k.skipBreak := rfl
@[simp] theorem Fibre.setPred_stopSoon (k : Fibre) (n : Nat) (m v : LaneMask) : (k.setPred n m v).stopSoon = k.stopSoon := rfl
@[simp] theorem Fibre.setPred_stepping (k : Fibre) (n : Nat) (m v : LaneMask) : (k.setPred n m v).stepping = k.stepping := rfl
@[simp] theorem Fibre.setPred_scrollTrap (k : Fibre) (n : Nat) (m v : LaneMask) : (k.setPred n m v).scrollTrap = k.scrollTrap := rfl
@[simp] theorem Fibre.setPred_monitor (k : Fibre) (n : Nat) (m v : LaneMask) : (k.setPred n m v).monitor = k.monitor := rfl
@[simp] theorem Fibre.setPred_age (k : Fibre) (n : Nat) (m v : LaneMask) : (k.setPred n m v).age = k.age := rfl
@[simp] theorem Fibre.setPred_stall (k : Fibre) (n : Nat) (m v : LaneMask) : (k.setPred n m v).stall = k.stall := rfl
@[simp] theorem Fibre.setPred_fbarArrived (k : Fibre) (n : Nat) (m v : LaneMask) : (k.setPred n m v).fbarArrived = k.fbarArrived := rfl
@[simp] theorem Fibre.setPred_owed (k : Fibre) (n : Nat) (m v : LaneMask) : (k.setPred n m v).owed = k.owed := rfl
@[simp] theorem Fibre.setPred_regions (k : Fibre) (n : Nat) (m v : LaneMask) : (k.setPred n m v).regions = k.regions := rfl
@[simp] theorem Fibre.setPred_passStart (k : Fibre) (n : Nat) (m v : LaneMask) : (k.setPred n m v).passStart = k.passStart := rfl

@[simp] theorem Fibre.setQuad_block (k : Fibre) (q : Nat) (y : Quad) : (k.setQuad q y).block = k.block := rfl
@[simp] theorem Fibre.setQuad_bslot (k : Fibre) (q : Nat) (y : Quad) : (k.setQuad q y).bslot = k.bslot := rfl
@[simp] theorem Fibre.setQuad_index (k : Fibre) (q : Nat) (y : Quad) : (k.setQuad q y).index = k.index := rfl
@[simp] theorem Fibre.setQuad_regs (k : Fibre) (q : Nat) (y : Quad) : (k.setQuad q y).regs = k.regs := rfl
@[simp] theorem Fibre.setQuad_sys (k : Fibre) (q : Nat) (y : Quad) : (k.setQuad q y).sys = k.sys := rfl
@[simp] theorem Fibre.setQuad_eq (k : Fibre) (q : Nat) (y : Quad) : (k.setQuad q y).eq = k.eq := rfl
@[simp] theorem Fibre.setQuad_lq (k : Fibre) (q : Nat) (y : Quad) : (k.setQuad q y).lq = k.lq := rfl
@[simp] theorem Fibre.setQuad_flags (k : Fibre) (q : Nat) (y : Quad) : (k.setQuad q y).flags = k.flags := rfl
@[simp] theorem Fibre.setQuad_ops (k : Fibre) (q : Nat) (y : Quad) : (k.setQuad q y).ops = k.ops := rfl
@[simp] theorem Fibre.setQuad_helpers (k : Fibre) (q : Nat) (y : Quad) : (k.setQuad q y).helpers = k.helpers := rfl
@[simp] theorem Fibre.setQuad_present (k : Fibre) (q : Nat) (y : Quad) : (k.setQuad q y).present = k.present := rfl
@[simp] theorem Fibre.setQuad_run (k : Fibre) (q : Nat) (y : Quad) : (k.setQuad q y).run = k.run := rfl
@[simp] theorem Fibre.setQuad_frozenQuads (k : Fibre) (q : Nat) (y : Quad) : (k.setQuad q y).frozenQuads = k.frozenQuads := rfl
@[simp] theorem Fibre.setQuad_second (k : Fibre) (q : Nat) (y : Quad) : (k.setQuad q y).second = k.second := rfl
@[simp] theorem Fibre.setQuad_handler (k : Fibre) (q : Nat) (y : Quad) : (k.setQuad q y).handler = k.handler := rfl
@[simp] theorem Fibre.setQuad_residue (k : Fibre) (q : Nat) (y : Quad) : (k.setQuad q y).residue = k.residue := rfl
@[simp] theorem Fibre.setQuad_skipBreak (k : Fibre) (q : Nat) (y : Quad) : (k.setQuad q y).skipBreak = k.skipBreak := rfl
@[simp] theorem Fibre.setQuad_stopSoon (k : Fibre) (q : Nat) (y : Quad) : (k.setQuad q y).stopSoon = k.stopSoon := rfl
@[simp] theorem Fibre.setQuad_stepping (k : Fibre) (q : Nat) (y : Quad) : (k.setQuad q y).stepping = k.stepping := rfl
@[simp] theorem Fibre.setQuad_scrollTrap (k : Fibre) (q : Nat) (y : Quad) : (k.setQuad q y).scrollTrap = k.scrollTrap := rfl
@[simp] theorem Fibre.setQuad_monitor (k : Fibre) (q : Nat) (y : Quad) : (k.setQuad q y).monitor = k.monitor := rfl
@[simp] theorem Fibre.setQuad_age (k : Fibre) (q : Nat) (y : Quad) : (k.setQuad q y).age = k.age := rfl
@[simp] theorem Fibre.setQuad_stall (k : Fibre) (q : Nat) (y : Quad) : (k.setQuad q y).stall = k.stall := rfl
@[simp] theorem Fibre.setQuad_fbarArrived (k : Fibre) (q : Nat) (y : Quad) : (k.setQuad q y).fbarArrived = k.fbarArrived := rfl
@[simp] theorem Fibre.setQuad_owed (k : Fibre) (q : Nat) (y : Quad) : (k.setQuad q y).owed = k.owed := rfl
@[simp] theorem Fibre.setQuad_regions (k : Fibre) (q : Nat) (y : Quad) : (k.setQuad q y).regions = k.regions := rfl
@[simp] theorem Fibre.setQuad_passStart (k : Fibre) (q : Nat) (y : Quad) : (k.setQuad q y).passStart = k.passStart := rfl

@[simp] theorem Fibre.orChki_block (k : Fibre) (b : BitVec 32) : (k.orChki b).block = k.block := rfl
@[simp] theorem Fibre.orChki_bslot (k : Fibre) (b : BitVec 32) : (k.orChki b).bslot = k.bslot := rfl
@[simp] theorem Fibre.orChki_index (k : Fibre) (b : BitVec 32) : (k.orChki b).index = k.index := rfl
@[simp] theorem Fibre.orChki_regs (k : Fibre) (b : BitVec 32) : (k.orChki b).regs = k.regs := rfl
@[simp] theorem Fibre.orChki_eq (k : Fibre) (b : BitVec 32) : (k.orChki b).eq = k.eq := rfl
@[simp] theorem Fibre.orChki_lq (k : Fibre) (b : BitVec 32) : (k.orChki b).lq = k.lq := rfl
@[simp] theorem Fibre.orChki_flags (k : Fibre) (b : BitVec 32) : (k.orChki b).flags = k.flags := rfl
@[simp] theorem Fibre.orChki_ops (k : Fibre) (b : BitVec 32) : (k.orChki b).ops = k.ops := rfl
@[simp] theorem Fibre.orChki_quads (k : Fibre) (b : BitVec 32) : (k.orChki b).quads = k.quads := rfl
@[simp] theorem Fibre.orChki_helpers (k : Fibre) (b : BitVec 32) : (k.orChki b).helpers = k.helpers := rfl
@[simp] theorem Fibre.orChki_present (k : Fibre) (b : BitVec 32) : (k.orChki b).present = k.present := rfl
@[simp] theorem Fibre.orChki_run (k : Fibre) (b : BitVec 32) : (k.orChki b).run = k.run := rfl
@[simp] theorem Fibre.orChki_frozenQuads (k : Fibre) (b : BitVec 32) : (k.orChki b).frozenQuads = k.frozenQuads := rfl
@[simp] theorem Fibre.orChki_second (k : Fibre) (b : BitVec 32) : (k.orChki b).second = k.second := rfl
@[simp] theorem Fibre.orChki_handler (k : Fibre) (b : BitVec 32) : (k.orChki b).handler = k.handler := rfl
@[simp] theorem Fibre.orChki_residue (k : Fibre) (b : BitVec 32) : (k.orChki b).residue = k.residue := rfl
@[simp] theorem Fibre.orChki_skipBreak (k : Fibre) (b : BitVec 32) : (k.orChki b).skipBreak = k.skipBreak := rfl
@[simp] theorem Fibre.orChki_stopSoon (k : Fibre) (b : BitVec 32) : (k.orChki b).stopSoon = k.stopSoon := rfl
@[simp] theorem Fibre.orChki_stepping (k : Fibre) (b : BitVec 32) : (k.orChki b).stepping = k.stepping := rfl
@[simp] theorem Fibre.orChki_scrollTrap (k : Fibre) (b : BitVec 32) : (k.orChki b).scrollTrap = k.scrollTrap := rfl
@[simp] theorem Fibre.orChki_monitor (k : Fibre) (b : BitVec 32) : (k.orChki b).monitor = k.monitor := rfl
@[simp] theorem Fibre.orChki_age (k : Fibre) (b : BitVec 32) : (k.orChki b).age = k.age := rfl
@[simp] theorem Fibre.orChki_stall (k : Fibre) (b : BitVec 32) : (k.orChki b).stall = k.stall := rfl
@[simp] theorem Fibre.orChki_fbarArrived (k : Fibre) (b : BitVec 32) : (k.orChki b).fbarArrived = k.fbarArrived := rfl
@[simp] theorem Fibre.orChki_owed (k : Fibre) (b : BitVec 32) : (k.orChki b).owed = k.owed := rfl
@[simp] theorem Fibre.orChki_regions (k : Fibre) (b : BitVec 32) : (k.orChki b).regions = k.regions := rfl
@[simp] theorem Fibre.orChki_passStart (k : Fibre) (b : BitVec 32) : (k.orChki b).passStart = k.passStart := rfl

@[simp] theorem Fibre.addSatc_block (k : Fibre) (n : Nat) : (k.addSatc n).block = k.block := rfl
@[simp] theorem Fibre.addSatc_bslot (k : Fibre) (n : Nat) : (k.addSatc n).bslot = k.bslot := rfl
@[simp] theorem Fibre.addSatc_index (k : Fibre) (n : Nat) : (k.addSatc n).index = k.index := rfl
@[simp] theorem Fibre.addSatc_regs (k : Fibre) (n : Nat) : (k.addSatc n).regs = k.regs := rfl
@[simp] theorem Fibre.addSatc_eq (k : Fibre) (n : Nat) : (k.addSatc n).eq = k.eq := rfl
@[simp] theorem Fibre.addSatc_lq (k : Fibre) (n : Nat) : (k.addSatc n).lq = k.lq := rfl
@[simp] theorem Fibre.addSatc_flags (k : Fibre) (n : Nat) : (k.addSatc n).flags = k.flags := rfl
@[simp] theorem Fibre.addSatc_ops (k : Fibre) (n : Nat) : (k.addSatc n).ops = k.ops := rfl
@[simp] theorem Fibre.addSatc_quads (k : Fibre) (n : Nat) : (k.addSatc n).quads = k.quads := rfl
@[simp] theorem Fibre.addSatc_helpers (k : Fibre) (n : Nat) : (k.addSatc n).helpers = k.helpers := rfl
@[simp] theorem Fibre.addSatc_present (k : Fibre) (n : Nat) : (k.addSatc n).present = k.present := rfl
@[simp] theorem Fibre.addSatc_run (k : Fibre) (n : Nat) : (k.addSatc n).run = k.run := rfl
@[simp] theorem Fibre.addSatc_frozenQuads (k : Fibre) (n : Nat) : (k.addSatc n).frozenQuads = k.frozenQuads := rfl
@[simp] theorem Fibre.addSatc_second (k : Fibre) (n : Nat) : (k.addSatc n).second = k.second := rfl
@[simp] theorem Fibre.addSatc_handler (k : Fibre) (n : Nat) : (k.addSatc n).handler = k.handler := rfl
@[simp] theorem Fibre.addSatc_residue (k : Fibre) (n : Nat) : (k.addSatc n).residue = k.residue := rfl
@[simp] theorem Fibre.addSatc_skipBreak (k : Fibre) (n : Nat) : (k.addSatc n).skipBreak = k.skipBreak := rfl
@[simp] theorem Fibre.addSatc_stopSoon (k : Fibre) (n : Nat) : (k.addSatc n).stopSoon = k.stopSoon := rfl
@[simp] theorem Fibre.addSatc_stepping (k : Fibre) (n : Nat) : (k.addSatc n).stepping = k.stepping := rfl
@[simp] theorem Fibre.addSatc_scrollTrap (k : Fibre) (n : Nat) : (k.addSatc n).scrollTrap = k.scrollTrap := rfl
@[simp] theorem Fibre.addSatc_monitor (k : Fibre) (n : Nat) : (k.addSatc n).monitor = k.monitor := rfl
@[simp] theorem Fibre.addSatc_age (k : Fibre) (n : Nat) : (k.addSatc n).age = k.age := rfl
@[simp] theorem Fibre.addSatc_stall (k : Fibre) (n : Nat) : (k.addSatc n).stall = k.stall := rfl
@[simp] theorem Fibre.addSatc_fbarArrived (k : Fibre) (n : Nat) : (k.addSatc n).fbarArrived = k.fbarArrived := rfl
@[simp] theorem Fibre.addSatc_owed (k : Fibre) (n : Nat) : (k.addSatc n).owed = k.owed := rfl
@[simp] theorem Fibre.addSatc_regions (k : Fibre) (n : Nat) : (k.addSatc n).regions = k.regions := rfl
@[simp] theorem Fibre.addSatc_passStart (k : Fibre) (n : Nat) : (k.addSatc n).passStart = k.passStart := rfl

@[simp] theorem Fibre.incFlag_block (k : Fibre) (n : Nat) : (k.incFlag n).block = k.block := rfl
@[simp] theorem Fibre.incFlag_bslot (k : Fibre) (n : Nat) : (k.incFlag n).bslot = k.bslot := rfl
@[simp] theorem Fibre.incFlag_index (k : Fibre) (n : Nat) : (k.incFlag n).index = k.index := rfl
@[simp] theorem Fibre.incFlag_regs (k : Fibre) (n : Nat) : (k.incFlag n).regs = k.regs := rfl
@[simp] theorem Fibre.incFlag_sys (k : Fibre) (n : Nat) : (k.incFlag n).sys = k.sys := rfl
@[simp] theorem Fibre.incFlag_eq (k : Fibre) (n : Nat) : (k.incFlag n).eq = k.eq := rfl
@[simp] theorem Fibre.incFlag_lq (k : Fibre) (n : Nat) : (k.incFlag n).lq = k.lq := rfl
@[simp] theorem Fibre.incFlag_ops (k : Fibre) (n : Nat) : (k.incFlag n).ops = k.ops := rfl
@[simp] theorem Fibre.incFlag_quads (k : Fibre) (n : Nat) : (k.incFlag n).quads = k.quads := rfl
@[simp] theorem Fibre.incFlag_helpers (k : Fibre) (n : Nat) : (k.incFlag n).helpers = k.helpers := rfl
@[simp] theorem Fibre.incFlag_present (k : Fibre) (n : Nat) : (k.incFlag n).present = k.present := rfl
@[simp] theorem Fibre.incFlag_run (k : Fibre) (n : Nat) : (k.incFlag n).run = k.run := rfl
@[simp] theorem Fibre.incFlag_frozenQuads (k : Fibre) (n : Nat) : (k.incFlag n).frozenQuads = k.frozenQuads := rfl
@[simp] theorem Fibre.incFlag_second (k : Fibre) (n : Nat) : (k.incFlag n).second = k.second := rfl
@[simp] theorem Fibre.incFlag_handler (k : Fibre) (n : Nat) : (k.incFlag n).handler = k.handler := rfl
@[simp] theorem Fibre.incFlag_residue (k : Fibre) (n : Nat) : (k.incFlag n).residue = k.residue := rfl
@[simp] theorem Fibre.incFlag_skipBreak (k : Fibre) (n : Nat) : (k.incFlag n).skipBreak = k.skipBreak := rfl
@[simp] theorem Fibre.incFlag_stopSoon (k : Fibre) (n : Nat) : (k.incFlag n).stopSoon = k.stopSoon := rfl
@[simp] theorem Fibre.incFlag_stepping (k : Fibre) (n : Nat) : (k.incFlag n).stepping = k.stepping := rfl
@[simp] theorem Fibre.incFlag_scrollTrap (k : Fibre) (n : Nat) : (k.incFlag n).scrollTrap = k.scrollTrap := rfl
@[simp] theorem Fibre.incFlag_monitor (k : Fibre) (n : Nat) : (k.incFlag n).monitor = k.monitor := rfl
@[simp] theorem Fibre.incFlag_age (k : Fibre) (n : Nat) : (k.incFlag n).age = k.age := rfl
@[simp] theorem Fibre.incFlag_stall (k : Fibre) (n : Nat) : (k.incFlag n).stall = k.stall := rfl
@[simp] theorem Fibre.incFlag_fbarArrived (k : Fibre) (n : Nat) : (k.incFlag n).fbarArrived = k.fbarArrived := rfl
@[simp] theorem Fibre.incFlag_owed (k : Fibre) (n : Nat) : (k.incFlag n).owed = k.owed := rfl
@[simp] theorem Fibre.incFlag_regions (k : Fibre) (n : Nat) : (k.incFlag n).regions = k.regions := rfl
@[simp] theorem Fibre.incFlag_passStart (k : Fibre) (n : Nat) : (k.incFlag n).passStart = k.passStart := rfl

@[simp] theorem Fibre.decFlag_block (k : Fibre) (n : Nat) : (k.decFlag n).block = k.block := rfl
@[simp] theorem Fibre.decFlag_bslot (k : Fibre) (n : Nat) : (k.decFlag n).bslot = k.bslot := rfl
@[simp] theorem Fibre.decFlag_index (k : Fibre) (n : Nat) : (k.decFlag n).index = k.index := rfl
@[simp] theorem Fibre.decFlag_regs (k : Fibre) (n : Nat) : (k.decFlag n).regs = k.regs := rfl
@[simp] theorem Fibre.decFlag_sys (k : Fibre) (n : Nat) : (k.decFlag n).sys = k.sys := rfl
@[simp] theorem Fibre.decFlag_eq (k : Fibre) (n : Nat) : (k.decFlag n).eq = k.eq := rfl
@[simp] theorem Fibre.decFlag_lq (k : Fibre) (n : Nat) : (k.decFlag n).lq = k.lq := rfl
@[simp] theorem Fibre.decFlag_ops (k : Fibre) (n : Nat) : (k.decFlag n).ops = k.ops := rfl
@[simp] theorem Fibre.decFlag_quads (k : Fibre) (n : Nat) : (k.decFlag n).quads = k.quads := rfl
@[simp] theorem Fibre.decFlag_helpers (k : Fibre) (n : Nat) : (k.decFlag n).helpers = k.helpers := rfl
@[simp] theorem Fibre.decFlag_present (k : Fibre) (n : Nat) : (k.decFlag n).present = k.present := rfl
@[simp] theorem Fibre.decFlag_run (k : Fibre) (n : Nat) : (k.decFlag n).run = k.run := rfl
@[simp] theorem Fibre.decFlag_frozenQuads (k : Fibre) (n : Nat) : (k.decFlag n).frozenQuads = k.frozenQuads := rfl
@[simp] theorem Fibre.decFlag_second (k : Fibre) (n : Nat) : (k.decFlag n).second = k.second := rfl
@[simp] theorem Fibre.decFlag_handler (k : Fibre) (n : Nat) : (k.decFlag n).handler = k.handler := rfl
@[simp] theorem Fibre.decFlag_residue (k : Fibre) (n : Nat) : (k.decFlag n).residue = k.residue := rfl
@[simp] theorem Fibre.decFlag_skipBreak (k : Fibre) (n : Nat) : (k.decFlag n).skipBreak = k.skipBreak := rfl
@[simp] theorem Fibre.decFlag_stopSoon (k : Fibre) (n : Nat) : (k.decFlag n).stopSoon = k.stopSoon := rfl
@[simp] theorem Fibre.decFlag_stepping (k : Fibre) (n : Nat) : (k.decFlag n).stepping = k.stepping := rfl
@[simp] theorem Fibre.decFlag_scrollTrap (k : Fibre) (n : Nat) : (k.decFlag n).scrollTrap = k.scrollTrap := rfl
@[simp] theorem Fibre.decFlag_monitor (k : Fibre) (n : Nat) : (k.decFlag n).monitor = k.monitor := rfl
@[simp] theorem Fibre.decFlag_age (k : Fibre) (n : Nat) : (k.decFlag n).age = k.age := rfl
@[simp] theorem Fibre.decFlag_stall (k : Fibre) (n : Nat) : (k.decFlag n).stall = k.stall := rfl
@[simp] theorem Fibre.decFlag_fbarArrived (k : Fibre) (n : Nat) : (k.decFlag n).fbarArrived = k.fbarArrived := rfl
@[simp] theorem Fibre.decFlag_owed (k : Fibre) (n : Nat) : (k.decFlag n).owed = k.owed := rfl
@[simp] theorem Fibre.decFlag_regions (k : Fibre) (n : Nat) : (k.decFlag n).regions = k.regions := rfl
@[simp] theorem Fibre.decFlag_passStart (k : Fibre) (n : Nat) : (k.decFlag n).passStart = k.passStart := rfl

@[simp] theorem Fibre.recordTrap_block (k : Fibre) (c : BitVec 8) (pc : VAddr) (l : LaneMask) : (k.recordTrap c pc l).block = k.block := rfl
@[simp] theorem Fibre.recordTrap_bslot (k : Fibre) (c : BitVec 8) (pc : VAddr) (l : LaneMask) : (k.recordTrap c pc l).bslot = k.bslot := rfl
@[simp] theorem Fibre.recordTrap_index (k : Fibre) (c : BitVec 8) (pc : VAddr) (l : LaneMask) : (k.recordTrap c pc l).index = k.index := rfl
@[simp] theorem Fibre.recordTrap_regs (k : Fibre) (c : BitVec 8) (pc : VAddr) (l : LaneMask) : (k.recordTrap c pc l).regs = k.regs := rfl
@[simp] theorem Fibre.recordTrap_eq (k : Fibre) (c : BitVec 8) (pc : VAddr) (l : LaneMask) : (k.recordTrap c pc l).eq = k.eq := rfl
@[simp] theorem Fibre.recordTrap_lq (k : Fibre) (c : BitVec 8) (pc : VAddr) (l : LaneMask) : (k.recordTrap c pc l).lq = k.lq := rfl
@[simp] theorem Fibre.recordTrap_flags (k : Fibre) (c : BitVec 8) (pc : VAddr) (l : LaneMask) : (k.recordTrap c pc l).flags = k.flags := rfl
@[simp] theorem Fibre.recordTrap_ops (k : Fibre) (c : BitVec 8) (pc : VAddr) (l : LaneMask) : (k.recordTrap c pc l).ops = k.ops := rfl
@[simp] theorem Fibre.recordTrap_quads (k : Fibre) (c : BitVec 8) (pc : VAddr) (l : LaneMask) : (k.recordTrap c pc l).quads = k.quads := rfl
@[simp] theorem Fibre.recordTrap_helpers (k : Fibre) (c : BitVec 8) (pc : VAddr) (l : LaneMask) : (k.recordTrap c pc l).helpers = k.helpers := rfl
@[simp] theorem Fibre.recordTrap_present (k : Fibre) (c : BitVec 8) (pc : VAddr) (l : LaneMask) : (k.recordTrap c pc l).present = k.present := rfl
@[simp] theorem Fibre.recordTrap_run (k : Fibre) (c : BitVec 8) (pc : VAddr) (l : LaneMask) : (k.recordTrap c pc l).run = k.run := rfl
@[simp] theorem Fibre.recordTrap_frozenQuads (k : Fibre) (c : BitVec 8) (pc : VAddr) (l : LaneMask) : (k.recordTrap c pc l).frozenQuads = k.frozenQuads := rfl
@[simp] theorem Fibre.recordTrap_second (k : Fibre) (c : BitVec 8) (pc : VAddr) (l : LaneMask) : (k.recordTrap c pc l).second = k.second := rfl
@[simp] theorem Fibre.recordTrap_handler (k : Fibre) (c : BitVec 8) (pc : VAddr) (l : LaneMask) : (k.recordTrap c pc l).handler = k.handler := rfl
@[simp] theorem Fibre.recordTrap_residue (k : Fibre) (c : BitVec 8) (pc : VAddr) (l : LaneMask) : (k.recordTrap c pc l).residue = k.residue := rfl
@[simp] theorem Fibre.recordTrap_skipBreak (k : Fibre) (c : BitVec 8) (pc : VAddr) (l : LaneMask) : (k.recordTrap c pc l).skipBreak = k.skipBreak := rfl
@[simp] theorem Fibre.recordTrap_stopSoon (k : Fibre) (c : BitVec 8) (pc : VAddr) (l : LaneMask) : (k.recordTrap c pc l).stopSoon = k.stopSoon := rfl
@[simp] theorem Fibre.recordTrap_stepping (k : Fibre) (c : BitVec 8) (pc : VAddr) (l : LaneMask) : (k.recordTrap c pc l).stepping = k.stepping := rfl
@[simp] theorem Fibre.recordTrap_scrollTrap (k : Fibre) (c : BitVec 8) (pc : VAddr) (l : LaneMask) : (k.recordTrap c pc l).scrollTrap = k.scrollTrap := rfl
@[simp] theorem Fibre.recordTrap_monitor (k : Fibre) (c : BitVec 8) (pc : VAddr) (l : LaneMask) : (k.recordTrap c pc l).monitor = k.monitor := rfl
@[simp] theorem Fibre.recordTrap_age (k : Fibre) (c : BitVec 8) (pc : VAddr) (l : LaneMask) : (k.recordTrap c pc l).age = k.age := rfl
@[simp] theorem Fibre.recordTrap_stall (k : Fibre) (c : BitVec 8) (pc : VAddr) (l : LaneMask) : (k.recordTrap c pc l).stall = k.stall := rfl
@[simp] theorem Fibre.recordTrap_fbarArrived (k : Fibre) (c : BitVec 8) (pc : VAddr) (l : LaneMask) : (k.recordTrap c pc l).fbarArrived = k.fbarArrived := rfl
@[simp] theorem Fibre.recordTrap_owed (k : Fibre) (c : BitVec 8) (pc : VAddr) (l : LaneMask) : (k.recordTrap c pc l).owed = k.owed := rfl
@[simp] theorem Fibre.recordTrap_regions (k : Fibre) (c : BitVec 8) (pc : VAddr) (l : LaneMask) : (k.recordTrap c pc l).regions = k.regions := rfl
@[simp] theorem Fibre.recordTrap_passStart (k : Fibre) (c : BitVec 8) (pc : VAddr) (l : LaneMask) : (k.recordTrap c pc l).passStart = k.passStart := rfl

/-! ### A read after a write -/

theorem State.core_setCore (s : State) (c d : Nat) (x : CoreState) :
    (s.setCore c x).core d = if d = c then x else s.core d := Tab.get_set ..
@[simp] theorem State.core_setCore_same (s : State) (c : Nat) (x : CoreState) : (s.setCore c x).core c = x := by
  simp [State.core_setCore]
theorem State.core_setCore_other (s : State) {c d : Nat} (x : CoreState) (h : d ≠ c) :
    (s.setCore c x).core d = s.core d := by
  simp [State.core_setCore, h]
theorem State.core_modCore (s : State) (c d : Nat) (g : CoreState → CoreState) :
    (s.modCore c g).core d = if d = c then g (s.core c) else s.core d := s.core_setCore ..
@[simp] theorem State.core_modCore_same (s : State) (c : Nat) (g : CoreState → CoreState) :
    (s.modCore c g).core c = g (s.core c) := s.core_setCore_same ..
theorem State.core_modCore_other (s : State) {c d : Nat} (g : CoreState → CoreState) (h : d ≠ c) :
    (s.modCore c g).core d = s.core d := s.core_setCore_other _ h

theorem State.die_setDie (s : State) (d e : Nat) (x : DieRegs) :
    (s.setDie d x).die e = if e = d then x else s.die e := Tab.get_set ..
theorem State.cluster_setCluster (s : State) (d e : Nat) (x : Cluster) :
    (s.setCluster d x).cluster e = if e = d then x else s.cluster e := Tab.get_set ..
theorem State.link_setLink (s : State) (d e : Nat) (x : Link) :
    (s.setLink d x).link e = if e = d then x else s.link e := Tab.get_set ..
theorem State.partition_setPartition (s : State) (d e : Nat) (x : Partition) :
    (s.setPartition d x).partition e = if e = d then x else s.partition e := Tab.get_set ..
theorem State.pair_setPair (s : State) (d e : Nat) (x : Pair) :
    (s.setPair d x).pair e = if e = d then x else s.pair e := Tab.get_set ..

@[simp] theorem CoreState.fibre_setFibre (k : CoreState) (f g : Nat) (x : Fibre) :
    (k.setFibre f x).fibre g = if g = f then x else k.fibre g := Tab.get_set ..
@[simp] theorem CoreState.block_setBlock (k : CoreState) (f g : Nat) (x : Block) :
    (k.setBlock f x).block g = if g = f then x else k.block g := Tab.get_set ..
@[simp] theorem CoreState.slot_setSlot (k : CoreState) (f g : Nat) (x : Slot) :
    (k.setSlot f x).slot g = if g = f then x else k.slot g := Tab.get_set ..
@[simp] theorem CoreState.block_setFibre (k : CoreState) (f b : Nat) (x : Fibre) :
    (k.setFibre f x).block b = k.block b := rfl
@[simp] theorem CoreState.slot_setFibre (k : CoreState) (f b : Nat) (x : Fibre) :
    (k.setFibre f x).slot b = k.slot b := rfl
@[simp] theorem CoreState.fibre_setBlock (k : CoreState) (f b : Nat) (x : Block) :
    (k.setBlock b x).fibre f = k.fibre f := rfl
@[simp] theorem CoreState.slot_setBlock (k : CoreState) (f b : Nat) (x : Block) :
    (k.setBlock b x).slot f = k.slot f := rfl
@[simp] theorem CoreState.fibre_setSlot (k : CoreState) (f b : Nat) (x : Slot) :
    (k.setSlot b x).fibre f = k.fibre f := rfl
@[simp] theorem CoreState.block_setSlot (k : CoreState) (f b : Nat) (x : Slot) :
    (k.setSlot b x).block f = k.block f := rfl

theorem State.fibre_setFibre (s : State) (c f d g : Nat) (x : Fibre) :
    (s.setFibre c f x).fibre d g = if d = c ∧ g = f then x else s.fibre d g := by
  unfold State.setFibre State.fibre
  rw [State.core_modCore]
  by_cases h : d = c <;> simp [h]
@[simp] theorem State.fibre_setFibre_same (s : State) (c f : Nat) (x : Fibre) :
    (s.setFibre c f x).fibre c f = x := by
  simp [State.fibre_setFibre]
theorem State.block_setFibre (s : State) (c f d b : Nat) (x : Fibre) :
    (s.setFibre c f x).block d b = s.block d b := by
  unfold State.setFibre State.block
  rw [State.core_modCore]
  by_cases h : d = c <;> simp [h]
theorem State.slot_setFibre (s : State) (c f d b : Nat) (x : Fibre) :
    (s.setFibre c f x).slot d b = s.slot d b := by
  unfold State.setFibre State.slot
  rw [State.core_modCore]
  by_cases h : d = c <;> simp [h]
theorem State.block_setBlock (s : State) (c f d g : Nat) (x : Block) :
    (s.setBlock c f x).block d g = if d = c ∧ g = f then x else s.block d g := by
  unfold State.setBlock State.block
  rw [State.core_modCore]
  by_cases h : d = c <;> simp [h]
theorem State.fibre_setBlock (s : State) (c b d g : Nat) (x : Block) :
    (s.setBlock c b x).fibre d g = s.fibre d g := by
  unfold State.setBlock State.fibre
  rw [State.core_modCore]
  by_cases h : d = c <;> simp [h]
theorem State.slot_setSlot (s : State) (c f d g : Nat) (x : Slot) :
    (s.setSlot c f x).slot d g = if d = c ∧ g = f then x else s.slot d g := by
  unfold State.setSlot State.slot
  rw [State.core_modCore]
  by_cases h : d = c <;> simp [h]
theorem State.fibre_setSlot (s : State) (c b d g : Nat) (x : Slot) :
    (s.setSlot c b x).fibre d g = s.fibre d g := by
  unfold State.setSlot State.fibre
  rw [State.core_modCore]
  by_cases h : d = c <;> simp [h]

/-! ### The issuing fibre -/

@[simp] theorem State.cur_setCur (s : State) (x : Fibre) : (s.setCur x).cur = x := by
  simp [State.setCur, State.cur, State.setFibre, State.modCore, State.setCore, State.fibre, State.core]
@[simp] theorem State.cur_modCur (s : State) (g : Fibre → Fibre) : (s.modCur g).cur = g s.cur := by
  simp [State.modCur]
@[simp] theorem State.block_setCur (s : State) (x : Fibre) (d b : Nat) : (s.setCur x).block d b = s.block d b :=
  s.block_setFibre ..
@[simp] theorem State.slot_setCur (s : State) (x : Fibre) (d b : Nat) : (s.setCur x).slot d b = s.slot d b :=
  s.slot_setFibre ..
theorem State.fibre_setCur (s : State) (x : Fibre) (d g : Nat) :
    (s.setCur x).fibre d g = if d = s.focus.core ∧ g = s.focus.fib then x else s.fibre d g := s.fibre_setFibre ..
theorem State.core_setCur_other (s : State) (x : Fibre) {c : Nat} (h : c ≠ s.focus.core) :
    (s.setCur x).core c = s.core c := s.core_modCore_other _ h
theorem State.curCore_setCur (s : State) (x : Fibre) : (s.setCur x).curCore = s.curCore.setFibre s.focus.fib x := by
  simp only [State.setCur, State.curCore, State.setFibre, State.modCore_focus, State.core_modCore_same]
@[simp] theorem State.curCore_setCur_mem (s : State) (x : Fibre) : (s.setCur x).curCore.mem = s.curCore.mem := by
  rw [State.curCore_setCur]; rfl
@[simp] theorem State.curCore_setCur_eng (s : State) (x : Fibre) : (s.setCur x).curCore.eng = s.curCore.eng := by
  rw [State.curCore_setCur]; rfl
@[simp] theorem State.curCore_setCur_regs (s : State) (x : Fibre) : (s.setCur x).curCore.regs = s.curCore.regs := by
  rw [State.curCore_setCur]; rfl

/-! ### Registers of a fibre -/

/-- R79: `s0` reads 0, and a write to it is discarded. -/
@[simp] theorem Fibre.scalar_zero (x : Fibre) : x.scalar 0 = PX.zero := rfl
@[simp] theorem Fibre.setScalar_zero (x : Fibre) (v : PX) : x.setScalar 0 v = x := rfl
theorem Fibre.scalar_setScalar (x : Fibre) (n m : Nat) (v : PX) :
    (x.setScalar n v).scalar m = if m = n ∧ n ≠ 0 then v else x.scalar m := by
  by_cases hn : n = 0
  · subst hn; simp
  · by_cases hm : m = 0
    · subst hm; simp [Ne.symm hn]
    · by_cases h : m = n
      · subst h
        simp [Fibre.scalar, Fibre.setScalar, RegFile.scalar, RegFile.setScalar, hn]
      · simp [Fibre.scalar, Fibre.setScalar, RegFile.scalar, RegFile.setScalar, hm, hn, Tab.get_set, h]
@[simp] theorem Fibre.pred_setScalar (x : Fibre) (n m : Nat) (v : PX) : (x.setScalar n v).pred m = x.pred m := by
  simp only [Fibre.pred, Fibre.setScalar, RegFile.setScalar]
  by_cases h : n = 0 <;> simp [h]
@[simp] theorem Fibre.units_setScalar (x : Fibre) (n : Nat) (v : PX) : (x.setScalar n v).regs.units = x.regs.units := by
  simp only [Fibre.setScalar, RegFile.setScalar]
  by_cases h : n = 0 <;> simp [h]
theorem Fibre.pred_setPred (x : Fibre) (n k : Nat) (m v : LaneMask) (hn : n ≠ 0) (h15 : n ≠ 15) :
    (x.setPred n m v).pred k = if k = n then (v &&& m) ||| (x.pred n &&& ~~~m) else x.pred k := by
  by_cases h : k = n
  · subst h; simp [Fibre.setPred, Fibre.pred, hn, h15]
  · simp [Fibre.setPred, Fibre.pred, hn, h15, h, Tab.get_set]
@[simp] theorem Fibre.scalar_setPred (x : Fibre) (n k : Nat) (m v : LaneMask) :
    (x.setPred n m v).scalar k = x.scalar k := rfl
@[simp] theorem Fibre.quad_setQuad_same (x : Fibre) (q : Nat) (y : Quad) : (x.setQuad q y).quad q = y :=
  Tab.get_set_same ..
theorem Fibre.quad_setQuad (x : Fibre) (q r : Nat) (y : Quad) :
    (x.setQuad q y).quad r = if r = q then y else x.quad r := Tab.get_set ..
theorem Fibre.flag_incFlag (x : Fibre) (n m : Nat) :
    (x.incFlag n).flag m = if m = n then x.flag n + 1 else x.flag m := by
  simp [Fibre.flag, Fibre.incFlag, Tab.get_set]
theorem Fibre.flag_decFlag (x : Fibre) (n m : Nat) :
    (x.decFlag n).flag m = if m = n then x.flag n - 1 else x.flag m := Tab.get_set ..

end Sys2Proof.Machine
end

