-- ==== Sys2Proof/Laws/Memory.lean ====
section
/-! SUPPORT. Laws of physical memory: every operation keeps the canonical form, and what a byte reads after each of
them. -/

namespace Sys2Proof.Machine

/-! ### The canonical form -/

/-- Nothing is listed after reset. -/
theorem State.reset_mem_wf : State.reset.mem.wf = true := rfl

@[simp] theorem Memory.wf_setByte (m : Memory) (a : Nat) (b : BitVec 8) (h : m.wf = true) :
    (m.setByte a b).wf = true := Tab.wf_set a b h
@[simp] theorem Memory.wf_putBytes (m : Memory) (a : Nat) (bs : List (BitVec 8)) (h : m.wf = true) :
    (m.putBytes a bs).wf = true := by
  induction bs generalizing m a with
  | nil => exact h
  | cons b rest ih => exact ih _ _ (m.wf_setByte a b h)
@[simp] theorem Memory.cells_markPoison (m : Memory) (a n : Nat) (p : Bool) :
    (m.markPoison a n p).cells = m.cells := rfl
@[simp] theorem Memory.cells_markRelease (m : Memory) (a n : Nat) (r : ReleaseAction) :
    (m.markRelease a n r).cells = m.cells := by cases r <;> rfl
@[simp] theorem Memory.cells_write (m : Memory) (a : Nat) (bs : List (BitVec 8)) (p : Bool) (r : ReleaseAction) :
    (m.write a bs p r).cells = (m.putBytes a bs).cells := by simp [Memory.write]
@[simp] theorem Memory.wf_write (m : Memory) (a : Nat) (bs : List (BitVec 8)) (p : Bool) (r : ReleaseAction)
    (h : m.wf = true) : (m.write a bs p r).wf = true := by
  unfold Memory.wf
  rw [Memory.cells_write]
  exact m.wf_putBytes a bs h

/-! ### What a byte reads -/

theorem Memory.byte_congr {m n : Memory} (h : m.cells = n.cells) (a : Nat) : m.byte a = n.byte a := by
  simp [Memory.byte, h]
theorem Memory.byte_setByte (m : Memory) (a c : Nat) (b : BitVec 8) :
    (m.setByte a b).byte c = if c = a then b else m.byte c := Tab.get_set ..
@[simp] theorem Memory.byte_setByte_same (m : Memory) (a : Nat) (b : BitVec 8) : (m.setByte a b).byte a = b := by
  simp [Memory.byte_setByte]
@[simp] theorem Memory.byte_markPoison (m : Memory) (a n c : Nat) (p : Bool) :
    (m.markPoison a n p).byte c = m.byte c := rfl
@[simp] theorem Memory.byte_markRelease (m : Memory) (a n c : Nat) (r : ReleaseAction) :
    (m.markRelease a n r).byte c = m.byte c := Memory.byte_congr (m.cells_markRelease a n r) c
/-- A run of bytes: inside it what was written, outside it what was there. -/
theorem Memory.byte_putBytes (m : Memory) (a c : Nat) (bs : List (BitVec 8)) :
    (m.putBytes a bs).byte c = if a ≤ c ∧ c < a + bs.length then bs.getD (c - a) 0 else m.byte c := by
  induction bs generalizing m a with
  | nil =>
    have h : ¬(a ≤ c ∧ c < a + 0) := by omega
    exact (if_neg h).symm
  | cons b rest ih =>
    simp only [Memory.putBytes, ih, Memory.byte_setByte, List.length_cons]
    by_cases h1 : c = a
    · subst h1
      have h2 : ¬(c + 1 ≤ c ∧ c < c + 1 + rest.length) := by omega
      have h3 : c ≤ c ∧ c < c + (rest.length + 1) := by omega
      rw [if_neg h2, if_pos h3, if_pos rfl, Nat.sub_self]; rfl
    · by_cases h2 : a + 1 ≤ c ∧ c < a + 1 + rest.length
      · have h3 : a ≤ c ∧ c < a + (rest.length + 1) := by omega
        have h4 : c - a = (c - (a + 1)) + 1 := by omega
        rw [if_pos h2, if_pos h3, h4]; rfl
      · have h3 : ¬(a ≤ c ∧ c < a + (rest.length + 1)) := by omega
        rw [if_neg h2, if_neg h3, if_neg h1]
theorem Memory.byte_write (m : Memory) (a c : Nat) (bs : List (BitVec 8)) (p : Bool) (r : ReleaseAction) :
    (m.write a bs p r).byte c = if a ≤ c ∧ c < a + bs.length then bs.getD (c - a) 0 else m.byte c := by
  rw [Memory.byte_congr (m.cells_write a bs p r), Memory.byte_putBytes]
theorem Memory.byte_write_outside (m : Memory) {a c : Nat} {bs : List (BitVec 8)} (p : Bool) (r : ReleaseAction)
    (h : c < a ∨ a + bs.length ≤ c) : (m.write a bs p r).byte c = m.byte c := by
  rw [Memory.byte_write, if_neg (by omega)]

/-! ### Runs of bytes -/

@[simp] theorem Memory.length_read (m : Memory) (a n : Nat) : (m.read a n).length = n := by
  induction n generalizing a with
  | zero => rfl
  | succ n ih => simp [Memory.read, ih]
theorem Memory.read_congr {m k : Memory} {a n : Nat} (h : ∀ j, j < n → m.byte (a + j) = k.byte (a + j)) :
    m.read a n = k.read a n := by
  induction n generalizing a with
  | zero => rfl
  | succ n ih =>
    simp only [Memory.read]
    rw [show m.byte a = k.byte a from h 0 (by omega),
      ih (fun j hj => by simpa [Nat.add_assoc, Nat.add_comm 1 j] using h (j + 1) (by omega))]
/-- A read of what has just been written gives it back. -/
theorem Memory.read_putBytes (m : Memory) (a : Nat) (bs : List (BitVec 8)) :
    (m.putBytes a bs).read a bs.length = bs := by
  induction bs generalizing m a with
  | nil => rfl
  | cons b rest ih =>
    simp only [List.length_cons, Memory.read, Memory.putBytes, ih, Memory.byte_putBytes, Memory.byte_setByte_same]
    rw [if_neg (by omega)]
theorem Memory.read_write (m : Memory) (a : Nat) (bs : List (BitVec 8)) (p : Bool) (r : ReleaseAction) :
    (m.write a bs p r).read a bs.length = bs := by
  have h : (m.write a bs p r).read a bs.length = (m.putBytes a bs).read a bs.length :=
    Memory.read_congr (fun j _ => Memory.byte_congr (m.cells_write a bs p r) (a + j))
  rw [h, Memory.read_putBytes]
/-- A read of a run that the write does not touch gives what it gave. -/
theorem Memory.read_write_outside (m : Memory) {a b n : Nat} {bs : List (BitVec 8)} (p : Bool) (r : ReleaseAction)
    (h : b + n ≤ a ∨ a + bs.length ≤ b) : (m.write a bs p r).read b n = m.read b n :=
  Memory.read_congr (fun j hj => m.byte_write_outside p r (by omega))
theorem Memory.num_write_outside (m : Memory) {a b n : Nat} {bs : List (BitVec 8)} (p : Bool) (r : ReleaseAction)
    (h : b + n ≤ a ∨ a + bs.length ≤ b) : (m.write a bs p r).num b n = m.num b n := by
  unfold Memory.num
  rw [m.read_write_outside p r h]

@[simp] theorem length_bytesOf (n x : Nat) : (bytesOf n x).length = n := by
  induction n generalizing x with
  | zero => rfl
  | succ n ih => simp [bytesOf, ih]
/-- Bytes and numbers agree (R9). -/
theorem ofBytes_bytesOf (n x : Nat) : ofBytes (bytesOf n x) = x % 256 ^ n := by
  induction n generalizing x with
  | zero => simp [bytesOf, ofBytes, Nat.mod_one]
  | succ n ih =>
    rw [show (256 : Nat) ^ (n + 1) = 256 * 256 ^ n from Nat.pow_succ', Nat.mod_mul]
    simp [bytesOf, ofBytes, ih]
theorem Memory.num_write (m : Memory) (a n x : Nat) (p : Bool) (r : ReleaseAction) :
    (m.write a (bytesOf n x) p r).num a n = x % 256 ^ n := by
  have h := m.read_write a (bytesOf n x) p r
  rw [length_bytesOf] at h
  rw [Memory.num, h, ofBytes_bytesOf]

/-! ### Writes of the state -/

@[simp] theorem State.noteWrite_mem (s : State) (a n : Nat) : (s.noteWrite a n).mem = s.mem := rfl
@[simp] theorem State.writeMem_mem (s : State) (a : Nat) (bs : List (BitVec 8)) (p : Bool) (r : ReleaseAction) :
    (s.writeMem a bs p r).mem = s.mem.write a bs p r := rfl
@[simp] theorem State.writeMem_focus (s : State) (a : Nat) (bs : List (BitVec 8)) (p : Bool) (r : ReleaseAction) :
    (s.writeMem a bs p r).focus = s.focus := rfl
@[simp] theorem State.writeMem_trans (s : State) (a : Nat) (bs : List (BitVec 8)) (p : Bool) (r : ReleaseAction) :
    (s.writeMem a bs p r).trans = s.trans := rfl
@[simp] theorem State.writeMem_launches (s : State) (a : Nat) (bs : List (BitVec 8)) (p : Bool) (r : ReleaseAction) :
    (s.writeMem a bs p r).launches = s.launches := rfl
theorem State.wf_writeMem (s : State) (a : Nat) (bs : List (BitVec 8)) (p : Bool) (r : ReleaseAction)
    (h : s.mem.wf = true) : (s.writeMem a bs p r).mem.wf = true := s.mem.wf_write a bs p r h

/-- The events that leave for a queue are writes of memory (R377). -/
theorem State.wf_releaseEvents (c fuel : Nat) (s : State) (h : s.mem.wf = true) :
    (s.releaseEvents c fuel).mem.wf = true := by
  induction fuel generalizing s with
  | zero => exact h
  | succ n ih =>
    simp only [State.releaseEvents]
    split
    · exact h
    · split
      · exact ih _ (Memory.wf_write _ _ _ _ _ h)
      · exact h
theorem State.wf_postEvent (s : State) (c f cause : Nat) (unh : Bool) (pc : VAddr) (lanes : LaneMask) (detail : DWord)
    (h : s.mem.wf = true) : (s.postEvent c f cause unh pc lanes detail).mem.wf = true :=
  State.wf_releaseEvents _ _ _ h

end Sys2Proof.Machine
end

