-- ==== Sys2Proof/Laws/Ops.lean ====
section
/-! SUPPORT. What each shared operation does: quads, retiring and waiting, scalar operands and results, lane
registers, flags, events, taking a trap and returning from one. -/

namespace Sys2Proof.Machine
open Sys2Proof.Spec

/-! ### Quads (R18) -/

theorem mem_quadsIn (m : QuadMask) (q : Nat) : q ∈ quadsIn m ↔ q < 16 ∧ m.getLsbD q = true := by
  simp [quadsIn]
theorem nodup_quadsIn (m : QuadMask) : (quadsIn m).Nodup := List.nodup_range.filter _

theorem Fibre.quad_foldl_setQuad (g : Nat → Quad → Quad) (qs : List Nat) (hn : qs.Nodup) (x : Fibre) (r : Nat) :
    (qs.foldl (fun y q => y.setQuad q (g q (y.quad q))) x).quad r = if r ∈ qs then g r (x.quad r) else x.quad r := by
  induction qs generalizing x with
  | nil => simp
  | cons q rest ih =>
    obtain ⟨h1, h2⟩ := List.nodup_cons.mp hn
    rw [List.foldl_cons, ih h2, Fibre.quad_setQuad]
    by_cases hr : r = q
    · subst hr; simp [h1]
    · simp [hr]
/-- Every quad of the mask changes, and no other. -/
theorem Fibre.quad_modQuads (x : Fibre) (m : QuadMask) (g : Nat → Quad → Quad) (r : Nat) :
    (x.modQuads m g).quad r = if r < 16 ∧ m.getLsbD r = true then g r (x.quad r) else x.quad r := by
  rw [Fibre.modQuads, Fibre.quad_foldl_setQuad _ _ (nodup_quadsIn m)]
  simp only [mem_quadsIn]
/-- `modQuads` changes the quads and nothing else. -/
theorem Fibre.modQuads_eq (x : Fibre) (m : QuadMask) (g : Nat → Quad → Quad) :
    x.modQuads m g = { x with quads := (x.modQuads m g).quads } := by
  have h : ∀ (qs : List Nat) (y : Fibre), qs.foldl (fun y q => y.setQuad q (g q (y.quad q))) y =
      { y with quads := (qs.foldl (fun y q => y.setQuad q (g q (y.quad q))) y).quads } := by
    intro qs
    induction qs with
    | nil => intro y; rfl
    | cons q rest ih => intro y; rw [List.foldl_cons, ih]; rfl
  exact h (quadsIn m) x
@[simp] theorem Fibre.modQuads_regs (x : Fibre) (m : QuadMask) (g : Nat → Quad → Quad) :
    (x.modQuads m g).regs = x.regs := by rw [Fibre.modQuads_eq]
@[simp] theorem Fibre.modQuads_sys (x : Fibre) (m : QuadMask) (g : Nat → Quad → Quad) :
    (x.modQuads m g).sys = x.sys := by rw [Fibre.modQuads_eq]
@[simp] theorem Fibre.modQuads_flags (x : Fibre) (m : QuadMask) (g : Nat → Quad → Quad) :
    (x.modQuads m g).flags = x.flags := by rw [Fibre.modQuads_eq]
@[simp] theorem Fibre.modQuads_block (x : Fibre) (m : QuadMask) (g : Nat → Quad → Quad) :
    (x.modQuads m g).block = x.block := by rw [Fibre.modQuads_eq]
@[simp] theorem Fibre.modQuads_handler (x : Fibre) (m : QuadMask) (g : Nat → Quad → Quad) :
    (x.modQuads m g).handler = x.handler := by rw [Fibre.modQuads_eq]
@[simp] theorem Fibre.modQuads_helpers (x : Fibre) (m : QuadMask) (g : Nat → Quad → Quad) :
    (x.modQuads m g).helpers = x.helpers := by rw [Fibre.modQuads_eq]
@[simp] theorem Fibre.modQuads_run (x : Fibre) (m : QuadMask) (g : Nat → Quad → Quad) :
    (x.modQuads m g).run = x.run := by rw [Fibre.modQuads_eq]
@[simp] theorem Fibre.modQuads_monitor (x : Fibre) (m : QuadMask) (g : Nat → Quad → Quad) :
    (x.modQuads m g).monitor = x.monitor := by rw [Fibre.modQuads_eq]
@[simp] theorem Fibre.modQuads_scalar (x : Fibre) (m : QuadMask) (g : Nat → Quad → Quad) (n : Nat) :
    (x.modQuads m g).scalar n = x.scalar n := by simp [Fibre.scalar]
@[simp] theorem Fibre.modQuads_pred (x : Fibre) (m : QuadMask) (g : Nat → Quad → Quad) (n : Nat) :
    (x.modQuads m g).pred n = x.pred n := by simp [Fibre.pred]
@[simp] theorem Fibre.modQuads_flag (x : Fibre) (m : QuadMask) (g : Nat → Quad → Quad) (n : Nat) :
    (x.modQuads m g).flag n = x.flag n := by simp [Fibre.flag]
@[simp] theorem Fibre.quad_setScalar (x : Fibre) (n q : Nat) (v : PX) : (x.setScalar n v).quad q = x.quad q := rfl

/-! ### The relations in which the statements speak -/

/-- An update of the issuing fibre leaves the device outside it alone. -/
theorem sameOutside_setCur (s : State) (x : Fibre) : SameOutside s (s.setCur x) := by
  refine ⟨rfl, rfl, rfl, rfl, rfl, rfl, rfl, rfl, rfl, rfl, rfl, rfl, fun c hc => s.core_setCur_other x hc,
    fun f hf => ?_, fun n => by simp, fun b => by simp, by simp, by simp, by simp⟩
  simp [State.fibre_setCur, hf]
theorem sameOutside_modCur (s : State) (g : Fibre → Fibre) : SameOutside s (s.modCur g) := sameOutside_setCur ..
theorem sameOutside_refl (s : State) : SameOutside s s := by simp [SameOutside]
theorem sameOutside_trans {s t u : State} (hf : t.focus = s.focus) (h1 : SameOutside s t) (h2 : SameOutside t u) :
    SameOutside s u := by
  unfold SameOutside at *
  rw [hf] at h2
  obtain ⟨a1, a2, a3, a4, a5, a6, a7, a8, a9, a10, a11, a12, a13, a14, a15, a16, a17, a18, a19⟩ := h1
  obtain ⟨b1, b2, b3, b4, b5, b6, b7, b8, b9, b10, b11, b12, b13, b14, b15, b16, b17, b18, b19⟩ := h2
  exact ⟨b1.trans a1, b2.trans a2, b3.trans a3, b4.trans a4, b5.trans a5, b6.trans a6, b7.trans a7, b8.trans a8,
    b9.trans a9, b10.trans a10, b11.trans a11, b12.trans a12, fun c hc => (b13 c hc).trans (a13 c hc),
    fun f hx => (b14 f hx).trans (a14 f hx), fun n => (b15 n).trans (a15 n), fun b => (b16 b).trans (a16 b),
    b17.trans a17, b18.trans a18, b19.trans a19⟩

/-- Lane registers read the same where the register file, the handler and the block are the same. -/
theorem State.lane_setCur (s : State) (x : Fibre) (hv : x.regs.v = s.cur.regs.v) (hh : x.regs.h = s.cur.regs.h)
    (hb : x.block = s.cur.block) (hd : x.handler = s.cur.handler) (r i : Nat) : (s.setCur x).lane r i = s.lane r i := by
  simp [State.lane, State.curBlock, State.curSlotNo, hv, hh, hb, hd, State.setCur_focus]
  rfl

theorem sameRegs_refl (s : State) (ns : List Nat) : SameRegs s s ns := by simp [SameRegs]
theorem sameRegs_trans {s t u : State} {ns : List Nat} (h1 : SameRegs s t ns) (h2 : SameRegs t u ns) :
    SameRegs s u ns := by
  obtain ⟨a1, a2, a3, a4, a5, a6⟩ := h1
  obtain ⟨b1, b2, b3, b4, b5, b6⟩ := h2
  exact ⟨fun n hn => (b1 n hn).trans (a1 n hn), fun r l => (b2 r l).trans (a2 r l), fun n => (b3 n).trans (a3 n),
    b4.trans a4, b5.trans a5, b6.trans a6⟩
theorem sameRegs_weaken {s t : State} {ns ms : List Nat} (h : SameRegs s t ns) (hs : ∀ n, n ∈ ns → n ∈ ms) :
    SameRegs s t ms := ⟨fun n hn => h.1 n (fun hm => hn (hs n hm)), h.2⟩
/-- An update of the issuing fibre that leaves its registers alone. -/
theorem sameRegs_modQuads (s : State) (m : QuadMask) (g : Nat → Quad → Quad) (ns : List Nat) :
    SameRegs s (s.modCur (fun x => x.modQuads m g)) ns := by
  refine ⟨by simp, fun r l => s.lane_setCur _ (by simp) (by simp) (by simp) (by simp) r l, by simp, by simp, by simp,
    by simp⟩

/-! ### Retiring and waiting (R31, R106, R111) -/

/-- An instruction that retires moves its gang past itself, and does nothing else. -/
@[simp] theorem State.retire_focus (s : State) (i : Instr) : (s.retire i).focus = s.focus := rfl
@[simp] theorem State.retire_mem (s : State) (i : Instr) : (s.retire i).mem = s.mem := rfl
theorem State.retire_cur (s : State) (i : Instr) : (s.retire i).cur = s.cur.modQuads s.focus.quads
    (fun _ y => y.advance (nextPc y.pc i.parcels) (nonIdempotent i)) := s.cur_modCur _
theorem State.quad_retire (s : State) (i : Instr) (q : Nat) : (s.retire i).cur.quad q =
    if q < 16 ∧ s.focus.quads.getLsbD q = true then
      (s.cur.quad q).advance (nextPc (s.cur.quad q).pc i.parcels) (nonIdempotent i)
    else s.cur.quad q := by
  rw [State.retire_cur, Fibre.quad_modQuads]
theorem State.retire_sameOutside (s : State) (i : Instr) : SameOutside s (s.retire i) := sameOutside_modCur ..
theorem State.retire_sameRegs (s : State) (i : Instr) (ns : List Nat) : SameRegs s (s.retire i) ns :=
  sameRegs_modQuads ..
theorem State.retire_advanced (s : State) (i : Instr) : Advanced s (s.retire i) i.parcels := by
  refine ⟨fun q hq hb => ?_, fun q _ hb => ?_⟩ <;> rw [State.quad_retire]
  · simp only [hq, hb, and_self, if_true]; exact ⟨rfl, rfl, rfl⟩
  · rw [if_neg (by rw [hb]; simp)]
theorem State.lane_retire (s : State) (i : Instr) (r l : Nat) : (s.retire i).lane r l = s.lane r l :=
  (s.retire_sameRegs i []).2.1 r l

/-- A gang that waits stays where it stands: its quads record what they wait for. -/
@[simp] theorem State.wait_focus (s : State) (w : Wait) : (s.wait w).focus = s.focus := rfl
@[simp] theorem State.wait_mem (s : State) (w : Wait) : (s.wait w).mem = s.mem := rfl
theorem State.quad_wait (s : State) (w : Wait) (q : Nat) : (s.wait w).cur.quad q =
    if q < 16 ∧ s.focus.quads.getLsbD q = true then { s.cur.quad q with wait := w } else s.cur.quad q := by
  rw [State.wait, State.cur_modCur]
  exact s.cur.quad_modQuads s.focus.quads (fun _ y => { y with wait := w }) q
theorem State.wait_sameOutside (s : State) (w : Wait) : SameOutside s (s.wait w) := sameOutside_modCur ..
theorem State.wait_sameRegs (s : State) (w : Wait) (ns : List Nat) : SameRegs s (s.wait w) ns := by
  refine ⟨fun n _ => ?_, fun r l => s.lane_setCur _ (by simp) (by simp) (by simp) (by simp) r l, fun n => ?_, ?_, ?_, ?_⟩
  all_goals simp only [State.wait, State.cur_modCur]
  · exact s.cur.modQuads_scalar ..
  · exact s.cur.modQuads_pred ..
  · simp
  · simp
  · simp

/-! ### Scalar operands and results (R79, R158) -/

theorem State.useScalar_clean (s : State) (n : Nat) (h : (s.cur.scalar n).poison = false) :
    s.useScalar n = ((s.cur.scalar n).bits, s) := by
  simp [State.useScalar, h]
theorem State.useScalar_poisoned (s : State) (n : Nat) (h : (s.cur.scalar n).poison = true) :
    s.useScalar n = (0, s.modCur (fun x => x.kill x.live)) := by
  simp [State.useScalar, h]
theorem State.useScalars_clean (s : State) (ns : List Nat) (h : ∀ n, n ∈ ns → (s.cur.scalar n).poison = false) :
    s.useScalars ns = (ns.map (fun n => (s.cur.scalar n).bits), s) := by
  induction ns with
  | nil => rfl
  | cons n rest ih =>
    simp [State.useScalars, s.useScalar_clean n (h n List.mem_cons_self),
      ih (fun k hk => h k (List.mem_cons_of_mem _ hk))]
/-- Lanes that die set CPOIS and leave every other register alone. -/
theorem Fibre.kill_scalar (x : Fibre) (m : LaneMask) (n : Nat) : (x.kill m).scalar n = x.scalar n := by
  unfold Fibre.kill; split <;> rfl
theorem Fibre.kill_dead (x : Fibre) (m : LaneMask) : (x.kill m).sys.dead = x.sys.dead ||| m := by
  unfold Fibre.kill
  split
  · rename_i h; subst h; simp
  · rfl

/-- R79: what a scalar register reads after a result is written; `s0` stays 0. -/
theorem State.scalar_putScalar (s : State) (i : Instr) (sd : BitVec 6) (v : DWord) (n : Nat) :
    (s.putScalar i sd v).cur.scalar n = if n = sd.toNat ∧ sd.toNat ≠ 0 then PX.clean v else s.cur.scalar n := by
  rw [State.putScalar, State.retire_cur, Fibre.modQuads_scalar, State.cur_modCur, Fibre.scalar_setScalar]
theorem State.putScalar_sameOutside (s : State) (i : Instr) (sd : BitVec 6) (v : DWord) :
    SameOutside s (s.putScalar i sd v) :=
  sameOutside_trans (t := s.modCur (fun x => x.setScalar sd.toNat (PX.clean v))) rfl (sameOutside_modCur ..)
    (State.retire_sameOutside ..)
theorem State.setScalar_sameRegs (s : State) (n : Nat) (v : PX) :
    SameRegs s (s.modCur (fun x => x.setScalar n v)) [n] := by
  refine ⟨fun k hk => ?_, fun r l => s.lane_setCur (s.cur.setScalar n v) ?_ ?_ rfl rfl r l, by simp, by simp, by simp, by simp⟩
  · have : k ≠ n := by simpa using hk
    simp [Fibre.scalar_setScalar, this]
  all_goals simp only [Fibre.setScalar, RegFile.setScalar]; by_cases h : n = 0 <;> simp [h]
theorem State.putScalar_sameRegs (s : State) (i : Instr) (sd : BitVec 6) (v : DWord) :
    SameRegs s (s.putScalar i sd v) [sd.toNat] :=
  sameRegs_trans (s.setScalar_sameRegs ..) (State.retire_sameRegs ..)
theorem State.putScalar_advanced (s : State) (i : Instr) (sd : BitVec 6) (v : DWord) :
    Advanced s (s.putScalar i sd v) i.parcels := by
  have h := (s.modCur (fun x => x.setScalar sd.toNat (PX.clean v))).retire_advanced i
  simpa [Advanced, State.putScalar] using h

/-! ### Completion flags (R90) -/

/-- The flag counts one more operation in flight; without a flag nothing changes. -/
theorem State.flag_selectFlag (s : State) (fs : Bool) (n : Nat) : (s.selectFlag fs).cur.flag n =
    if s.flagFor fs = some n then s.cur.flag n + 1 else s.cur.flag n := by
  unfold State.selectFlag
  split
  · rename_i m h
    rw [State.cur_modCur, h]
    by_cases hn : n = m
    · subst hn; simp [Fibre.flag, Fibre.incFlag]
    · have : ¬(some m = some n) := by simp; omega
      simp [Fibre.flag, Fibre.incFlag, Tab.get_set, hn, this]
  · rename_i h; simp [h]
theorem State.selectFlag_sameOutside (s : State) (fs : Bool) : SameOutside s (s.selectFlag fs) := by
  unfold State.selectFlag
  split
  · exact sameOutside_modCur ..
  · exact sameOutside_refl s

/-! ### Lane registers (R35, R83) -/

theorem key_eq {r q i j : Nat} (hi : i < 64) (hj : j < 64) : 64 * r + i = 64 * q + j ↔ r = q ∧ i = j := by omega
/-- A register file keyed by register and lane, after one register is written in some lanes. -/
theorem get_setAll_lanes {α : Type} [DecidableEq α] (d : α) (t : Tab α) (r q i : Nat) (vs : List (Nat × α)) (hi : i < 64)
    (hv : ∀ e ∈ vs, e.1 < 64) :
    Tab.get d (Tab.setAll d t (vs.map (fun e => (64 * r + e.1, e.2)))) (64 * q + i) =
    if q = r then ((vs.reverse.find? (fun e => e.1 == i)).map (fun e => e.2)).getD (Tab.get d t (64 * q + i))
    else Tab.get d t (64 * q + i) := by
  by_cases hq : q = r
  · subst hq
    rw [Tab.get_setAll, if_pos rfl, ← List.map_reverse, List.find?_map]
    have h : ((fun e : Nat × α => e.1 == 64 * q + i) ∘ fun e : Nat × α => (64 * q + e.1, e.2)) =
        fun e => e.1 == i := by
      funext e
      rw [Bool.eq_iff_iff]
      simp only [Function.comp_apply, beq_iff_eq]
      omega
    rw [h]
    cases vs.reverse.find? (fun e => e.1 == i) <;> rfl
  · rw [if_neg hq, Tab.get_setAll_other]
    intro e he
    obtain ⟨a, ha, rfl⟩ := List.mem_map.mp he
    intro h2
    exact hq ((key_eq (hv a ha) hi).mp h2).1.symm

/-- The value that a list of lane writes leaves in a lane. -/
def lastLane (vs : List (Nat × PW)) (i : Nat) (old : PW) : PW :=
  ((vs.reverse.find? (fun e => e.1 == i)).map (fun e => e.2)).getD old

/-- A register of the file of the issuing fibre, or of its slot's window, after it is written. -/
theorem State.lane_storeLanes (s : State) (r q i : Nat) (vs : List (Nat × PW)) (hi : i < 64) (hv : ∀ e ∈ vs, e.1 < 64)
    (hq : ¬(224 ≤ q ∧ s.cur.handler.isSome = true)) :
    (s.storeLanes s.focus.core s.focus.fib r vs).lane q i = if q = r then lastLane vs i (s.lane q i) else s.lane q i := by
  by_cases hw : s.curBlock.inWindow r = true
  · have e : s.storeLanes s.focus.core s.focus.fib r vs = s.setSlot s.focus.core s.curSlotNo
        { s.slot s.focus.core s.curSlotNo with
          window := Tab.setAll PW.zero (s.slot s.focus.core s.curSlotNo).window
                      (vs.map (fun e => (64 * r + e.1, e.2))) } := by
      unfold State.storeLanes
      rw [if_pos (show (s.block s.focus.core (s.fibre s.focus.core s.focus.fib).block).inWindow r = true from hw)]
      rfl
    rw [e]
    have hc : ∀ y : Slot, (s.setSlot s.focus.core s.curSlotNo y).cur = s.cur := fun y => s.fibre_setSlot ..
    have hb : ∀ y : Slot, (s.setSlot s.focus.core s.curSlotNo y).curBlock = s.curBlock := by
      intro y
      unfold State.curBlock
      rw [hc, State.setSlot_focus]
      unfold State.setSlot State.block
      rw [State.core_modCore_same]; rfl
    have hn : ∀ y : Slot, (s.setSlot s.focus.core s.curSlotNo y).curSlotNo = s.curSlotNo := fun _ => rfl
    simp only [State.lane, hc, hb, hn, State.setSlot_focus, State.slot_setSlot, hq, if_false, and_self, if_true]
    rw [get_setAll_lanes PW.zero _ r q i vs hi hv]
    by_cases h : q = r
    · subst h; simp [hw, lastLane]
    · simp [h]
  · have e : s.storeLanes s.focus.core s.focus.fib r vs = s.setCur { s.cur with regs := { s.cur.regs with
        v := Tab.setAll PW.zero s.cur.regs.v (vs.map (fun e => (64 * r + e.1, e.2))) } } := by
      unfold State.storeLanes
      rw [if_neg (show ¬(s.block s.focus.core (s.fibre s.focus.core s.focus.fib).block).inWindow r = true from hw)]
      rfl
    rw [e]
    have hl : ∀ y : Fibre, y.block = s.cur.block → y.handler = s.cur.handler → (s.setCur y).lane q i =
        if s.curBlock.inWindow q = true then Tab.get PW.zero (s.slot s.focus.core s.curSlotNo).window (64 * q + i)
        else Tab.get PW.zero y.regs.v (64 * q + i) := by
      intro y hy hy2
      have hq2 : ¬(224 ≤ q ∧ y.handler.isSome = true) := by rw [hy2]; exact hq
      simp only [State.lane, State.curBlock, State.cur_setCur, hy, hq2, if_false, State.setCur_focus, State.block_setCur,
        State.slot_setCur]
      rfl
    have h0 : s.lane q i =
        if s.curBlock.inWindow q = true then Tab.get PW.zero (s.slot s.focus.core s.curSlotNo).window (64 * q + i)
        else Tab.get PW.zero s.cur.regs.v (64 * q + i) := by
      simp only [State.lane, hq, if_false]
    rw [hl, h0] <;> try rfl
    dsimp only
    rw [get_setAll_lanes PW.zero _ r q i vs hi hv]
    by_cases h : q = r
    · subst h
      simp only [hw, if_false, if_true, lastLane, Bool.false_eq_true]
    · simp only [h, if_false]

/-- A write of a lane register of the issuing fibre outside a handler, with no injection armed for it: the written
lanes hold the values written, every other lane and register what it held. -/
theorem State.lane_setLanes (s : State) (r q i : Nat) (vs : List (Nat × PW)) (hi : i < 64) (hv : ∀ e ∈ vs, e.1 < 64)
    (hh : s.cur.handler = none) (hj : s.curCore.regs.laneTarget s.focus.fib r = none) :
    (s.setLanes r vs).lane q i = if q = r then lastLane vs i (s.lane q i) else s.lane q i := by
  have hj2 : (s.core s.focus.core).regs.laneTarget s.focus.fib r = none := hj
  have e : s.setLanes r vs = s.storeLanes s.focus.core s.focus.fib r vs := by
    unfold State.setLanes State.setLanesOf
    have hr : ∀ t : State, (t.core s.focus.core).regs = (s.core s.focus.core).regs →
        t.afterLanes s.focus.core s.focus.fib r vs = t := by
      intro t ht
      unfold State.afterLanes
      rw [ht, hj2]
    simp only [hh, Option.isSome_none, Bool.false_eq_true, and_false, if_false, CoreRegs.altered, hj2]
    apply hr
    unfold State.storeLanes
    dsimp only
    split
    · simp [State.setSlot]
    · simp [State.setFibre]
  rw [e, State.lane_storeLanes s r q i vs hi hv (by simp [hh])]

/-! ### Events (R377) -/

theorem get_map {α : Type} (d : α) (g : α → α) (hd : g d = d) (t : Tab α) (n : Nat) :
    Tab.get d (t.map (fun e => (e.1, g e.2))) n = g (Tab.get d t n) := by
  induction t with
  | nil => simp [hd]
  | cons e rest ih =>
    obtain ⟨k, v⟩ := e
    simp only [List.map_cons, Tab.get_cons, ih]
    split <;> rfl

/-- A write of memory marks monitors, and leaves everything else of a fibre alone. -/
theorem State.fibre_noteWrite (s : State) (a n c f : Nat) : (s.noteWrite a n).fibre c f = (s.fibre c f).noteWrite a n := by
  let g : CoreState → CoreState := fun k => { k with
    fibres := k.fibres.map (fun e => (e.1, e.2.noteWrite a n)),
    eng := { k.eng with scrolls := k.eng.scrolls.map (fun r => (r.1, r.2.map (fun x => x.noteWrite a n))) } }
  have h : (s.noteWrite a n).core c = g (s.core c) := get_map CoreState.reset g rfl s.cores c
  unfold State.fibre CoreState.fibre
  rw [h]
  exact get_map Fibre.absent (fun x => x.noteWrite a n) rfl _ f
theorem Fibre.noteWrite_eq (x : Fibre) (a n : Nat) : x.noteWrite a n = { x with monitor := (x.noteWrite a n).monitor } := by
  unfold Fibre.noteWrite
  cases h : x.monitor with
  | none => simp
  | some mo =>
    dsimp only
    split
    · rfl
    · simp

/-- What the events of a core change in a fibre: its monitor, by the bytes that they write. -/
theorem State.fibre_writeMem (s : State) (a : Nat) (bs : List (BitVec 8)) (p : Bool) (r : ReleaseAction) (c f : Nat) :
    (s.writeMem a bs p r).fibre c f = (s.fibre c f).noteWrite a bs.length :=
  State.fibre_noteWrite { s with mem := s.mem.write a bs p r } a bs.length c f
theorem State.fibre_releaseEvents (c d f fuel : Nat) (s : State) :
    ∃ m, (s.releaseEvents c fuel).fibre d f = { s.fibre d f with monitor := m } := by
  induction fuel generalizing s with
  | zero => exact ⟨_, rfl⟩
  | succ n ih =>
    have hk : ∀ y : CoreState, y.fibres = (s.core c).fibres → (s.setCore c y).fibre d f = s.fibre d f := by
      intro y hy
      unfold State.fibre
      rw [State.core_setCore]
      split
      · subst_vars; simp [CoreState.fibre, hy]
      · rfl
    simp only [State.releaseEvents]
    split
    · refine ⟨(s.fibre d f).monitor, ?_⟩
      rw [hk]
      rfl
    · split
      · obtain ⟨m, hm⟩ := ih _
        refine ⟨m, hm.trans ?_⟩
        rw [State.fibre_writeMem, hk, Fibre.noteWrite_eq]
        rfl
      · refine ⟨(s.fibre d f).monitor, ?_⟩
        rw [hk]
        rfl
/-- Posting an event leaves every fibre alone but for its monitor. -/
theorem State.fibre_postEvent (s : State) (c f cause : Nat) (unh : Bool) (pc : VAddr) (lanes : LaneMask) (detail : DWord)
    (d g : Nat) : ∃ m, (s.postEvent c f cause unh pc lanes detail).fibre d g = { s.fibre d g with monitor := m } := by
  unfold State.postEvent
  obtain ⟨m, hm⟩ := State.fibre_releaseEvents c d g _ _
  refine ⟨m, hm.trans ?_⟩
  unfold State.fibre
  rw [State.core_modCore]
  split
  · subst_vars; rfl
  · rfl
/-- A frozen fibre keeps everything but its run state and its monitor (R34). -/
theorem State.fibre_freeze (s : State) (c f cause : Nat) (unh : Bool) (pc : VAddr) (lanes : LaneMask) (detail : DWord) :
    ∃ m, (s.freeze c f cause unh pc lanes detail).fibre c f =
      { s.fibre c f with run := .frozen (BitVec.ofNat 8 cause), monitor := m } := by
  unfold State.freeze
  obtain ⟨m, hm⟩ := State.fibre_postEvent (s.modFibre c f (fun x => { x with run := .frozen (BitVec.ofNat 8 cause) }))
    c f cause unh pc lanes detail c f
  refine ⟨m, hm.trans ?_⟩
  simp [State.modFibre]

/-! ### Taking a trap and returning from one (R345 to R354, R178) -/

/-- A trap outside a handler that the launch serves: the cause is recorded, the trapping quads stand at the handler,
and nothing else happens. -/
theorem State.takeTrap_served (s : State) (cause : BitVec 8) (lanes : LaneMask) (n : Nat) (addr : VAddr)
    (h : s.cur.handler = none) (ha : (s.curLaunch).bind (fun l => l.handlerFor cause.toNat) = some addr) :
    (s.takeTrap cause lanes n).cur = ((s.cur.recordTrap cause s.pc lanes).enterHandler cause s.focus.quads addr
      (nextPc s.pc n) (s.leadQuad.within (nextPc s.pc n))) ∧ SameOutside s (s.takeTrap cause lanes n) := by
  have h2 : (s.fibre s.focus.core s.focus.fib).handler = none := h
  have ha2 : (s.launchOf s.focus.core (s.fibre s.focus.core s.focus.fib).block).bind
      (fun l => l.handlerFor cause.toNat) = some addr := ha
  have e : s.takeTrap cause lanes n = (s.setCur (s.cur.recordTrap cause s.pc lanes)).modCur
      (fun y => y.enterHandler cause s.focus.quads addr (nextPc s.pc n) (s.leadQuad.within (nextPc s.pc n))) := by
    simp only [State.takeTrap, State.userTrap, h2, ha2]
    rfl
  rw [e]
  refine ⟨by rw [State.cur_modCur, State.cur_setCur], ?_⟩
  exact sameOutside_trans (t := s.setCur (s.cur.recordTrap cause s.pc lanes)) rfl (sameOutside_setCur ..)
    (sameOutside_modCur ..)
/-- The quads that enter a handler stand at its header, all their lanes but the dead ones active; every other quad
is as it was. -/
theorem Fibre.quad_enterHandler (x : Fibre) (cause : BitVec 8) (m : QuadMask) (addr resume : VAddr) (b : Bool) (q : Nat) :
    (x.enterHandler cause m addr resume b).quad q = if q < 16 ∧ m.getLsbD q = true then
      { Quad.off with pc := addr, active := (x.quad q).active &&& ~~~x.sys.dead, region := addr,
                      regionActive := (x.quad q).active, ended := false, mustRgn := true, wait := .entering }
    else x.quad q :=
  x.quad_modQuads m _ q
@[simp] theorem Fibre.scalar_enterHandler (x : Fibre) (cause : BitVec 8) (m : QuadMask) (addr resume : VAddr) (b : Bool)
    (n : Nat) : (x.enterHandler cause m addr resume b).scalar n = x.scalar n := x.modQuads_scalar ..
/-- R178: the quads of the handler have back what was saved, less the lanes that died, at the resume point. -/
theorem Fibre.quad_leaveHandler (x : Fibre) (h : Handler) (q : Nat) : (x.leaveHandler h).quad q =
    if q < 16 ∧ h.quads.getLsbD q = true then
      { Tab.get Quad.off h.saved q with
        active := (Tab.get Quad.off h.saved q).active &&& ~~~x.sys.dead, pc := h.resume, inClause := h.inClause,
        first := (Tab.get Quad.off h.saved q).first && (Tab.get Quad.off h.saved q).pc == h.resume, wait := .resuming }
    else x.quad q :=
  x.quad_modQuads h.quads _ q
@[simp] theorem Fibre.handler_leaveHandler (x : Fibre) (h : Handler) : (x.leaveHandler h).handler = none := rfl

/-! ### The frames of lane and memory instructions (R195, R198, R237) -/

/-- What can happen to a lane instruction: it traps, has no lane and retires, waits, or computes. -/
theorem State.laneFrame_cases (s : State) (i : Instr) (f : LaneFields) (sh : Shape) (sp : LaneSpec)
    (cont : State → LaneMask → List LaneOut → State) :
    let s1 := (s.scalarB f sh).2
    let part0 := s1.participating f.pg f.pn
    let x := s1.laneCtx f sh (s.scalarB f sh).1 part0
    let dying := sp.dying x
    let s2 := s1.modCur (fun y => y.kill dying)
    let outs := sp.compute { x with part := part0 &&& ~~~dying, avail := x.avail &&& ~~~dying }
    (s.holdsFields f sh = false ∧ s.laneFrame i f sh sp cont = s.trap 0x01 (s.participating f.pg f.pn) i) ∨
    (part0 = 0 ∧ s.laneFrame i f sh sp cont = s1.retire i) ∨
    (∃ w, s.laneFrame i f sh sp cont = s1.wait w) ∨
    (∃ c, s1.queueCheck f sh = .trap c ∧ s.laneFrame i f sh sp cont = s1.trap c part0 i) ∨
    (s1.popTrap f sh ≠ 0 ∧ s.laneFrame i f sh sp cont = s1.trap 0x0D (s1.popTrap f sh) i) ∨
    (allFlags outs &&& s2.enabledTraps ≠ 0 ∧ ∃ c, s.laneFrame i f sh sp cont =
      (s2.orChki (allFlags outs)).trap c (lanesWith outs s2.enabledTraps &&& s2.gangLanes) i) ∨
    (part0 ≠ 0 ∧ allFlags outs &&& s2.enabledTraps = 0 ∧
      s.laneFrame i f sh sp cont = cont s2 (part0 &&& ~~~dying) outs) := by
  intro s1 part0 x dying s2 outs
  by_cases h1 : s.holdsFields f sh = true
  · have e : s.laneFrame i f sh sp cont =
        if part0 = 0 then s1.retire i
        else if (sh.long && s1.flagFull f.fs) = true then s1.wait .stall
        else match s1.queueCheck f sh with
          | .block w => s1.wait w
          | .trap c => s1.trap c part0 i
          | .go => if s1.popTrap f sh ≠ 0 then s1.trap 0x0D (s1.popTrap f sh) i
            else if allFlags outs &&& s2.enabledTraps ≠ 0 then
              (s2.orChki (allFlags outs)).trap (if allFlags outs &&& s2.enabledTraps &&& 0xC = 0 then 0x0D else 0x0C)
                (lanesWith outs s2.enabledTraps &&& s2.gangLanes) i
            else cont s2 (part0 &&& ~~~dying) outs := by
      unfold State.laneFrame
      exact (if_neg (by simp [h1])).trans rfl
    by_cases h2 : part0 = 0
    · exact .inr (.inl ⟨h2, by rw [e, if_pos h2]⟩)
    · rw [if_neg h2] at e
      by_cases h3 : (sh.long && s1.flagFull f.fs) = true
      · exact .inr (.inr (.inl ⟨_, by rw [e, if_pos h3]⟩))
      · rw [if_neg h3] at e
        cases h4 : s1.queueCheck f sh with
        | block w => rw [h4] at e; exact .inr (.inr (.inl ⟨w, e⟩))
        | trap c => rw [h4] at e; exact .inr (.inr (.inr (.inl ⟨c, rfl, e⟩)))
        | go =>
          rw [h4] at e
          dsimp only at e
          by_cases h5 : s1.popTrap f sh ≠ 0
          · exact .inr (.inr (.inr (.inr (.inl ⟨h5, by rw [e, if_pos h5]⟩))))
          · rw [if_neg h5] at e
            by_cases h6 : allFlags outs &&& s2.enabledTraps ≠ 0
            · exact .inr (.inr (.inr (.inr (.inr (.inl ⟨h6, _, by rw [e, if_pos h6]⟩)))))
            · exact .inr (.inr (.inr (.inr (.inr (.inr ⟨h2, Decidable.not_not.mp h6, by rw [e, if_neg h6]⟩)))))
  · exact .inl ⟨by simpa using h1, by unfold State.laneFrame; rw [if_pos (by simpa using h1)]⟩

/-- A lane instruction that nothing stops computes: no poison in a scalar operand, a lane that participates, a flag
that can count, queues that let it go on, no exception whose trap is enabled. -/
theorem State.laneFrame_go (s : State) (i : Instr) (f : LaneFields) (sh : Shape) (sp : LaneSpec)
    (cont : State → LaneMask → List LaneOut → State) (bv : DWord) (hb : s.scalarB f sh = (bv, s))
    (h1 : s.holdsFields f sh = true) (h2 : s.participating f.pg f.pn ≠ 0)
    (h3 : (sh.long && s.flagFull f.fs) = false) (h4 : s.queueCheck f sh = .go) (h5 : s.popTrap f sh = 0) :
    let x := s.laneCtx f sh bv (s.participating f.pg f.pn)
    let part := s.participating f.pg f.pn &&& ~~~sp.dying x
    let outs := sp.compute { x with part := part, avail := x.avail &&& ~~~sp.dying x }
    let s2 := s.modCur (fun y => y.kill (sp.dying x))
    allFlags outs &&& s2.enabledTraps = 0 → s.laneFrame i f sh sp cont = cont s2 part outs := by
  intro x part outs s2 h6
  unfold State.laneFrame
  rw [if_neg (by simp [h1])]
  simp only [hb, h2, if_false, h3, Bool.false_eq_true, h4, h5, ne_eq, not_true_eq_false]
  exact if_neg (Decidable.not_not.mpr h6)

/-- A memory instruction that nothing stops makes its accesses. -/
theorem State.accessFrame_go (s : State) (i : Instr) (f : LaneFields) (sh : Shape) (consumed : LaneCtx → Nat → Bool)
    (cont : State → LaneCtx → State)
    (h1 : s.holdsFields f sh = true) (h2 : s.participating f.pg f.pn ≠ 0)
    (h3 : (sh.long && s.flagFull f.fs) = false) (h4 : s.queueCheck f sh = .go) (h5 : s.popTrap f sh = 0) :
    let part0 := s.participating f.pg f.pn
    let x := s.laneCtx f sh 0 part0
    let dying := maskOf (fun k => part0.getLsbD k && consumed x k)
    s.accessFrame i f sh consumed cont = cont (s.modCur (fun y => y.kill dying))
      { x with part := part0 &&& ~~~dying, avail := x.avail &&& ~~~dying } := by
  intro part0 x dying
  unfold State.accessFrame
  dsimp only
  rw [if_neg (by simp [h1]), if_neg h2, if_neg (by simp [h3])]
  simp only [h4, h5, ne_eq, not_true_eq_false, if_false]
  rfl

end Sys2Proof.Machine
end

