-- ==== Sys2Proof/Laws/PerInstr.lean ====
section
/-! SUPPORT. For every instruction: the opcode maps give the constructor back from the opcode and the
fields that its form names (R122 to R124). -/

/-- The decoder's maps answer a well-formed instruction from its own opcode and fields. -/
def Sys2Proof.Laws.Opcode.Statement (i : Sys2Proof.Instr) : Prop :=
  i.wf = true →
    match i.form with
    | .lane op f _ => op < 0x183 ∧ Sys2Proof.laneInstr op f = some i
    | .reg op f _ => op < 0x36 ∧ ∀ g, Sys2Proof.scalarOne op f g = some i
    | .imm op f _ => op < 0x36 ∧ ∀ g, Sys2Proof.scalarOne op g f = some i
    | .long op f _ => op < 0x36 ∧ Sys2Proof.scalarTwo op f = some i
    | .bare op => op < 0x36 ∧ ∀ g, Sys2Proof.scalarOne op g ⟨0, 0, 0⟩ = some i
    | .header h => i = .clauseWaitTest h
    | .step => False

namespace Sys2Proof

/-- M1 of a well-formed lane instruction is one of its sub-operations (R119, R123). -/
theorem sub_of {op : Nat} {f : LaneFields} {sh : Shape} {i : Instr} (hf : i.form = .lane op f sh)
    (h : i.wf = true) : sh.m1.contains f.m1.toNat = true := by
  have h1 : sh.ok f = true := by simpa [Instr.wf, hf, Form.ok] using h
  simp only [Shape.ok, Bool.and_eq_true] at h1
  exact h1.1.1.1.1.1.1.1.2
/-- The sub-operation of a `drain` (R123). -/
theorem drain_sub {dst : Nat} {f : LaneFields} {i : Instr} (hd : dst < 8)
    (hf : i.form = .lane 0x124 f (Shape.drain dst f)) (h : i.wf = true) : f.m1.toNat % 8 = dst := by
  have h2 : [dst, dst + 8].contains f.m1.toNat = true := sub_of hf h
  simp only [List.contains_cons, List.contains_nil, Bool.or_false, Bool.or_eq_true, beq_iff_eq] at h2
  omega
/-- A bit of M1 that all sub-operations of a list share. -/
theorem sub_bit {ms : List Nat} {f : LaneFields} {b : Bool} (hm : ms.contains f.m1.toNat = true)
    (hb : ∀ m ∈ ms, m.testBit 0 = b) : f.m1.getLsbD 0 = b :=
  hb _ (List.contains_iff_mem.mp hm)

end Sys2Proof

theorem Sys2Proof.Laws.Opcode.sadd (f : Sys2Proof.ScalarReg) : Sys2Proof.Laws.Opcode.Statement (.sadd f) :=
  fun _ => ⟨by decide, fun _ => rfl⟩
theorem Sys2Proof.Laws.Opcode.saddLong (f : Sys2Proof.ScalarLong) : Sys2Proof.Laws.Opcode.Statement (.saddLong f) :=
  fun _ => ⟨by decide, rfl⟩
theorem Sys2Proof.Laws.Opcode.ssub (f : Sys2Proof.ScalarReg) : Sys2Proof.Laws.Opcode.Statement (.ssub f) :=
  fun _ => ⟨by decide, fun _ => rfl⟩
theorem Sys2Proof.Laws.Opcode.ssubLong (f : Sys2Proof.ScalarLong) : Sys2Proof.Laws.Opcode.Statement (.ssubLong f) :=
  fun _ => ⟨by decide, rfl⟩
theorem Sys2Proof.Laws.Opcode.smul (f : Sys2Proof.ScalarReg) : Sys2Proof.Laws.Opcode.Statement (.smul f) :=
  fun _ => ⟨by decide, fun _ => rfl⟩
theorem Sys2Proof.Laws.Opcode.smulLong (f : Sys2Proof.ScalarLong) : Sys2Proof.Laws.Opcode.Statement (.smulLong f) :=
  fun _ => ⟨by decide, rfl⟩
theorem Sys2Proof.Laws.Opcode.smulh (f : Sys2Proof.ScalarReg) : Sys2Proof.Laws.Opcode.Statement (.smulh f) :=
  fun _ => ⟨by decide, fun _ => rfl⟩
theorem Sys2Proof.Laws.Opcode.smulhLong (f : Sys2Proof.ScalarLong) : Sys2Proof.Laws.Opcode.Statement (.smulhLong f) :=
  fun _ => ⟨by decide, rfl⟩
theorem Sys2Proof.Laws.Opcode.sdiv (f : Sys2Proof.ScalarReg) : Sys2Proof.Laws.Opcode.Statement (.sdiv f) :=
  fun _ => ⟨by decide, fun _ => rfl⟩
theorem Sys2Proof.Laws.Opcode.sdivLong (f : Sys2Proof.ScalarLong) : Sys2Proof.Laws.Opcode.Statement (.sdivLong f) :=
  fun _ => ⟨by decide, rfl⟩
theorem Sys2Proof.Laws.Opcode.srem (f : Sys2Proof.ScalarReg) : Sys2Proof.Laws.Opcode.Statement (.srem f) :=
  fun _ => ⟨by decide, fun _ => rfl⟩
theorem Sys2Proof.Laws.Opcode.sremLong (f : Sys2Proof.ScalarLong) : Sys2Proof.Laws.Opcode.Statement (.sremLong f) :=
  fun _ => ⟨by decide, rfl⟩
theorem Sys2Proof.Laws.Opcode.sand (f : Sys2Proof.ScalarReg) : Sys2Proof.Laws.Opcode.Statement (.sand f) :=
  fun _ => ⟨by decide, fun _ => rfl⟩
theorem Sys2Proof.Laws.Opcode.sandLong (f : Sys2Proof.ScalarLong) : Sys2Proof.Laws.Opcode.Statement (.sandLong f) :=
  fun _ => ⟨by decide, rfl⟩
theorem Sys2Proof.Laws.Opcode.sor (f : Sys2Proof.ScalarReg) : Sys2Proof.Laws.Opcode.Statement (.sor f) :=
  fun _ => ⟨by decide, fun _ => rfl⟩
theorem Sys2Proof.Laws.Opcode.sorLong (f : Sys2Proof.ScalarLong) : Sys2Proof.Laws.Opcode.Statement (.sorLong f) :=
  fun _ => ⟨by decide, rfl⟩
theorem Sys2Proof.Laws.Opcode.sxor (f : Sys2Proof.ScalarReg) : Sys2Proof.Laws.Opcode.Statement (.sxor f) :=
  fun _ => ⟨by decide, fun _ => rfl⟩
theorem Sys2Proof.Laws.Opcode.sxorLong (f : Sys2Proof.ScalarLong) : Sys2Proof.Laws.Opcode.Statement (.sxorLong f) :=
  fun _ => ⟨by decide, rfl⟩
theorem Sys2Proof.Laws.Opcode.snor (f : Sys2Proof.ScalarReg) : Sys2Proof.Laws.Opcode.Statement (.snor f) :=
  fun _ => ⟨by decide, fun _ => rfl⟩
theorem Sys2Proof.Laws.Opcode.snorLong (f : Sys2Proof.ScalarLong) : Sys2Proof.Laws.Opcode.Statement (.snorLong f) :=
  fun _ => ⟨by decide, rfl⟩
theorem Sys2Proof.Laws.Opcode.sshl (f : Sys2Proof.ScalarReg) : Sys2Proof.Laws.Opcode.Statement (.sshl f) :=
  fun _ => ⟨by decide, fun _ => rfl⟩
theorem Sys2Proof.Laws.Opcode.sshlLong (f : Sys2Proof.ScalarLong) : Sys2Proof.Laws.Opcode.Statement (.sshlLong f) :=
  fun _ => ⟨by decide, rfl⟩
theorem Sys2Proof.Laws.Opcode.sshr (f : Sys2Proof.ScalarReg) : Sys2Proof.Laws.Opcode.Statement (.sshr f) :=
  fun _ => ⟨by decide, fun _ => rfl⟩
theorem Sys2Proof.Laws.Opcode.sshrLong (f : Sys2Proof.ScalarLong) : Sys2Proof.Laws.Opcode.Statement (.sshrLong f) :=
  fun _ => ⟨by decide, rfl⟩
theorem Sys2Proof.Laws.Opcode.ssra (f : Sys2Proof.ScalarReg) : Sys2Proof.Laws.Opcode.Statement (.ssra f) :=
  fun _ => ⟨by decide, fun _ => rfl⟩
theorem Sys2Proof.Laws.Opcode.ssraLong (f : Sys2Proof.ScalarLong) : Sys2Proof.Laws.Opcode.Statement (.ssraLong f) :=
  fun _ => ⟨by decide, rfl⟩
theorem Sys2Proof.Laws.Opcode.smin (f : Sys2Proof.ScalarReg) : Sys2Proof.Laws.Opcode.Statement (.smin f) :=
  fun _ => ⟨by decide, fun _ => rfl⟩
theorem Sys2Proof.Laws.Opcode.sminLong (f : Sys2Proof.ScalarLong) : Sys2Proof.Laws.Opcode.Statement (.sminLong f) :=
  fun _ => ⟨by decide, rfl⟩
theorem Sys2Proof.Laws.Opcode.smax (f : Sys2Proof.ScalarReg) : Sys2Proof.Laws.Opcode.Statement (.smax f) :=
  fun _ => ⟨by decide, fun _ => rfl⟩
theorem Sys2Proof.Laws.Opcode.smaxLong (f : Sys2Proof.ScalarLong) : Sys2Proof.Laws.Opcode.Statement (.smaxLong f) :=
  fun _ => ⟨by decide, rfl⟩
theorem Sys2Proof.Laws.Opcode.scmp (f : Sys2Proof.ScalarReg) : Sys2Proof.Laws.Opcode.Statement (.scmp f) :=
  fun _ => ⟨by decide, fun _ => rfl⟩
theorem Sys2Proof.Laws.Opcode.scmpLong (f : Sys2Proof.ScalarLong) : Sys2Proof.Laws.Opcode.Statement (.scmpLong f) :=
  fun _ => ⟨by decide, rfl⟩
theorem Sys2Proof.Laws.Opcode.ssel (f : Sys2Proof.ScalarReg) : Sys2Proof.Laws.Opcode.Statement (.ssel f) :=
  fun _ => ⟨by decide, fun _ => rfl⟩
theorem Sys2Proof.Laws.Opcode.sselLong (f : Sys2Proof.ScalarLong) : Sys2Proof.Laws.Opcode.Statement (.sselLong f) :=
  fun _ => ⟨by decide, rfl⟩
theorem Sys2Proof.Laws.Opcode.smov (f : Sys2Proof.ScalarReg) : Sys2Proof.Laws.Opcode.Statement (.smov f) :=
  fun _ => ⟨by decide, fun _ => rfl⟩
theorem Sys2Proof.Laws.Opcode.sli (f : Sys2Proof.ScalarImm) : Sys2Proof.Laws.Opcode.Statement (.sli f) :=
  fun _ => ⟨by decide, fun _ => rfl⟩
theorem Sys2Proof.Laws.Opcode.sliLong (f : Sys2Proof.ScalarLong) : Sys2Proof.Laws.Opcode.Statement (.sliLong f) :=
  fun _ => ⟨by decide, rfl⟩
theorem Sys2Proof.Laws.Opcode.slih (f : Sys2Proof.ScalarLong) : Sys2Proof.Laws.Opcode.Statement (.slih f) :=
  fun _ => ⟨by decide, rfl⟩
theorem Sys2Proof.Laws.Opcode.sclz (f : Sys2Proof.ScalarReg) : Sys2Proof.Laws.Opcode.Statement (.sclz f) :=
  fun _ => ⟨by decide, fun _ => rfl⟩
theorem Sys2Proof.Laws.Opcode.spopc (f : Sys2Proof.ScalarReg) : Sys2Proof.Laws.Opcode.Statement (.spopc f) :=
  fun _ => ⟨by decide, fun _ => rfl⟩
theorem Sys2Proof.Laws.Opcode.sbfe (f : Sys2Proof.ScalarReg) : Sys2Proof.Laws.Opcode.Statement (.sbfe f) :=
  fun _ => ⟨by decide, fun _ => rfl⟩
theorem Sys2Proof.Laws.Opcode.sbfeLong (f : Sys2Proof.ScalarLong) : Sys2Proof.Laws.Opcode.Statement (.sbfeLong f) :=
  fun _ => ⟨by decide, rfl⟩
theorem Sys2Proof.Laws.Opcode.sbfi (f : Sys2Proof.ScalarReg) : Sys2Proof.Laws.Opcode.Statement (.sbfi f) :=
  fun _ => ⟨by decide, fun _ => rfl⟩
theorem Sys2Proof.Laws.Opcode.sbfiLong (f : Sys2Proof.ScalarLong) : Sys2Proof.Laws.Opcode.Statement (.sbfiLong f) :=
  fun _ => ⟨by decide, rfl⟩
theorem Sys2Proof.Laws.Opcode.sld (f : Sys2Proof.ScalarImm) : Sys2Proof.Laws.Opcode.Statement (.sld f) :=
  fun _ => ⟨by decide, fun _ => rfl⟩
theorem Sys2Proof.Laws.Opcode.sldLong (f : Sys2Proof.ScalarLong) : Sys2Proof.Laws.Opcode.Statement (.sldLong f) :=
  fun _ => ⟨by decide, rfl⟩
theorem Sys2Proof.Laws.Opcode.sst (f : Sys2Proof.ScalarImm) : Sys2Proof.Laws.Opcode.Statement (.sst f) :=
  fun _ => ⟨by decide, fun _ => rfl⟩
theorem Sys2Proof.Laws.Opcode.sstLong (f : Sys2Proof.ScalarLong) : Sys2Proof.Laws.Opcode.Statement (.sstLong f) :=
  fun _ => ⟨by decide, rfl⟩
theorem Sys2Proof.Laws.Opcode.sldk (f : Sys2Proof.ScalarImm) : Sys2Proof.Laws.Opcode.Statement (.sldk f) :=
  fun _ => ⟨by decide, fun _ => rfl⟩
theorem Sys2Proof.Laws.Opcode.sldkLong (f : Sys2Proof.ScalarLong) : Sys2Proof.Laws.Opcode.Statement (.sldkLong f) :=
  fun _ => ⟨by decide, rfl⟩
theorem Sys2Proof.Laws.Opcode.br (f : Sys2Proof.ScalarImm) : Sys2Proof.Laws.Opcode.Statement (.br f) :=
  fun _ => ⟨by decide, fun _ => rfl⟩
theorem Sys2Proof.Laws.Opcode.brLong (f : Sys2Proof.ScalarLong) : Sys2Proof.Laws.Opcode.Statement (.brLong f) :=
  fun _ => ⟨by decide, rfl⟩
theorem Sys2Proof.Laws.Opcode.brs (f : Sys2Proof.ScalarImm) : Sys2Proof.Laws.Opcode.Statement (.brs f) :=
  fun _ => ⟨by decide, fun _ => rfl⟩
theorem Sys2Proof.Laws.Opcode.brsLong (f : Sys2Proof.ScalarLong) : Sys2Proof.Laws.Opcode.Statement (.brsLong f) :=
  fun _ => ⟨by decide, rfl⟩
theorem Sys2Proof.Laws.Opcode.brv (f : Sys2Proof.ScalarLong) : Sys2Proof.Laws.Opcode.Statement (.brv f) :=
  fun _ => ⟨by decide, rfl⟩
theorem Sys2Proof.Laws.Opcode.regang : Sys2Proof.Laws.Opcode.Statement .regang :=
  fun _ => ⟨by decide, fun _ => rfl⟩
theorem Sys2Proof.Laws.Opcode.call (f : Sys2Proof.ScalarImm) : Sys2Proof.Laws.Opcode.Statement (.call f) :=
  fun _ => ⟨by decide, fun _ => rfl⟩
theorem Sys2Proof.Laws.Opcode.callLong (f : Sys2Proof.ScalarLong) : Sys2Proof.Laws.Opcode.Statement (.callLong f) :=
  fun _ => ⟨by decide, rfl⟩
theorem Sys2Proof.Laws.Opcode.ret (f : Sys2Proof.ScalarReg) : Sys2Proof.Laws.Opcode.Statement (.ret f) :=
  fun _ => ⟨by decide, fun _ => rfl⟩
theorem Sys2Proof.Laws.Opcode.jmpr (f : Sys2Proof.ScalarReg) : Sys2Proof.Laws.Opcode.Statement (.jmpr f) :=
  fun _ => ⟨by decide, fun _ => rfl⟩
theorem Sys2Proof.Laws.Opcode.loop (f : Sys2Proof.ScalarImm) : Sys2Proof.Laws.Opcode.Statement (.loop f) :=
  fun _ => ⟨by decide, fun _ => rfl⟩
theorem Sys2Proof.Laws.Opcode.loopLong (f : Sys2Proof.ScalarLong) : Sys2Proof.Laws.Opcode.Statement (.loopLong f) :=
  fun _ => ⟨by decide, rfl⟩
theorem Sys2Proof.Laws.Opcode.exit : Sys2Proof.Laws.Opcode.Statement .exit :=
  fun _ => ⟨by decide, fun _ => rfl⟩
theorem Sys2Proof.Laws.Opcode.nop : Sys2Proof.Laws.Opcode.Statement .nop :=
  fun _ => ⟨by decide, fun _ => rfl⟩
theorem Sys2Proof.Laws.Opcode.trap (f : Sys2Proof.ScalarImm) : Sys2Proof.Laws.Opcode.Statement (.trap f) :=
  fun _ => ⟨by decide, fun _ => rfl⟩
theorem Sys2Proof.Laws.Opcode.tret : Sys2Proof.Laws.Opcode.Statement .tret :=
  fun _ => ⟨by decide, fun _ => rfl⟩
theorem Sys2Proof.Laws.Opcode.brk (f : Sys2Proof.ScalarImm) : Sys2Proof.Laws.Opcode.Statement (.brk f) :=
  fun _ => ⟨by decide, fun _ => rfl⟩
theorem Sys2Proof.Laws.Opcode.sysLaunch (f : Sys2Proof.ScalarImm) : Sys2Proof.Laws.Opcode.Statement (.sysLaunch f) :=
  by
  intro h
  simp [Sys2Proof.Instr.wf, Sys2Proof.Instr.form, Sys2Proof.Form.ok] at h
  simp [Sys2Proof.Instr.form, Sys2Proof.scalarOne, Sys2Proof.sysOne, h]
theorem Sys2Proof.Laws.Opcode.sysLaunchLong (f : Sys2Proof.ScalarLong) : Sys2Proof.Laws.Opcode.Statement (.sysLaunchLong f) :=
  by
  intro h
  simp [Sys2Proof.Instr.wf, Sys2Proof.Instr.form, Sys2Proof.Form.ok] at h
  simp [Sys2Proof.Instr.form, Sys2Proof.scalarTwo, Sys2Proof.sysTwo, h]
theorem Sys2Proof.Laws.Opcode.sysLstat (f : Sys2Proof.ScalarImm) : Sys2Proof.Laws.Opcode.Statement (.sysLstat f) :=
  by
  intro h
  simp [Sys2Proof.Instr.wf, Sys2Proof.Instr.form, Sys2Proof.Form.ok] at h
  simp [Sys2Proof.Instr.form, Sys2Proof.scalarOne, Sys2Proof.sysOne, h]
theorem Sys2Proof.Laws.Opcode.sysLstatLong (f : Sys2Proof.ScalarLong) : Sys2Proof.Laws.Opcode.Statement (.sysLstatLong f) :=
  by
  intro h
  simp [Sys2Proof.Instr.wf, Sys2Proof.Instr.form, Sys2Proof.Form.ok] at h
  simp [Sys2Proof.Instr.form, Sys2Proof.scalarTwo, Sys2Proof.sysTwo, h]
theorem Sys2Proof.Laws.Opcode.sysAbort (f : Sys2Proof.ScalarImm) : Sys2Proof.Laws.Opcode.Statement (.sysAbort f) :=
  by
  intro h
  simp [Sys2Proof.Instr.wf, Sys2Proof.Instr.form, Sys2Proof.Form.ok] at h
  simp [Sys2Proof.Instr.form, Sys2Proof.scalarOne, Sys2Proof.sysOne, h]
theorem Sys2Proof.Laws.Opcode.sysAbortLong (f : Sys2Proof.ScalarLong) : Sys2Proof.Laws.Opcode.Statement (.sysAbortLong f) :=
  by
  intro h
  simp [Sys2Proof.Instr.wf, Sys2Proof.Instr.form, Sys2Proof.Form.ok] at h
  simp [Sys2Proof.Instr.form, Sys2Proof.scalarTwo, Sys2Proof.sysTwo, h]
theorem Sys2Proof.Laws.Opcode.fsw : Sys2Proof.Laws.Opcode.Statement .fsw :=
  fun _ => ⟨by decide, fun _ => rfl⟩
theorem Sys2Proof.Laws.Opcode.fbar : Sys2Proof.Laws.Opcode.Statement .fbar :=
  fun _ => ⟨by decide, fun _ => rfl⟩
theorem Sys2Proof.Laws.Opcode.fwait (f : Sys2Proof.ScalarImm) : Sys2Proof.Laws.Opcode.Statement (.fwait f) :=
  fun _ => ⟨by decide, fun _ => rfl⟩
theorem Sys2Proof.Laws.Opcode.xacq (f : Sys2Proof.ScalarImm) : Sys2Proof.Laws.Opcode.Statement (.xacq f) :=
  fun _ => ⟨by decide, fun _ => rfl⟩
theorem Sys2Proof.Laws.Opcode.xrel (f : Sys2Proof.ScalarImm) : Sys2Proof.Laws.Opcode.Statement (.xrel f) :=
  fun _ => ⟨by decide, fun _ => rfl⟩
theorem Sys2Proof.Laws.Opcode.chkerr (f : Sys2Proof.ScalarImm) : Sys2Proof.Laws.Opcode.Statement (.chkerr f) :=
  fun _ => ⟨by decide, fun _ => rfl⟩
theorem Sys2Proof.Laws.Opcode.time (f : Sys2Proof.ScalarImm) : Sys2Proof.Laws.Opcode.Statement (.time f) :=
  fun _ => ⟨by decide, fun _ => rfl⟩
theorem Sys2Proof.Laws.Opcode.mfs (f : Sys2Proof.ScalarImm) : Sys2Proof.Laws.Opcode.Statement (.mfs f) :=
  fun _ => ⟨by decide, fun _ => rfl⟩
theorem Sys2Proof.Laws.Opcode.mts (f : Sys2Proof.ScalarImm) : Sys2Proof.Laws.Opcode.Statement (.mts f) :=
  fun _ => ⟨by decide, fun _ => rfl⟩
theorem Sys2Proof.Laws.Opcode.accsv (f : Sys2Proof.ScalarImm) : Sys2Proof.Laws.Opcode.Statement (.accsv f) :=
  fun _ => ⟨by decide, fun _ => rfl⟩
theorem Sys2Proof.Laws.Opcode.accsvLong (f : Sys2Proof.ScalarLong) : Sys2Proof.Laws.Opcode.Statement (.accsvLong f) :=
  fun _ => ⟨by decide, rfl⟩
theorem Sys2Proof.Laws.Opcode.accrs (f : Sys2Proof.ScalarImm) : Sys2Proof.Laws.Opcode.Statement (.accrs f) :=
  fun _ => ⟨by decide, fun _ => rfl⟩
theorem Sys2Proof.Laws.Opcode.accrsLong (f : Sys2Proof.ScalarLong) : Sys2Proof.Laws.Opcode.Statement (.accrsLong f) :=
  fun _ => ⟨by decide, rfl⟩
theorem Sys2Proof.Laws.Opcode.osv (f : Sys2Proof.ScalarImm) : Sys2Proof.Laws.Opcode.Statement (.osv f) :=
  fun _ => ⟨by decide, fun _ => rfl⟩
theorem Sys2Proof.Laws.Opcode.osvLong (f : Sys2Proof.ScalarLong) : Sys2Proof.Laws.Opcode.Statement (.osvLong f) :=
  fun _ => ⟨by decide, rfl⟩
theorem Sys2Proof.Laws.Opcode.orst (f : Sys2Proof.ScalarImm) : Sys2Proof.Laws.Opcode.Statement (.orst f) :=
  fun _ => ⟨by decide, fun _ => rfl⟩
theorem Sys2Proof.Laws.Opcode.orstLong (f : Sys2Proof.ScalarLong) : Sys2Proof.Laws.Opcode.Statement (.orstLong f) :=
  fun _ => ⟨by decide, rfl⟩
theorem Sys2Proof.Laws.Opcode.clauseWaitTest (h : Sys2Proof.ClauseHeader) : Sys2Proof.Laws.Opcode.Statement (.clauseWaitTest h) :=
  fun _ => rfl
theorem Sys2Proof.Laws.Opcode.add (f : Sys2Proof.LaneFields) : Sys2Proof.Laws.Opcode.Statement (.add f) :=
  fun _ => ⟨by decide, rfl⟩
theorem Sys2Proof.Laws.Opcode.sub (f : Sys2Proof.LaneFields) : Sys2Proof.Laws.Opcode.Statement (.sub f) :=
  fun _ => ⟨by decide, rfl⟩
theorem Sys2Proof.Laws.Opcode.mul (f : Sys2Proof.LaneFields) : Sys2Proof.Laws.Opcode.Statement (.mul f) :=
  fun _ => ⟨by decide, rfl⟩
theorem Sys2Proof.Laws.Opcode.mulh (f : Sys2Proof.LaneFields) : Sys2Proof.Laws.Opcode.Statement (.mulh f) :=
  fun _ => ⟨by decide, rfl⟩
theorem Sys2Proof.Laws.Opcode.mulw (f : Sys2Proof.LaneFields) : Sys2Proof.Laws.Opcode.Statement (.mulw f) :=
  fun _ => ⟨by decide, rfl⟩
theorem Sys2Proof.Laws.Opcode.mad (f : Sys2Proof.LaneFields) : Sys2Proof.Laws.Opcode.Statement (.mad f) :=
  fun _ => ⟨by decide, rfl⟩
theorem Sys2Proof.Laws.Opcode.addx (f : Sys2Proof.LaneFields) : Sys2Proof.Laws.Opcode.Statement (.addx f) :=
  fun _ => ⟨by decide, rfl⟩
theorem Sys2Proof.Laws.Opcode.subx (f : Sys2Proof.LaneFields) : Sys2Proof.Laws.Opcode.Statement (.subx f) :=
  fun _ => ⟨by decide, rfl⟩
theorem Sys2Proof.Laws.Opcode.div (f : Sys2Proof.LaneFields) : Sys2Proof.Laws.Opcode.Statement (.div f) :=
  fun _ => ⟨by decide, rfl⟩
theorem Sys2Proof.Laws.Opcode.rem (f : Sys2Proof.LaneFields) : Sys2Proof.Laws.Opcode.Statement (.rem f) :=
  fun _ => ⟨by decide, rfl⟩
theorem Sys2Proof.Laws.Opcode.abs (f : Sys2Proof.LaneFields) : Sys2Proof.Laws.Opcode.Statement (.abs f) :=
  fun _ => ⟨by decide, rfl⟩
theorem Sys2Proof.Laws.Opcode.neg (f : Sys2Proof.LaneFields) : Sys2Proof.Laws.Opcode.Statement (.neg f) :=
  fun _ => ⟨by decide, rfl⟩
theorem Sys2Proof.Laws.Opcode.min (f : Sys2Proof.LaneFields) : Sys2Proof.Laws.Opcode.Statement (.min f) :=
  fun _ => ⟨by decide, rfl⟩
theorem Sys2Proof.Laws.Opcode.max (f : Sys2Proof.LaneFields) : Sys2Proof.Laws.Opcode.Statement (.max f) :=
  fun _ => ⟨by decide, rfl⟩
theorem Sys2Proof.Laws.Opcode.sad (f : Sys2Proof.LaneFields) : Sys2Proof.Laws.Opcode.Statement (.sad f) :=
  fun _ => ⟨by decide, rfl⟩
theorem Sys2Proof.Laws.Opcode.and (f : Sys2Proof.LaneFields) : Sys2Proof.Laws.Opcode.Statement (.and f) :=
  fun _ => ⟨by decide, rfl⟩
theorem Sys2Proof.Laws.Opcode.or (f : Sys2Proof.LaneFields) : Sys2Proof.Laws.Opcode.Statement (.or f) :=
  fun _ => ⟨by decide, rfl⟩
theorem Sys2Proof.Laws.Opcode.xor (f : Sys2Proof.LaneFields) : Sys2Proof.Laws.Opcode.Statement (.xor f) :=
  fun _ => ⟨by decide, rfl⟩
theorem Sys2Proof.Laws.Opcode.not (f : Sys2Proof.LaneFields) : Sys2Proof.Laws.Opcode.Statement (.not f) :=
  fun _ => ⟨by decide, rfl⟩
theorem Sys2Proof.Laws.Opcode.shl (f : Sys2Proof.LaneFields) : Sys2Proof.Laws.Opcode.Statement (.shl f) :=
  fun _ => ⟨by decide, rfl⟩
theorem Sys2Proof.Laws.Opcode.shr (f : Sys2Proof.LaneFields) : Sys2Proof.Laws.Opcode.Statement (.shr f) :=
  fun _ => ⟨by decide, rfl⟩
theorem Sys2Proof.Laws.Opcode.sra (f : Sys2Proof.LaneFields) : Sys2Proof.Laws.Opcode.Statement (.sra f) :=
  fun _ => ⟨by decide, rfl⟩
theorem Sys2Proof.Laws.Opcode.rot (f : Sys2Proof.LaneFields) : Sys2Proof.Laws.Opcode.Statement (.rot f) :=
  fun _ => ⟨by decide, rfl⟩
theorem Sys2Proof.Laws.Opcode.clz (f : Sys2Proof.LaneFields) : Sys2Proof.Laws.Opcode.Statement (.clz f) :=
  fun _ => ⟨by decide, rfl⟩
theorem Sys2Proof.Laws.Opcode.popc (f : Sys2Proof.LaneFields) : Sys2Proof.Laws.Opcode.Statement (.popc f) :=
  fun _ => ⟨by decide, rfl⟩
theorem Sys2Proof.Laws.Opcode.brev (f : Sys2Proof.LaneFields) : Sys2Proof.Laws.Opcode.Statement (.brev f) :=
  fun _ => ⟨by decide, rfl⟩
theorem Sys2Proof.Laws.Opcode.bfe (f : Sys2Proof.LaneFields) : Sys2Proof.Laws.Opcode.Statement (.bfe f) :=
  fun _ => ⟨by decide, rfl⟩
theorem Sys2Proof.Laws.Opcode.bfi (f : Sys2Proof.LaneFields) : Sys2Proof.Laws.Opcode.Statement (.bfi f) :=
  fun _ => ⟨by decide, rfl⟩
theorem Sys2Proof.Laws.Opcode.sel (f : Sys2Proof.LaneFields) : Sys2Proof.Laws.Opcode.Statement (.sel f) :=
  fun _ => ⟨by decide, rfl⟩
theorem Sys2Proof.Laws.Opcode.cmp (f : Sys2Proof.LaneFields) : Sys2Proof.Laws.Opcode.Statement (.cmp f) :=
  fun _ => ⟨by decide, rfl⟩
theorem Sys2Proof.Laws.Opcode.fma (f : Sys2Proof.LaneFields) : Sys2Proof.Laws.Opcode.Statement (.fma f) :=
  fun _ => ⟨by decide, rfl⟩
theorem Sys2Proof.Laws.Opcode.sqrt (f : Sys2Proof.LaneFields) : Sys2Proof.Laws.Opcode.Statement (.sqrt f) :=
  fun _ => ⟨by decide, rfl⟩
theorem Sys2Proof.Laws.Opcode.rcp (f : Sys2Proof.LaneFields) : Sys2Proof.Laws.Opcode.Statement (.rcp f) :=
  fun _ => ⟨by decide, rfl⟩
theorem Sys2Proof.Laws.Opcode.rsq (f : Sys2Proof.LaneFields) : Sys2Proof.Laws.Opcode.Statement (.rsq f) :=
  fun _ => ⟨by decide, rfl⟩
theorem Sys2Proof.Laws.Opcode.exp2 (f : Sys2Proof.LaneFields) : Sys2Proof.Laws.Opcode.Statement (.exp2 f) :=
  fun _ => ⟨by decide, rfl⟩
theorem Sys2Proof.Laws.Opcode.log2 (f : Sys2Proof.LaneFields) : Sys2Proof.Laws.Opcode.Statement (.log2 f) :=
  fun _ => ⟨by decide, rfl⟩
theorem Sys2Proof.Laws.Opcode.sin (f : Sys2Proof.LaneFields) : Sys2Proof.Laws.Opcode.Statement (.sin f) :=
  fun _ => ⟨by decide, rfl⟩
theorem Sys2Proof.Laws.Opcode.cos (f : Sys2Proof.LaneFields) : Sys2Proof.Laws.Opcode.Statement (.cos f) :=
  fun _ => ⟨by decide, rfl⟩
theorem Sys2Proof.Laws.Opcode.tanh (f : Sys2Proof.LaneFields) : Sys2Proof.Laws.Opcode.Statement (.tanh f) :=
  fun _ => ⟨by decide, rfl⟩
theorem Sys2Proof.Laws.Opcode.sfuCompute (core fib : Nat) : Sys2Proof.Laws.Opcode.Statement (.sfuCompute core fib) :=
  fun h => absurd h Bool.false_ne_true
theorem Sys2Proof.Laws.Opcode.classTest (f : Sys2Proof.LaneFields) : Sys2Proof.Laws.Opcode.Statement (.classTest f) :=
  fun _ => ⟨by decide, rfl⟩
theorem Sys2Proof.Laws.Opcode.frnd (f : Sys2Proof.LaneFields) : Sys2Proof.Laws.Opcode.Statement (.frnd f) :=
  fun _ => ⟨by decide, rfl⟩
theorem Sys2Proof.Laws.Opcode.fscl (f : Sys2Proof.LaneFields) : Sys2Proof.Laws.Opcode.Statement (.fscl f) :=
  fun _ => ⟨by decide, rfl⟩
theorem Sys2Proof.Laws.Opcode.cvt (f : Sys2Proof.LaneFields) : Sys2Proof.Laws.Opcode.Statement (.cvt f) :=
  fun _ => ⟨by decide, rfl⟩
theorem Sys2Proof.Laws.Opcode.pack (f : Sys2Proof.LaneFields) : Sys2Proof.Laws.Opcode.Statement (.pack f) :=
  fun _ => ⟨by decide, rfl⟩
theorem Sys2Proof.Laws.Opcode.unpk (f : Sys2Proof.LaneFields) : Sys2Proof.Laws.Opcode.Statement (.unpk f) :=
  fun _ => ⟨by decide, rfl⟩
theorem Sys2Proof.Laws.Opcode.qnt (f : Sys2Proof.LaneFields) : Sys2Proof.Laws.Opcode.Statement (.qnt f) :=
  fun _ => ⟨by decide, rfl⟩
theorem Sys2Proof.Laws.Opcode.dqnt (f : Sys2Proof.LaneFields) : Sys2Proof.Laws.Opcode.Statement (.dqnt f) :=
  fun _ => ⟨by decide, rfl⟩
theorem Sys2Proof.Laws.Opcode.cbq (f : Sys2Proof.LaneFields) : Sys2Proof.Laws.Opcode.Statement (.cbq f) :=
  fun _ => ⟨by decide, rfl⟩
theorem Sys2Proof.Laws.Opcode.had32 (f : Sys2Proof.LaneFields) : Sys2Proof.Laws.Opcode.Statement (.had32 f) :=
  fun _ => ⟨by decide, rfl⟩
theorem Sys2Proof.Laws.Opcode.shfl (f : Sys2Proof.LaneFields) : Sys2Proof.Laws.Opcode.Statement (.shfl f) :=
  fun _ => ⟨by decide, rfl⟩
theorem Sys2Proof.Laws.Opcode.shfx (f : Sys2Proof.LaneFields) : Sys2Proof.Laws.Opcode.Statement (.shfx f) :=
  fun _ => ⟨by decide, rfl⟩
theorem Sys2Proof.Laws.Opcode.shfd (f : Sys2Proof.LaneFields) : Sys2Proof.Laws.Opcode.Statement (.shfd f) :=
  fun _ => ⟨by decide, rfl⟩
theorem Sys2Proof.Laws.Opcode.shfu (f : Sys2Proof.LaneFields) : Sys2Proof.Laws.Opcode.Statement (.shfu f) :=
  fun _ => ⟨by decide, rfl⟩
theorem Sys2Proof.Laws.Opcode.qx (f : Sys2Proof.LaneFields) : Sys2Proof.Laws.Opcode.Statement (.qx f) :=
  fun _ => ⟨by decide, rfl⟩
theorem Sys2Proof.Laws.Opcode.vote (f : Sys2Proof.LaneFields) : Sys2Proof.Laws.Opcode.Statement (.vote f) :=
  fun _ => ⟨by decide, rfl⟩
theorem Sys2Proof.Laws.Opcode.lred (f : Sys2Proof.LaneFields) : Sys2Proof.Laws.Opcode.Statement (.lred f) :=
  fun _ => ⟨by decide, rfl⟩
theorem Sys2Proof.Laws.Opcode.scan (f : Sys2Proof.LaneFields) : Sys2Proof.Laws.Opcode.Statement (.scan f) :=
  fun _ => ⟨by decide, rfl⟩
theorem Sys2Proof.Laws.Opcode.bcst (f : Sys2Proof.LaneFields) : Sys2Proof.Laws.Opcode.Statement (.bcst f) :=
  fun _ => ⟨by decide, rfl⟩
theorem Sys2Proof.Laws.Opcode.vext (f : Sys2Proof.LaneFields) : Sys2Proof.Laws.Opcode.Statement (.vext f) :=
  fun _ => ⟨by decide, rfl⟩
theorem Sys2Proof.Laws.Opcode.vins (f : Sys2Proof.LaneFields) : Sys2Proof.Laws.Opcode.Statement (.vins f) :=
  fun _ => ⟨by decide, rfl⟩
theorem Sys2Proof.Laws.Opcode.mov (f : Sys2Proof.LaneFields) : Sys2Proof.Laws.Opcode.Statement (.mov f) :=
  fun _ => ⟨by decide, rfl⟩
theorem Sys2Proof.Laws.Opcode.movi (f : Sys2Proof.LaneFields) : Sys2Proof.Laws.Opcode.Statement (.movi f) :=
  fun _ => ⟨by decide, rfl⟩
theorem Sys2Proof.Laws.Opcode.movs (f : Sys2Proof.LaneFields) : Sys2Proof.Laws.Opcode.Statement (.movs f) :=
  fun _ => ⟨by decide, rfl⟩
theorem Sys2Proof.Laws.Opcode.pset (f : Sys2Proof.LaneFields) : Sys2Proof.Laws.Opcode.Statement (.pset f) :=
  fun _ => ⟨by decide, rfl⟩
theorem Sys2Proof.Laws.Opcode.pand (f : Sys2Proof.LaneFields) : Sys2Proof.Laws.Opcode.Statement (.pand f) :=
  fun _ => ⟨by decide, rfl⟩
theorem Sys2Proof.Laws.Opcode.por (f : Sys2Proof.LaneFields) : Sys2Proof.Laws.Opcode.Statement (.por f) :=
  fun _ => ⟨by decide, rfl⟩
theorem Sys2Proof.Laws.Opcode.pxor (f : Sys2Proof.LaneFields) : Sys2Proof.Laws.Opcode.Statement (.pxor f) :=
  fun _ => ⟨by decide, rfl⟩
theorem Sys2Proof.Laws.Opcode.pnot (f : Sys2Proof.LaneFields) : Sys2Proof.Laws.Opcode.Statement (.pnot f) :=
  fun _ => ⟨by decide, rfl⟩
theorem Sys2Proof.Laws.Opcode.pmov (f : Sys2Proof.LaneFields) : Sys2Proof.Laws.Opcode.Statement (.pmov f) :=
  fun _ => ⟨by decide, rfl⟩
theorem Sys2Proof.Laws.Opcode.lid (f : Sys2Proof.LaneFields) : Sys2Proof.Laws.Opcode.Statement (.lid f) :=
  fun _ => ⟨by decide, rfl⟩
theorem Sys2Proof.Laws.Opcode.pxy (f : Sys2Proof.LaneFields) : Sys2Proof.Laws.Opcode.Statement (.pxy f) :=
  fun _ => ⟨by decide, rfl⟩
theorem Sys2Proof.Laws.Opcode.ldp (f : Sys2Proof.LaneFields) : Sys2Proof.Laws.Opcode.Statement (.ldp f) :=
  fun _ => ⟨by decide, rfl⟩
theorem Sys2Proof.Laws.Opcode.stp (f : Sys2Proof.LaneFields) : Sys2Proof.Laws.Opcode.Statement (.stp f) :=
  fun _ => ⟨by decide, rfl⟩
theorem Sys2Proof.Laws.Opcode.ldw (f : Sys2Proof.LaneFields) : Sys2Proof.Laws.Opcode.Statement (.ldw f) :=
  fun _ => ⟨by decide, rfl⟩
theorem Sys2Proof.Laws.Opcode.stw (f : Sys2Proof.LaneFields) : Sys2Proof.Laws.Opcode.Statement (.stw f) :=
  fun _ => ⟨by decide, rfl⟩
theorem Sys2Proof.Laws.Opcode.lds (f : Sys2Proof.LaneFields) : Sys2Proof.Laws.Opcode.Statement (.lds f) :=
  fun _ => ⟨by decide, rfl⟩
theorem Sys2Proof.Laws.Opcode.sts (f : Sys2Proof.LaneFields) : Sys2Proof.Laws.Opcode.Statement (.sts f) :=
  fun _ => ⟨by decide, rfl⟩
theorem Sys2Proof.Laws.Opcode.ldg (f : Sys2Proof.LaneFields) : Sys2Proof.Laws.Opcode.Statement (.ldg f) :=
  fun _ => ⟨by decide, rfl⟩
theorem Sys2Proof.Laws.Opcode.stg (f : Sys2Proof.LaneFields) : Sys2Proof.Laws.Opcode.Statement (.stg f) :=
  fun _ => ⟨by decide, rfl⟩
theorem Sys2Proof.Laws.Opcode.prefg (f : Sys2Proof.LaneFields) : Sys2Proof.Laws.Opcode.Statement (.prefg f) :=
  fun _ => ⟨by decide, rfl⟩
theorem Sys2Proof.Laws.Opcode.atomAdd (f : Sys2Proof.LaneFields) : Sys2Proof.Laws.Opcode.Statement (.atomAdd f) :=
  fun _ => ⟨by decide, rfl⟩
theorem Sys2Proof.Laws.Opcode.atomMin (f : Sys2Proof.LaneFields) : Sys2Proof.Laws.Opcode.Statement (.atomMin f) :=
  fun _ => ⟨by decide, rfl⟩
theorem Sys2Proof.Laws.Opcode.atomMax (f : Sys2Proof.LaneFields) : Sys2Proof.Laws.Opcode.Statement (.atomMax f) :=
  fun _ => ⟨by decide, rfl⟩
theorem Sys2Proof.Laws.Opcode.atomAnd (f : Sys2Proof.LaneFields) : Sys2Proof.Laws.Opcode.Statement (.atomAnd f) :=
  fun _ => ⟨by decide, rfl⟩
theorem Sys2Proof.Laws.Opcode.atomOr (f : Sys2Proof.LaneFields) : Sys2Proof.Laws.Opcode.Statement (.atomOr f) :=
  fun _ => ⟨by decide, rfl⟩
theorem Sys2Proof.Laws.Opcode.atomXor (f : Sys2Proof.LaneFields) : Sys2Proof.Laws.Opcode.Statement (.atomXor f) :=
  fun _ => ⟨by decide, rfl⟩
theorem Sys2Proof.Laws.Opcode.atomXchg (f : Sys2Proof.LaneFields) : Sys2Proof.Laws.Opcode.Statement (.atomXchg f) :=
  fun _ => ⟨by decide, rfl⟩
theorem Sys2Proof.Laws.Opcode.atomCas (f : Sys2Proof.LaneFields) : Sys2Proof.Laws.Opcode.Statement (.atomCas f) :=
  fun _ => ⟨by decide, rfl⟩
theorem Sys2Proof.Laws.Opcode.redAdd (f : Sys2Proof.LaneFields) : Sys2Proof.Laws.Opcode.Statement (.redAdd f) :=
  fun _ => ⟨by decide, rfl⟩
theorem Sys2Proof.Laws.Opcode.redMin (f : Sys2Proof.LaneFields) : Sys2Proof.Laws.Opcode.Statement (.redMin f) :=
  fun _ => ⟨by decide, rfl⟩
theorem Sys2Proof.Laws.Opcode.redMax (f : Sys2Proof.LaneFields) : Sys2Proof.Laws.Opcode.Statement (.redMax f) :=
  fun _ => ⟨by decide, rfl⟩
theorem Sys2Proof.Laws.Opcode.redAnd (f : Sys2Proof.LaneFields) : Sys2Proof.Laws.Opcode.Statement (.redAnd f) :=
  fun _ => ⟨by decide, rfl⟩
theorem Sys2Proof.Laws.Opcode.redOr (f : Sys2Proof.LaneFields) : Sys2Proof.Laws.Opcode.Statement (.redOr f) :=
  fun _ => ⟨by decide, rfl⟩
theorem Sys2Proof.Laws.Opcode.redXor (f : Sys2Proof.LaneFields) : Sys2Proof.Laws.Opcode.Statement (.redXor f) :=
  fun _ => ⟨by decide, rfl⟩
theorem Sys2Proof.Laws.Opcode.atomsAdd (f : Sys2Proof.LaneFields) : Sys2Proof.Laws.Opcode.Statement (.atomsAdd f) :=
  fun _ => ⟨by decide, rfl⟩
theorem Sys2Proof.Laws.Opcode.atomsMin (f : Sys2Proof.LaneFields) : Sys2Proof.Laws.Opcode.Statement (.atomsMin f) :=
  fun _ => ⟨by decide, rfl⟩
theorem Sys2Proof.Laws.Opcode.atomsMax (f : Sys2Proof.LaneFields) : Sys2Proof.Laws.Opcode.Statement (.atomsMax f) :=
  fun _ => ⟨by decide, rfl⟩
theorem Sys2Proof.Laws.Opcode.atomsAnd (f : Sys2Proof.LaneFields) : Sys2Proof.Laws.Opcode.Statement (.atomsAnd f) :=
  fun _ => ⟨by decide, rfl⟩
theorem Sys2Proof.Laws.Opcode.atomsOr (f : Sys2Proof.LaneFields) : Sys2Proof.Laws.Opcode.Statement (.atomsOr f) :=
  fun _ => ⟨by decide, rfl⟩
theorem Sys2Proof.Laws.Opcode.atomsXor (f : Sys2Proof.LaneFields) : Sys2Proof.Laws.Opcode.Statement (.atomsXor f) :=
  fun _ => ⟨by decide, rfl⟩
theorem Sys2Proof.Laws.Opcode.atomsXchg (f : Sys2Proof.LaneFields) : Sys2Proof.Laws.Opcode.Statement (.atomsXchg f) :=
  fun _ => ⟨by decide, rfl⟩
theorem Sys2Proof.Laws.Opcode.atomsCas (f : Sys2Proof.LaneFields) : Sys2Proof.Laws.Opcode.Statement (.atomsCas f) :=
  fun _ => ⟨by decide, rfl⟩
theorem Sys2Proof.Laws.Opcode.fence (f : Sys2Proof.LaneFields) : Sys2Proof.Laws.Opcode.Statement (.fence f) :=
  fun _ => ⟨by decide, rfl⟩
theorem Sys2Proof.Laws.Opcode.ofence (f : Sys2Proof.LaneFields) : Sys2Proof.Laws.Opcode.Statement (.ofence f) :=
  fun _ => ⟨by decide, rfl⟩
theorem Sys2Proof.Laws.Opcode.bara (f : Sys2Proof.LaneFields) : Sys2Proof.Laws.Opcode.Statement (.bara f) :=
  fun _ => ⟨by decide, rfl⟩
theorem Sys2Proof.Laws.Opcode.bars (f : Sys2Proof.LaneFields) : Sys2Proof.Laws.Opcode.Statement (.bars f) :=
  fun _ => ⟨by decide, rfl⟩
theorem Sys2Proof.Laws.Opcode.barw (f : Sys2Proof.LaneFields) : Sys2Proof.Laws.Opcode.Statement (.barw f) :=
  fun _ => ⟨by decide, rfl⟩
theorem Sys2Proof.Laws.Opcode.bari (f : Sys2Proof.LaneFields) : Sys2Proof.Laws.Opcode.Statement (.bari f) :=
  fun _ => ⟨by decide, rfl⟩
theorem Sys2Proof.Laws.Opcode.marm (f : Sys2Proof.LaneFields) : Sys2Proof.Laws.Opcode.Statement (.marm f) :=
  fun _ => ⟨by decide, rfl⟩
theorem Sys2Proof.Laws.Opcode.mwait (f : Sys2Proof.LaneFields) : Sys2Proof.Laws.Opcode.Statement (.mwait f) :=
  fun _ => ⟨by decide, rfl⟩
theorem Sys2Proof.Laws.Opcode.monitorTrigger (core fib : Nat) : Sys2Proof.Laws.Opcode.Statement (.monitorTrigger core fib) :=
  fun h => absurd h Bool.false_ne_true
theorem Sys2Proof.Laws.Opcode.mwaitTimeout (core fib : Nat) : Sys2Proof.Laws.Opcode.Statement (.mwaitTimeout core fib) :=
  fun h => absurd h Bool.false_ne_true
theorem Sys2Proof.Laws.Opcode.rwr (f : Sys2Proof.LaneFields) : Sys2Proof.Laws.Opcode.Statement (.rwr f) :=
  fun _ => ⟨by decide, rfl⟩
theorem Sys2Proof.Laws.Opcode.rwrDelivery (index : Nat) : Sys2Proof.Laws.Opcode.Statement (.rwrDelivery index) :=
  fun h => absurd h Bool.false_ne_true
theorem Sys2Proof.Laws.Opcode.await (f : Sys2Proof.LaneFields) : Sys2Proof.Laws.Opcode.Statement (.await f) :=
  fun _ => ⟨by decide, rfl⟩
theorem Sys2Proof.Laws.Opcode.arrc (f : Sys2Proof.LaneFields) : Sys2Proof.Laws.Opcode.Statement (.arrc f) :=
  fun _ => ⟨by decide, rfl⟩
theorem Sys2Proof.Laws.Opcode.qtry (f : Sys2Proof.LaneFields) : Sys2Proof.Laws.Opcode.Statement (.qtry f) :=
  fun _ => ⟨by decide, rfl⟩
theorem Sys2Proof.Laws.Opcode.qlen (f : Sys2Proof.LaneFields) : Sys2Proof.Laws.Opcode.Statement (.qlen f) :=
  fun _ => ⟨by decide, rfl⟩
theorem Sys2Proof.Laws.Opcode.qcls (f : Sys2Proof.LaneFields) : Sys2Proof.Laws.Opcode.Statement (.qcls f) :=
  fun _ => ⟨by decide, rfl⟩
theorem Sys2Proof.Laws.Opcode.qput (f : Sys2Proof.LaneFields) : Sys2Proof.Laws.Opcode.Statement (.qput f) :=
  fun _ => ⟨by decide, rfl⟩
theorem Sys2Proof.Laws.Opcode.oclm (f : Sys2Proof.LaneFields) : Sys2Proof.Laws.Opcode.Statement (.oclm f) :=
  fun _ => ⟨by decide, rfl⟩
theorem Sys2Proof.Laws.Opcode.orel (f : Sys2Proof.LaneFields) : Sys2Proof.Laws.Opcode.Statement (.orel f) :=
  fun _ => ⟨by decide, rfl⟩
theorem Sys2Proof.Laws.Opcode.q4RowWrite (core fib : Nat) : Sys2Proof.Laws.Opcode.Statement (.q4RowWrite core fib) :=
  fun h => absurd h Bool.false_ne_true
theorem Sys2Proof.Laws.Opcode.mma (f : Sys2Proof.LaneFields) : Sys2Proof.Laws.Opcode.Statement (.mma f) :=
  fun _ => ⟨by decide, rfl⟩
theorem Sys2Proof.Laws.Opcode.azero (f : Sys2Proof.LaneFields) : Sys2Proof.Laws.Opcode.Statement (.azero f) :=
  fun _ => ⟨by decide, rfl⟩
theorem Sys2Proof.Laws.Opcode.ald (f : Sys2Proof.LaneFields) : Sys2Proof.Laws.Opcode.Statement (.ald f) :=
  fun _ => ⟨by decide, rfl⟩
theorem Sys2Proof.Laws.Opcode.drainQ (f : Sys2Proof.LaneFields) : Sys2Proof.Laws.Opcode.Statement (.drainQ f) :=
  fun h => ⟨by decide, by
  simp [Sys2Proof.laneInstr, Sys2Proof.laneMap, Sys2Proof.laneInstrIn, Sys2Proof.drainOf,
    Sys2Proof.drain_sub (dst := 0) (by decide) rfl h]⟩
theorem Sys2Proof.Laws.Opcode.drainPl (f : Sys2Proof.LaneFields) : Sys2Proof.Laws.Opcode.Statement (.drainPl f) :=
  fun h => ⟨by decide, by
  simp [Sys2Proof.laneInstr, Sys2Proof.laneMap, Sys2Proof.laneInstrIn, Sys2Proof.drainOf,
    Sys2Proof.drain_sub (dst := 1) (by decide) rfl h]⟩
theorem Sys2Proof.Laws.Opcode.drainScr (f : Sys2Proof.LaneFields) : Sys2Proof.Laws.Opcode.Statement (.drainScr f) :=
  fun h => ⟨by decide, by
  simp [Sys2Proof.laneInstr, Sys2Proof.laneMap, Sys2Proof.laneInstrIn, Sys2Proof.drainOf,
    Sys2Proof.drain_sub (dst := 2) (by decide) rfl h]⟩
theorem Sys2Proof.Laws.Opcode.drainSlot (f : Sys2Proof.LaneFields) : Sys2Proof.Laws.Opcode.Statement (.drainSlot f) :=
  fun h => ⟨by decide, by
  simp [Sys2Proof.laneInstr, Sys2Proof.laneMap, Sys2Proof.laneInstrIn, Sys2Proof.drainOf,
    Sys2Proof.drain_sub (dst := 3) (by decide) rfl h]⟩
theorem Sys2Proof.Laws.Opcode.drainGlb (f : Sys2Proof.LaneFields) : Sys2Proof.Laws.Opcode.Statement (.drainGlb f) :=
  fun h => ⟨by decide, by
  simp [Sys2Proof.laneInstr, Sys2Proof.laneMap, Sys2Proof.laneInstrIn, Sys2Proof.drainOf,
    Sys2Proof.drain_sub (dst := 4) (by decide) rfl h]⟩
theorem Sys2Proof.Laws.Opcode.cpyIn (f : Sys2Proof.LaneFields) : Sys2Proof.Laws.Opcode.Statement (.cpyIn f) :=
  by
  intro h
  have hm : ([0, 2, 4, 8, 10, 12] : List Nat).contains f.m1.toNat = true := Sys2Proof.sub_of rfl h
  have hb : f.m1[0] = false := Sys2Proof.sub_bit hm (by decide)
  exact ⟨by decide, by simp [Sys2Proof.laneInstr, Sys2Proof.laneMap, Sys2Proof.laneInstrIn, Sys2Proof.cpyOf, hb]⟩
theorem Sys2Proof.Laws.Opcode.cpyOut (f : Sys2Proof.LaneFields) : Sys2Proof.Laws.Opcode.Statement (.cpyOut f) :=
  by
  intro h
  have hm : ([1, 3, 5, 9, 11, 13] : List Nat).contains f.m1.toNat = true := Sys2Proof.sub_of rfl h
  have hb : f.m1[0] = true := Sys2Proof.sub_bit hm (by decide)
  exact ⟨by decide, by simp [Sys2Proof.laneInstr, Sys2Proof.laneMap, Sys2Proof.laneInstrIn, Sys2Proof.cpyOf, hb]⟩
theorem Sys2Proof.Laws.Opcode.cpyq (f : Sys2Proof.LaneFields) : Sys2Proof.Laws.Opcode.Statement (.cpyq f) :=
  fun _ => ⟨by decide, rfl⟩
theorem Sys2Proof.Laws.Opcode.cbld (f : Sys2Proof.LaneFields) : Sys2Proof.Laws.Opcode.Statement (.cbld f) :=
  fun _ => ⟨by decide, rfl⟩
theorem Sys2Proof.Laws.Opcode.scrlF (f : Sys2Proof.LaneFields) : Sys2Proof.Laws.Opcode.Statement (.scrlF f) :=
  by
  intro h
  have hm : ([0, 2, 8, 10] : List Nat).contains f.m1.toNat = true := Sys2Proof.sub_of rfl h
  have hb : f.m1[0] = false := Sys2Proof.sub_bit hm (by decide)
  exact ⟨by decide, by simp [Sys2Proof.laneInstr, Sys2Proof.laneMap, Sys2Proof.laneInstrIn, Sys2Proof.scrlOf, hb]⟩
theorem Sys2Proof.Laws.Opcode.scrlM (f : Sys2Proof.LaneFields) : Sys2Proof.Laws.Opcode.Statement (.scrlM f) :=
  by
  intro h
  have hm : ([1, 3, 9, 11] : List Nat).contains f.m1.toNat = true := Sys2Proof.sub_of rfl h
  have hb : f.m1[0] = true := Sys2Proof.sub_bit hm (by decide)
  exact ⟨by decide, by simp [Sys2Proof.laneInstr, Sys2Proof.laneMap, Sys2Proof.laneInstrIn, Sys2Proof.scrlOf, hb]⟩
theorem Sys2Proof.Laws.Opcode.wgath (f : Sys2Proof.LaneFields) : Sys2Proof.Laws.Opcode.Statement (.wgath f) :=
  fun _ => ⟨by decide, rfl⟩
theorem Sys2Proof.Laws.Opcode.wpool (f : Sys2Proof.LaneFields) : Sys2Proof.Laws.Opcode.Statement (.wpool f) :=
  fun _ => ⟨by decide, rfl⟩
theorem Sys2Proof.Laws.Opcode.gnode (f : Sys2Proof.LaneFields) : Sys2Proof.Laws.Opcode.Statement (.gnode f) :=
  fun _ => ⟨by decide, rfl⟩
theorem Sys2Proof.Laws.Opcode.gsig (f : Sys2Proof.LaneFields) : Sys2Proof.Laws.Opcode.Statement (.gsig f) :=
  fun _ => ⟨by decide, rfl⟩
theorem Sys2Proof.Laws.Opcode.gflag (f : Sys2Proof.LaneFields) : Sys2Proof.Laws.Opcode.Statement (.gflag f) :=
  fun _ => ⟨by decide, rfl⟩
theorem Sys2Proof.Laws.Opcode.asco (f : Sys2Proof.LaneFields) : Sys2Proof.Laws.Opcode.Statement (.asco f) :=
  fun _ => ⟨by decide, rfl⟩
theorem Sys2Proof.Laws.Opcode.ascp (f : Sys2Proof.LaneFields) : Sys2Proof.Laws.Opcode.Statement (.ascp f) :=
  fun _ => ⟨by decide, rfl⟩
theorem Sys2Proof.Laws.Opcode.ascl (f : Sys2Proof.LaneFields) : Sys2Proof.Laws.Opcode.Statement (.ascl f) :=
  fun _ => ⟨by decide, rfl⟩
theorem Sys2Proof.Laws.Opcode.ascr (f : Sys2Proof.LaneFields) : Sys2Proof.Laws.Opcode.Statement (.ascr f) :=
  fun _ => ⟨by decide, rfl⟩
theorem Sys2Proof.Laws.Opcode.ascf (f : Sys2Proof.LaneFields) : Sys2Proof.Laws.Opcode.Statement (.ascf f) :=
  fun _ => ⟨by decide, rfl⟩
theorem Sys2Proof.Laws.Opcode.ascq (f : Sys2Proof.LaneFields) : Sys2Proof.Laws.Opcode.Statement (.ascq f) :=
  fun _ => ⟨by decide, rfl⟩
theorem Sys2Proof.Laws.Opcode.asclAuditRelease (ascent : BitVec 64) : Sys2Proof.Laws.Opcode.Statement (.asclAuditRelease ascent) :=
  fun h => absurd h Bool.false_ne_true
theorem Sys2Proof.Laws.Opcode.compensationLaunch (place : Sys2Proof.BlockPlace) : Sys2Proof.Laws.Opcode.Statement (.compensationLaunch place) :=
  fun h => absurd h Bool.false_ne_true
theorem Sys2Proof.Laws.Opcode.compensationExit (core block : Nat) : Sys2Proof.Laws.Opcode.Statement (.compensationExit core block) :=
  fun h => absurd h Bool.false_ne_true
theorem Sys2Proof.Laws.Opcode.engineAccept (core fib engine : Nat) : Sys2Proof.Laws.Opcode.Statement (.engineAccept core fib engine) :=
  fun h => absurd h Bool.false_ne_true
theorem Sys2Proof.Laws.Opcode.scrollAccept (core fib : Nat) : Sys2Proof.Laws.Opcode.Statement (.scrollAccept core fib) :=
  fun h => absurd h Bool.false_ne_true
theorem Sys2Proof.Laws.Opcode.spillHeaderRead (core fib : Nat) : Sys2Proof.Laws.Opcode.Statement (.spillHeaderRead core fib) :=
  fun h => absurd h Bool.false_ne_true
theorem Sys2Proof.Laws.Opcode.scrollRow (core fib : Nat) : Sys2Proof.Laws.Opcode.Statement (.scrollRow core fib) :=
  fun h => absurd h Bool.false_ne_true
theorem Sys2Proof.Laws.Opcode.endStatusDelivery (core fib : Nat) : Sys2Proof.Laws.Opcode.Statement (.endStatusDelivery core fib) :=
  fun h => absurd h Bool.false_ne_true
theorem Sys2Proof.Laws.Opcode.mmaComplete (core fib : Nat) : Sys2Proof.Laws.Opcode.Statement (.mmaComplete core fib) :=
  fun h => absurd h Bool.false_ne_true
theorem Sys2Proof.Laws.Opcode.wgathComplete (core fib : Nat) : Sys2Proof.Laws.Opcode.Statement (.wgathComplete core fib) :=
  fun h => absurd h Bool.false_ne_true
theorem Sys2Proof.Laws.Opcode.drainComplete (core fib : Nat) : Sys2Proof.Laws.Opcode.Statement (.drainComplete core fib) :=
  fun h => absurd h Bool.false_ne_true
theorem Sys2Proof.Laws.Opcode.copyComplete (core fib cseq : Nat) : Sys2Proof.Laws.Opcode.Statement (.copyComplete core fib cseq) :=
  fun h => absurd h Bool.false_ne_true
theorem Sys2Proof.Laws.Opcode.wpoolComplete (core fib : Nat) : Sys2Proof.Laws.Opcode.Statement (.wpoolComplete core fib) :=
  fun h => absurd h Bool.false_ne_true
theorem Sys2Proof.Laws.Opcode.completionRecordEnqueue (core fib engine : Nat) : Sys2Proof.Laws.Opcode.Statement (.completionRecordEnqueue core fib engine) :=
  fun h => absurd h Bool.false_ne_true
theorem Sys2Proof.Laws.Opcode.longLatencyCompletion (core fib index : Nat) : Sys2Proof.Laws.Opcode.Statement (.longLatencyCompletion core fib index) :=
  fun h => absurd h Bool.false_ne_true
theorem Sys2Proof.Laws.Opcode.fibreWake (core fib : Nat) : Sys2Proof.Laws.Opcode.Statement (.fibreWake core fib) :=
  fun h => absurd h Bool.false_ne_true
theorem Sys2Proof.Laws.Opcode.xacqGrant (core : Nat) : Sys2Proof.Laws.Opcode.Statement (.xacqGrant core) :=
  fun h => absurd h Bool.false_ne_true
theorem Sys2Proof.Laws.Opcode.slotSwitch (core slot : Nat) : Sys2Proof.Laws.Opcode.Statement (.slotSwitch core slot) :=
  fun h => absurd h Bool.false_ne_true
theorem Sys2Proof.Laws.Opcode.stallSwitch (core slot : Nat) : Sys2Proof.Laws.Opcode.Statement (.stallSwitch core slot) :=
  fun h => absurd h Bool.false_ne_true
theorem Sys2Proof.Laws.Opcode.ageSwitch (core slot : Nat) : Sys2Proof.Laws.Opcode.Statement (.ageSwitch core slot) :=
  fun h => absurd h Bool.false_ne_true
theorem Sys2Proof.Laws.Opcode.issueCycle : Sys2Proof.Laws.Opcode.Statement .issueCycle :=
  fun h => absurd h Bool.false_ne_true
theorem Sys2Proof.Laws.Opcode.allowanceRefill (cluster : Nat) : Sys2Proof.Laws.Opcode.Statement (.allowanceRefill cluster) :=
  fun h => absurd h Bool.false_ne_true
theorem Sys2Proof.Laws.Opcode.userHandlerEntry (core fib : Nat) : Sys2Proof.Laws.Opcode.Statement (.userHandlerEntry core fib) :=
  fun h => absurd h Bool.false_ne_true
theorem Sys2Proof.Laws.Opcode.tretResume (core fib : Nat) : Sys2Proof.Laws.Opcode.Statement (.tretResume core fib) :=
  fun h => absurd h Bool.false_ne_true
theorem Sys2Proof.Laws.Opcode.handlerOverrun (core fib : Nat) : Sys2Proof.Laws.Opcode.Statement (.handlerOverrun core fib) :=
  fun h => absurd h Bool.false_ne_true
theorem Sys2Proof.Laws.Opcode.eventRecordRelease (core : Nat) : Sys2Proof.Laws.Opcode.Statement (.eventRecordRelease core) :=
  fun h => absurd h Bool.false_ne_true
theorem Sys2Proof.Laws.Opcode.replay (core fib : Nat) : Sys2Proof.Laws.Opcode.Statement (.replay core fib) :=
  fun h => absurd h Bool.false_ne_true
theorem Sys2Proof.Laws.Opcode.next (core fib : Nat) : Sys2Proof.Laws.Opcode.Statement (.next core fib) :=
  fun h => absurd h Bool.false_ne_true
theorem Sys2Proof.Laws.Opcode.user (core fib : Nat) (ucause : BitVec 8) : Sys2Proof.Laws.Opcode.Statement (.user core fib ucause) :=
  fun h => absurd h Bool.false_ne_true
theorem Sys2Proof.Laws.Opcode.kill (core fib : Nat) : Sys2Proof.Laws.Opcode.Statement (.kill core fib) :=
  fun h => absurd h Bool.false_ne_true
theorem Sys2Proof.Laws.Opcode.abort (core fib : Nat) (code : BitVec 16) : Sys2Proof.Laws.Opcode.Statement (.abort core fib code) :=
  fun h => absurd h Bool.false_ne_true
theorem Sys2Proof.Laws.Opcode.cont (core fib : Nat) : Sys2Proof.Laws.Opcode.Statement (.cont core fib) :=
  fun h => absurd h Bool.false_ne_true
theorem Sys2Proof.Laws.Opcode.step (core fib : Nat) : Sys2Proof.Laws.Opcode.Statement (.step core fib) :=
  fun h => absurd h Bool.false_ne_true
theorem Sys2Proof.Laws.Opcode.stepall (core fib : Nat) : Sys2Proof.Laws.Opcode.Statement (.stepall core fib) :=
  fun h => absurd h Bool.false_ne_true
theorem Sys2Proof.Laws.Opcode.stop (core fib : Nat) : Sys2Proof.Laws.Opcode.Statement (.stop core fib) :=
  fun h => absurd h Bool.false_ne_true
theorem Sys2Proof.Laws.Opcode.dbgctlWrite (core : Nat) (value : BitVec 64) : Sys2Proof.Laws.Opcode.Statement (.dbgctlWrite core value) :=
  fun h => absurd h Bool.false_ne_true
theorem Sys2Proof.Laws.Opcode.fibreSave (core fib : Nat) : Sys2Proof.Laws.Opcode.Statement (.fibreSave core fib) :=
  fun h => absurd h Bool.false_ne_true
theorem Sys2Proof.Laws.Opcode.fibreRestore (core fib : Nat) : Sys2Proof.Laws.Opcode.Statement (.fibreRestore core fib) :=
  fun h => absurd h Bool.false_ne_true
theorem Sys2Proof.Laws.Opcode.engdataAccess (core : Nat) (write : Option (BitVec 64)) : Sys2Proof.Laws.Opcode.Statement (.engdataAccess core write) :=
  fun h => absurd h Bool.false_ne_true
theorem Sys2Proof.Laws.Opcode.engdone (core : Nat) (value : BitVec 64) : Sys2Proof.Laws.Opcode.Statement (.engdone core value) :=
  fun h => absurd h Bool.false_ne_true
theorem Sys2Proof.Laws.Opcode.registerWrite (core selector : Nat) (value : BitVec 64) : Sys2Proof.Laws.Opcode.Statement (.registerWrite core selector value) :=
  fun h => absurd h Bool.false_ne_true
theorem Sys2Proof.Laws.Opcode.blockRun (core block : Nat) : Sys2Proof.Laws.Opcode.Statement (.blockRun core block) :=
  fun h => absurd h Bool.false_ne_true
theorem Sys2Proof.Laws.Opcode.blockPreempt (core block : Nat) : Sys2Proof.Laws.Opcode.Statement (.blockPreempt core block) :=
  fun h => absurd h Bool.false_ne_true
theorem Sys2Proof.Laws.Opcode.blockParked (core block : Nat) : Sys2Proof.Laws.Opcode.Statement (.blockParked core block) :=
  fun h => absurd h Bool.false_ne_true
theorem Sys2Proof.Laws.Opcode.blockSave (core block : Nat) : Sys2Proof.Laws.Opcode.Statement (.blockSave core block) :=
  fun h => absurd h Bool.false_ne_true
theorem Sys2Proof.Laws.Opcode.blockRestore (core block : Nat) : Sys2Proof.Laws.Opcode.Statement (.blockRestore core block) :=
  fun h => absurd h Bool.false_ne_true
theorem Sys2Proof.Laws.Opcode.blockRelease (core block : Nat) : Sys2Proof.Laws.Opcode.Statement (.blockRelease core block) :=
  fun h => absurd h Bool.false_ne_true
theorem Sys2Proof.Laws.Opcode.launchDoorbell (part queue : Nat) (address : BitVec 64) (firmware : Bool) : Sys2Proof.Laws.Opcode.Statement (.launchDoorbell part queue address firmware) :=
  fun h => absurd h Bool.false_ne_true
theorem Sys2Proof.Laws.Opcode.launchPlacement (part queue : Nat) (places : List Sys2Proof.BlockPlace) : Sys2Proof.Laws.Opcode.Statement (.launchPlacement part queue places) :=
  fun h => absurd h Bool.false_ne_true
theorem Sys2Proof.Laws.Opcode.launchAgeing (part queue : Nat) : Sys2Proof.Laws.Opcode.Statement (.launchAgeing part queue) :=
  fun h => absurd h Bool.false_ne_true
theorem Sys2Proof.Laws.Opcode.launchCompletion (part : Nat) (lid : BitVec 32) : Sys2Proof.Laws.Opcode.Statement (.launchCompletion part lid) :=
  fun h => absurd h Bool.false_ne_true
theorem Sys2Proof.Laws.Opcode.poolMove (cluster cls : Nat) : Sys2Proof.Laws.Opcode.Statement (.poolMove cluster cls) :=
  fun h => absurd h Bool.false_ne_true
theorem Sys2Proof.Laws.Opcode.thermalMigration (source target : Nat) : Sys2Proof.Laws.Opcode.Statement (.thermalMigration source target) :=
  fun h => absurd h Bool.false_ne_true
theorem Sys2Proof.Laws.Opcode.migrationComplete (source : Nat) : Sys2Proof.Laws.Opcode.Statement (.migrationComplete source) :=
  fun h => absurd h Bool.false_ne_true
theorem Sys2Proof.Laws.Opcode.linkWidthChange (link : Nat) (width : BitVec 2) : Sys2Proof.Laws.Opcode.Statement (.linkWidthChange link width) :=
  fun h => absurd h Bool.false_ne_true
theorem Sys2Proof.Laws.Opcode.linkFrequencyChange (die mhz : Nat) : Sys2Proof.Laws.Opcode.Statement (.linkFrequencyChange die mhz) :=
  fun h => absurd h Bool.false_ne_true
theorem Sys2Proof.Laws.Opcode.linkRetrainComplete (link : Nat) (ok : Bool) : Sys2Proof.Laws.Opcode.Statement (.linkRetrainComplete link ok) :=
  fun h => absurd h Bool.false_ne_true
theorem Sys2Proof.Laws.Opcode.pageWalk (die : Nat) (asid : BitVec 16) (va : Sys2Proof.VAddr) (write : Bool) : Sys2Proof.Laws.Opcode.Statement (.pageWalk die asid va write) :=
  fun h => absurd h Bool.false_ne_true
theorem Sys2Proof.Laws.Opcode.faultReplyGrant (part : Nat) (token : BitVec 16) : Sys2Proof.Laws.Opcode.Statement (.faultReplyGrant part token) :=
  fun h => absurd h Bool.false_ne_true
theorem Sys2Proof.Laws.Opcode.faultReplyRefuse (part : Nat) (token : BitVec 16) : Sys2Proof.Laws.Opcode.Statement (.faultReplyRefuse part token) :=
  fun h => absurd h Bool.false_ne_true
theorem Sys2Proof.Laws.Opcode.invalidateRange (die : Nat) (asid : BitVec 16) (base : Sys2Proof.VAddr) (lsize : BitVec 6) : Sys2Proof.Laws.Opcode.Statement (.invalidateRange die asid base lsize) :=
  fun h => absurd h Bool.false_ne_true
theorem Sys2Proof.Laws.Opcode.invalidateAsid (die : Nat) (asid : BitVec 16) : Sys2Proof.Laws.Opcode.Statement (.invalidateAsid die asid) :=
  fun h => absurd h Bool.false_ne_true
theorem Sys2Proof.Laws.Opcode.invalidateAll (die : Nat) : Sys2Proof.Laws.Opcode.Statement (.invalidateAll die) :=
  fun h => absurd h Bool.false_ne_true
theorem Sys2Proof.Laws.Opcode.invalidateHandles (die : Nat) (asid : BitVec 16) : Sys2Proof.Laws.Opcode.Statement (.invalidateHandles die asid) :=
  fun h => absurd h Bool.false_ne_true
theorem Sys2Proof.Laws.Opcode.invalidationDone : Sys2Proof.Laws.Opcode.Statement .invalidationDone :=
  fun h => absurd h Bool.false_ne_true
theorem Sys2Proof.Laws.Opcode.dmaRequest (asid : BitVec 16) (va : BitVec 64) (size : Nat) (data : Option (List (BitVec 8))) : Sys2Proof.Laws.Opcode.Statement (.dmaRequest asid va size data) :=
  fun h => absurd h Bool.false_ne_true
theorem Sys2Proof.Laws.Opcode.registerEccError (place : Sys2Proof.EccPlace) (correctable : Bool) : Sys2Proof.Laws.Opcode.Statement (.registerEccError place correctable) :=
  fun h => absurd h Bool.false_ne_true
theorem Sys2Proof.Laws.Opcode.uncorrectableControlError (place : Sys2Proof.ControlPlace) : Sys2Proof.Laws.Opcode.Statement (.uncorrectableControlError place) :=
  fun h => absurd h Bool.false_ne_true
theorem Sys2Proof.Laws.Opcode.scrubVisit (addr : Nat) (bad : Bool) : Sys2Proof.Laws.Opcode.Statement (.scrubVisit addr bad) :=
  fun h => absurd h Bool.false_ne_true
theorem Sys2Proof.Laws.Opcode.matrixResidueFailure (core : Nat) : Sys2Proof.Laws.Opcode.Statement (.matrixResidueFailure core) :=
  fun h => absurd h Bool.false_ne_true
theorem Sys2Proof.Laws.Opcode.loadValueForward (pair : Nat) : Sys2Proof.Laws.Opcode.Statement (.loadValueForward pair) :=
  fun h => absurd h Bool.false_ne_true
theorem Sys2Proof.Laws.Opcode.compareDecision (pair : Nat) : Sys2Proof.Laws.Opcode.Statement (.compareDecision pair) :=
  fun h => absurd h Bool.false_ne_true
theorem Sys2Proof.Laws.Opcode.pairRestoreDone (pair : Nat) : Sys2Proof.Laws.Opcode.Statement (.pairRestoreDone pair) :=
  fun h => absurd h Bool.false_ne_true
theorem Sys2Proof.Laws.Opcode.checkpoint (pair : Nat) : Sys2Proof.Laws.Opcode.Statement (.checkpoint pair) :=
  fun h => absurd h Bool.false_ne_true
theorem Sys2Proof.Laws.Opcode.heldExit (core fib : Nat) : Sys2Proof.Laws.Opcode.Statement (.heldExit core fib) :=
  fun h => absurd h Bool.false_ne_true
theorem Sys2Proof.Laws.Opcode.auditReplay (part host third : Nat) : Sys2Proof.Laws.Opcode.Statement (.auditReplay part host third) :=
  fun h => absurd h Bool.false_ne_true
theorem Sys2Proof.Laws.Opcode.scanStart (core : Nat) : Sys2Proof.Laws.Opcode.Statement (.scanStart core) :=
  fun h => absurd h Bool.false_ne_true
theorem Sys2Proof.Laws.Opcode.scanAbort (core : Nat) : Sys2Proof.Laws.Opcode.Statement (.scanAbort core) :=
  fun h => absurd h Bool.false_ne_true
theorem Sys2Proof.Laws.Opcode.scanComplete (core : Nat) (sig : BitVec 32) : Sys2Proof.Laws.Opcode.Statement (.scanComplete core sig) :=
  fun h => absurd h Bool.false_ne_true
theorem Sys2Proof.Laws.Opcode.watchdogExpiry : Sys2Proof.Laws.Opcode.Statement .watchdogExpiry :=
  fun h => absurd h Bool.false_ne_true
theorem Sys2Proof.Laws.Opcode.warmReset (touched : List (BitVec 16)) : Sys2Proof.Laws.Opcode.Statement (.warmReset touched) :=
  fun h => absurd h Bool.false_ne_true
theorem Sys2Proof.Laws.Opcode.warmResetResume : Sys2Proof.Laws.Opcode.Statement .warmResetResume :=
  fun h => absurd h Bool.false_ne_true
theorem Sys2Proof.Laws.Opcode.lifeLogAppend : Sys2Proof.Laws.Opcode.Statement .lifeLogAppend :=
  fun h => absurd h Bool.false_ne_true
theorem Sys2Proof.Laws.Opcode.flitCrcError (port : Nat) : Sys2Proof.Laws.Opcode.Statement (.flitCrcError port) :=
  fun h => absurd h Bool.false_ne_true
theorem Sys2Proof.Laws.Opcode.portRetrain (port : Nat) : Sys2Proof.Laws.Opcode.Statement (.portRetrain port) :=
  fun h => absurd h Bool.false_ne_true
theorem Sys2Proof.Laws.Opcode.tetherPortWrite (port offset : Nat) (value : BitVec 64) : Sys2Proof.Laws.Opcode.Statement (.tetherPortWrite port offset value) :=
  fun h => absurd h Bool.false_ne_true
theorem Sys2Proof.Laws.Opcode.torusScrollCancel (core fib : Nat) : Sys2Proof.Laws.Opcode.Statement (.torusScrollCancel core fib) :=
  fun h => absurd h Bool.false_ne_true
theorem Sys2Proof.Laws.Opcode.coldBoot : Sys2Proof.Laws.Opcode.Statement .coldBoot :=
  fun h => absurd h Bool.false_ne_true
theorem Sys2Proof.Laws.Opcode.getVersion (doe : Bool) : Sys2Proof.Laws.Opcode.Statement (.getVersion doe) :=
  fun h => absurd h Bool.false_ne_true
theorem Sys2Proof.Laws.Opcode.getCapabilities (doe : Bool) : Sys2Proof.Laws.Opcode.Statement (.getCapabilities doe) :=
  fun h => absurd h Bool.false_ne_true
theorem Sys2Proof.Laws.Opcode.negotiateAlgorithms (doe : Bool) : Sys2Proof.Laws.Opcode.Statement (.negotiateAlgorithms doe) :=
  fun h => absurd h Bool.false_ne_true
theorem Sys2Proof.Laws.Opcode.getDigests (doe : Bool) : Sys2Proof.Laws.Opcode.Statement (.getDigests doe) :=
  fun h => absurd h Bool.false_ne_true
theorem Sys2Proof.Laws.Opcode.getCertificate (doe : Bool) : Sys2Proof.Laws.Opcode.Statement (.getCertificate doe) :=
  fun h => absurd h Bool.false_ne_true
theorem Sys2Proof.Laws.Opcode.challenge (doe : Bool) (nonce : BitVec 256) : Sys2Proof.Laws.Opcode.Statement (.challenge doe nonce) :=
  fun h => absurd h Bool.false_ne_true
theorem Sys2Proof.Laws.Opcode.getMeasurements (doe : Bool) : Sys2Proof.Laws.Opcode.Statement (.getMeasurements doe) :=
  fun h => absurd h Bool.false_ne_true
theorem Sys2Proof.Laws.Opcode.powerLimitSet (watts : Nat) : Sys2Proof.Laws.Opcode.Statement (.powerLimitSet watts) :=
  fun h => absurd h Bool.false_ne_true
theorem Sys2Proof.Laws.Opcode.warmResetRequest : Sys2Proof.Laws.Opcode.Statement .warmResetRequest :=
  fun h => absurd h Bool.false_ne_true
theorem Sys2Proof.Laws.Opcode.coldResetRequest : Sys2Proof.Laws.Opcode.Statement .coldResetRequest :=
  fun h => absurd h Bool.false_ne_true
theorem Sys2Proof.Laws.Opcode.dieOverheat (die celsius : Nat) : Sys2Proof.Laws.Opcode.Statement (.dieOverheat die celsius) :=
  fun h => absurd h Bool.false_ne_true
theorem Sys2Proof.Laws.Opcode.thermalTrip (celsius : Nat) : Sys2Proof.Laws.Opcode.Statement (.thermalTrip celsius) :=
  fun h => absurd h Bool.false_ne_true
theorem Sys2Proof.Laws.Opcode.applicationCoreAccess (hart : Nat) (access : Sys2Proof.HartAccess) : Sys2Proof.Laws.Opcode.Statement (.applicationCoreAccess hart access) :=
  fun h => absurd h Bool.false_ne_true
theorem Sys2Proof.Laws.Opcode.tetherFlitDelivery (port : Nat) (flit : Sys2Proof.Flit) : Sys2Proof.Laws.Opcode.Statement (.tetherFlitDelivery port flit) :=
  fun h => absurd h Bool.false_ne_true
theorem Sys2Proof.Laws.Opcode.supplyDroopEvent (core : Nat) : Sys2Proof.Laws.Opcode.Statement (.supplyDroopEvent core) :=
  fun h => absurd h Bool.false_ne_true
theorem Sys2Proof.Laws.Opcode.lifetimeCounterTick (core celsius : Nat) (hour : Bool) : Sys2Proof.Laws.Opcode.Statement (.lifetimeCounterTick core celsius hour) :=
  fun h => absurd h Bool.false_ne_true
theorem Sys2Proof.Laws.Opcode.poolMoveComplete (cluster : Nat) : Sys2Proof.Laws.Opcode.Statement (.poolMoveComplete cluster) :=
  fun h => absurd h Bool.false_ne_true
theorem Sys2Proof.Laws.Opcode.checkpointComplete (pair : Nat) : Sys2Proof.Laws.Opcode.Statement (.checkpointComplete pair) :=
  fun h => absurd h Bool.false_ne_true
theorem Sys2Proof.Laws.Opcode.blockCommandComplete (core block : Nat) : Sys2Proof.Laws.Opcode.Statement (.blockCommandComplete core block) :=
  fun h => absurd h Bool.false_ne_true
theorem Sys2Proof.Laws.Opcode.fibreSaveRecordDone (core : Nat) : Sys2Proof.Laws.Opcode.Statement (.fibreSaveRecordDone core) :=
  fun h => absurd h Bool.false_ne_true
end

