-- ==== Sys2Proof/Tests/Slice0.lean ====
section
/-! SUPPORT. Tests: ill-formed terms that the checks refuse, words of the encoding tables, and for every
statement a state and operands that meet its hypotheses, clause by clause. -/

namespace Sys2Proof.Tests
open Sys2Proof.Machine Sys2Proof.Spec

-- One theorem after another: many at once take more memory than a compile has.
set_option Elab.async false

/-! ### Small states -/

/-- A fibre of sixteen quads in a clause, the only one of its core; its gang is in focus. -/
def stand : State :=
  { (State.reset.before [0x24000000]) with focus := ⟨0, 0, BitVec.allOnes 16⟩, granted := [] }
/-- The same with the fibre changed. -/
def standing (g : Fibre → Fibre) : State := stand.modCur g
/-- The same with every quad changed. -/
def quadsOf (g : Quad → Quad) : State :=
  standing (fun x => { x with quads := x.quads.map (fun e => (e.1, g e.2)) })
/-- The same with its launch changed. -/
def launched (g : Launch → Launch) : State := { stand with launches := stand.launches.map g }
/-- The same with its core changed. -/
def cored (g : CoreState → CoreState) : State := stand.modCore 0 g
/-- The same with its block changed. -/
def blocked (g : Block → Block) : State := stand.setBlock 0 0 (g (stand.block 0 0))
/-- Scalar registers written. -/
def withScalars (vs : List (Nat × DWord)) (s : State) : State :=
  s.modCur (fun x => vs.foldl (fun y e => y.setScalar e.1 (PX.clean e.2)) x)
/-- A record of a split branch at a point. -/
def splitAt (point : VAddr) (members : QuadMask) (pend : LaneMask) : Recon :=
  { point := point, fall := 0x1040, members := members, mask := BitVec.allOnes 64, pend := pend }
/-- Fields of a lane instruction: v1 from v2 and v3, of a type. -/
def lane (ty : BitVec 5) : LaneFields :=
  { hop := false, fs := false, vd := 1, va := 2, vb := 3, vc := 0, pg := 0, pn := false, ty := ty,
    lua := false, lub := false, luc := false, m1 := 0, m2 := 0, imm := 0 }

/-! ### Words of the encoding tables (R107, R113, R120, R122 to R124) -/

/-- Operand fields of a lane instruction, the guard and the marks 0. -/
def lf (vd va vb vc : BitVec 8) (ty : BitVec 5) (m1 : BitVec 4) (m2 : BitVec 2) (imm : BitVec 32) : LaneFields :=
  ⟨false, false, vd, va, vb, vc, 0, false, ty, false, false, false, m1, m2, imm⟩
/-- Scalar instructions, arithmetic to bit fields. -/
def scalarWords : List (List Word × Instr) := [
  ([0x000C4140], .sadd ⟨3, 4, 5, 0⟩),
  ([0xC00C4000, 0x80000000], .saddLong ⟨3, 4, 0, 0x80000000⟩),
  ([0x010C4141], .ssub ⟨3, 4, 5, 1⟩),
  ([0xC10C4001, 0x80000001], .ssubLong ⟨3, 4, 1, 0x80000001⟩),
  ([0x020C4142], .smul ⟨3, 4, 5, 2⟩),
  ([0xC20C4002, 0x80000002], .smulLong ⟨3, 4, 2, 0x80000002⟩),
  ([0x030C4147], .smulh ⟨3, 4, 5, 7⟩),
  ([0xC30C4007, 0x80000003], .smulhLong ⟨3, 4, 7, 0x80000003⟩),
  ([0x040C4144], .sdiv ⟨3, 4, 5, 4⟩),
  ([0xC40C4004, 0x80000004], .sdivLong ⟨3, 4, 4, 0x80000004⟩),
  ([0x050C4145], .srem ⟨3, 4, 5, 5⟩),
  ([0xC50C4005, 0x80000005], .sremLong ⟨3, 4, 5, 0x80000005⟩),
  ([0x060C4142], .sand ⟨3, 4, 5, 2⟩),
  ([0xC60C4002, 0x80000006], .sandLong ⟨3, 4, 2, 0x80000006⟩),
  ([0x070C4143], .sor ⟨3, 4, 5, 3⟩),
  ([0xC70C4003, 0x80000007], .sorLong ⟨3, 4, 3, 0x80000007⟩),
  ([0x080C4140], .sxor ⟨3, 4, 5, 0⟩),
  ([0xC80C4000, 0x80000008], .sxorLong ⟨3, 4, 0, 0x80000008⟩),
  ([0x090C4141], .snor ⟨3, 4, 5, 1⟩),
  ([0xC90C4001, 0x80000009], .snorLong ⟨3, 4, 1, 0x80000009⟩),
  ([0x0A0C4142], .sshl ⟨3, 4, 5, 2⟩),
  ([0xCA0C4002, 0x8000000A], .sshlLong ⟨3, 4, 2, 0x8000000A⟩),
  ([0x0B0C4143], .sshr ⟨3, 4, 5, 3⟩),
  ([0xCB0C4003, 0x8000000B], .sshrLong ⟨3, 4, 3, 0x8000000B⟩),
  ([0x0C0C4140], .ssra ⟨3, 4, 5, 0⟩),
  ([0xCC0C4000, 0x8000000C], .ssraLong ⟨3, 4, 0, 0x8000000C⟩),
  ([0x0D0C4145], .smin ⟨3, 4, 5, 5⟩),
  ([0xCD0C4005, 0x8000000D], .sminLong ⟨3, 4, 5, 0x8000000D⟩),
  ([0x0E0C4146], .smax ⟨3, 4, 5, 6⟩),
  ([0xCE0C4006, 0x8000000E], .smaxLong ⟨3, 4, 6, 0x8000000E⟩),
  ([0x0F0C416D], .scmp ⟨3, 4, 5, 0x2D⟩),
  ([0xCF0C402D, 0x8000000F], .scmpLong ⟨3, 4, 0x2D, 0x8000000F⟩),
  ([0x100C4140], .ssel ⟨3, 4, 5, 0⟩),
  ([0xD00C4000, 0x80000010], .sselLong ⟨3, 4, 0, 0x80000010⟩),
  ([0x110FF000], .smov ⟨3, 63, 0, 0⟩),
  ([0x12180FFD], .sli ⟨6, 0, 0xFFD⟩),
  ([0xD2180000, 0xFFFFFFFE], .sliLong ⟨6, 0, 0, 0xFFFFFFFE⟩),
  ([0xD3180000, 0x12345678], .slih ⟨6, 0, 0, 0x12345678⟩),
  ([0x140C4003], .sclz ⟨3, 4, 0, 3⟩),
  ([0x150C4001], .spopc ⟨3, 4, 0, 1⟩),
  ([0x160C4144], .sbfe ⟨3, 4, 5, 4⟩),
  ([0xD60C4004, 0x00000805], .sbfeLong ⟨3, 4, 4, 0x805⟩),
  ([0x170C4140], .sbfi ⟨3, 4, 5, 0⟩),
  ([0xD70C4000, 0x00000805], .sbfiLong ⟨3, 4, 0, 0x805⟩),
  ([0x180C4FF8], .sld ⟨3, 4, 0xFF8⟩)]
/-- Scalar instructions, memory, control and system. -/
def controlWords : List (List Word × Instr) := [
  ([0xD80C4063, 0x00000008], .sldLong ⟨3, 4, 0x63, 8⟩),
  ([0x190C4008], .sst ⟨3, 4, 8⟩),
  ([0xD90C40B6, 0xFFFFFFFF], .sstLong ⟨3, 4, 0xB6, 0xFFFFFFFF⟩),
  ([0x1A0C4010], .sldk ⟨3, 4, 0x10⟩),
  ([0xDA0C4000, 0x00000010], .sldkLong ⟨3, 4, 0, 0x10⟩),
  ([0x1B000800], .br ⟨0, 0, 0x800⟩),
  ([0xDB000000, 0x00000005], .brLong ⟨0, 0, 0, 5⟩),
  ([0x1C144FFF], .brs ⟨5, 4, 0xFFF⟩),
  ([0xDC084000, 0xFFFFFFFC], .brsLong ⟨2, 4, 0, 0xFFFFFFFC⟩),
  ([0xDD01E7FF, 0xFFFFFFF0], .brv ⟨0, 30, 0x7FF, 0xFFFFFFF0⟩),
  ([0x1E000000], .regang),
  ([0x1F1C0005], .call ⟨7, 0, 5⟩),
  ([0xDF1C0000, 0x00000005], .callLong ⟨7, 0, 0, 5⟩),
  ([0x20007000], .ret ⟨0, 7, 0, 0⟩),
  ([0x21007000], .jmpr ⟨0, 7, 0, 0⟩),
  ([0x22240FF0], .loop ⟨9, 0, 0xFF0⟩),
  ([0xE2240000, 0xFFFFFF00], .loopLong ⟨9, 0, 0, 0xFFFFFF00⟩),
  ([0x23000000], .exit),
  ([0x24000000], .nop),
  ([0x25000FFF], .trap ⟨0, 0, 0xFFF⟩),
  ([0x26000000], .tret),
  ([0x27000ABC], .brk ⟨0, 0, 0xABC⟩),
  ([0x28105000], .sysLaunch ⟨4, 5, 0⟩),
  ([0x28105001], .sysLstat ⟨4, 5, 1⟩),
  ([0x28005002], .sysAbort ⟨0, 5, 2⟩),
  ([0xE8105000, 0x0000003F], .sysLaunchLong ⟨4, 5, 0, 0x3F⟩),
  ([0xE8105001, 0x00000000], .sysLstatLong ⟨4, 5, 1, 0⟩),
  ([0xE8005002, 0x00000000], .sysAbortLong ⟨0, 5, 2, 0⟩),
  ([0x29000000], .fsw),
  ([0x2A000000], .fbar),
  ([0x2B000FFF], .fwait ⟨0, 0, 0xFFF⟩),
  ([0x2C380A02], .xacq ⟨14, 0, 0xA02⟩),
  ([0x2D00000C], .xrel ⟨0, 0, 0xC⟩),
  ([0x2E0007FF], .chkerr ⟨0, 0, 0x7FF⟩),
  ([0x2F240000], .time ⟨9, 0, 0⟩),
  ([0x30240010], .mfs ⟨9, 0, 0x10⟩),
  ([0x31009016], .mts ⟨0, 9, 0x16⟩),
  ([0x3200400F], .accsv ⟨0, 4, 0xF⟩),
  ([0xF200400F, 0xFFFFFF00], .accsvLong ⟨0, 4, 0xF, 0xFFFFFF00⟩),
  ([0x3300400F], .accrs ⟨0, 4, 0xF⟩),
  ([0xF300400F, 0xFFFFFF00], .accrsLong ⟨0, 4, 0xF, 0xFFFFFF00⟩),
  ([0x3400407F], .osv ⟨0, 4, 0x7F⟩),
  ([0xF400407F, 0xFFFFFF00], .osvLong ⟨0, 4, 0x7F, 0xFFFFFF00⟩),
  ([0x3500407F], .orst ⟨0, 4, 0x7F⟩),
  ([0xF500407F, 0xFFFFFF00], .orstLong ⟨0, 4, 0x7F, 0xFFFFFF00⟩)]
/-- Lane arithmetic and special functions. -/
def arithWords : List (List Word × Instr) := [
  ([0x40002030, 0x00002401, 0x80000001], .add (lf 4 6 0 0 18 0 1 0x80000001)),
  ([0x40081809, 0xF8002003, 0x00000000], .sub (lf 3 1 63 0 16 0 3 0)),
  ([0x40101808, 0x1000000C, 0x00000000], .mul (lf 3 1 2 0 0 3 0 0)),
  ([0x40181808, 0x10002200, 0x00000000], .mulh (lf 3 1 2 0 17 0 0 0)),
  ([0x40202008, 0x10002200, 0x00000000], .mulw (lf 4 1 2 0 17 0 0 0)),
  ([0x40281808, 0x10281200, 0x00000000], .mad (lf 3 1 2 5 9 0 0 0)),
  ([0x40301808, 0x10702A00, 0x00000000], .addx (lf 3 1 2 14 21 0 0 0)),
  ([0x40382030, 0x10082C00, 0x00000000], .subx (lf 4 6 2 1 22 0 0 0)),
  ([0x40401808, 0x10002200, 0x00000000], .div (lf 3 1 2 0 17 0 0 0)),
  ([0x40481808, 0x10002200, 0x00000000], .rem (lf 3 1 2 0 17 0 0 0)),
  ([0x40501808, 0x00002600, 0x00000000], .abs (lf 3 1 0 0 19 0 0 0)),
  ([0x40581808, 0x00000400, 0x00000000], .neg (lf 3 1 0 0 2 0 0 0)),
  ([0x40601808, 0x10000200, 0x00000000], .min (lf 3 1 2 0 1 0 0 0)),
  ([0x40681808, 0x10002200, 0x00000000], .max (lf 3 1 2 0 17 0 0 0)),
  ([0x40701808, 0x10382800, 0x00000000], .sad (lf 3 1 2 7 20 0 0 0)),
  ([0x40781808, 0x10002E00, 0x00000000], .and (lf 3 1 2 0 23 0 0 0)),
  ([0x40801808, 0x10002E00, 0x00000000], .or (lf 3 1 2 0 23 0 0 0)),
  ([0x40881808, 0x10002E00, 0x00000000], .xor (lf 3 1 2 0 23 0 0 0)),
  ([0x40901808, 0x00002E00, 0x00000000], .not (lf 3 1 0 0 23 0 0 0)),
  ([0x40982030, 0x18003000, 0x00000000], .shl (lf 4 6 3 0 24 0 0 0)),
  ([0x40A01808, 0x10002E00, 0x00000000], .shr (lf 3 1 2 0 23 0 0 0)),
  ([0x40A81808, 0x10002200, 0x00000000], .sra (lf 3 1 2 0 17 0 0 0)),
  ([0x40B01808, 0x10002E00, 0x00000000], .rot (lf 3 1 2 0 23 0 0 0)),
  ([0x40B81810, 0x00003000, 0x00000000], .clz (lf 3 2 0 0 24 0 0 0)),
  ([0x40C01808, 0x00002E00, 0x00000000], .popc (lf 3 1 0 0 23 0 0 0)),
  ([0x40C82010, 0x00003000, 0x00000000], .brev (lf 4 2 0 0 24 0 0 0)),
  ([0x40D01808, 0x10002200, 0x00000000], .bfe (lf 3 1 2 0 17 0 0 0)),
  ([0x40D81808, 0x10482E00, 0x00000000], .bfi (lf 3 1 2 9 23 0 0 0)),
  ([0x40E01808, 0x10782E00, 0x00000000], .sel (lf 3 1 2 15 23 0 0 0)),
  ([0x40E87008, 0x1000001C, 0x00000000], .cmp (lf 14 1 2 0 0 7 0 0)),
  ([0x42002030, 0x40500604, 0x00000000], .fma (lf 4 6 8 10 3 1 0 0)),
  ([0x420FE010, 0x00000608, 0x00000000], .sqrt (lf 252 2 0 0 3 2 0 0)),
  ([0x42101808, 0x00000008, 0x00000000], .rcp (lf 3 1 0 0 0 2 0 0)),
  ([0x42181808, 0x00000008, 0x00000000], .rsq (lf 3 1 0 0 0 2 0 0)),
  ([0x42201808, 0x00000008, 0x00000000], .exp2 (lf 3 1 0 0 0 2 0 0)),
  ([0x42281808, 0x00000008, 0x00000000], .log2 (lf 3 1 0 0 0 2 0 0))]
/-- Conversions, cross-lane moves, plane and memory accesses. -/
def moveWords : List (List Word × Instr) := [
  ([0x42301808, 0x00000008, 0x00000000], .sin (lf 3 1 0 0 0 2 0 0)),
  ([0x42381808, 0x00000008, 0x00000000], .cos (lf 3 1 0 0 0 2 0 0)),
  ([0x42401808, 0x00000008, 0x00000000], .tanh (lf 3 1 0 0 0 2 0 0)),
  ([0x42480828, 0x10000400, 0x00000000], .classTest (lf 1 5 2 0 2 0 0 0)),
  ([0x42501808, 0x00000008, 0x00000000], .frnd (lf 3 1 0 0 0 2 0 0)),
  ([0x42581808, 0x1000020C, 0x00000000], .fscl (lf 3 1 2 0 1 3 0 0)),
  ([0x44002008, 0x00880604, 0x00000000], .cvt (lf 4 1 0 17 3 1 0 0)),
  ([0x44081808, 0x10881210, 0x00000001], .pack (lf 3 1 2 17 9 4 0 1)),
  ([0x44101808, 0x00580400, 0x00000007], .unpk (lf 3 1 0 11 2 0 0 7)),
  ([0x44181808, 0x10101010, 0x00000000], .qnt (lf 3 1 2 2 8 4 0 0)),
  ([0x44201808, 0x4850020F, 0x00000000], .dqnt (lf 3 1 9 10 1 3 3 0)),
  ([0x45001808, 0x10002E00, 0x00000000], .shfl (lf 3 1 2 0 23 0 0 0)),
  ([0x45081808, 0x10002E00, 0x00000000], .shfx (lf 3 1 2 0 23 0 0 0)),
  ([0x45101808, 0x10002E00, 0x00000000], .shfd (lf 3 1 2 0 23 0 0 0)),
  ([0x45181808, 0x10002E00, 0x00000000], .shfu (lf 3 1 2 0 23 0 0 0)),
  ([0x45202010, 0x00003008, 0x00000000], .qx (lf 4 2 0 0 24 2 0 0)),
  ([0x45282038, 0x0000000D, 0x00000001], .vote (lf 4 7 0 0 0 3 1 1)),
  ([0x45301808, 0x00002E14, 0x00000000], .lred (lf 3 1 0 0 23 5 0 0)),
  ([0x45381808, 0x00002224, 0x00000000], .scan (lf 3 1 0 0 17 9 0 0)),
  ([0x45402010, 0x00003000, 0x00000000], .bcst (lf 4 2 0 0 24 0 0 0)),
  ([0x4549F808, 0x00002201, 0x00000005], .vext (lf 63 1 0 0 17 0 1 5)),
  ([0x455019F0, 0x08002E03, 0x00000000], .vins (lf 3 62 1 0 23 0 3 0)),
  ([0x46001800, 0x10002E00, 0x00000000], .mov (lf 3 0 2 0 23 0 0 0)),
  ([0x46082000, 0x00003001, 0xFFFF0000], .movi (lf 4 0 0 0 24 0 1 0xFFFF0000)),
  ([0x46101800, 0x00000001, 0x00000002], .movs (lf 3 0 0 0 0 0 1 2)),
  ([0x46187008, 0x10000000, 0x00000000], .pset (lf 14 1 2 0 0 0 0 0)),
  ([0x46200878, 0x10000000, 0x00000000], .pand (lf 1 15 2 0 0 0 0 0)),
  ([0x46280818, 0x10000000, 0x00000000], .por (lf 1 3 2 0 0 0 0 0)),
  ([0x46300818, 0x10000000, 0x00000000], .pxor (lf 1 3 2 0 0 0 0 0)),
  ([0x46380818, 0x00000000, 0x00000000], .pnot (lf 1 3 0 0 0 0 0 0)),
  ([0x46400818, 0x00000000, 0x00000000], .pmov (lf 1 3 0 0 0 0 0 0)),
  ([0x464F7800, 0x00000000, 0x00000000], .lid (lf 239 0 0 0 0 0 0 0)),
  ([0x46501800, 0x00000000, 0x00000000], .pxy (lf 3 0 0 0 0 0 0 0)),
  ([0x47002008, 0x00003019, 0x00000FFF], .ldp (lf 4 1 0 0 24 6 1 0xFFF)),
  ([0x47080008, 0x10002E06, 0x00000001], .stp (lf 0 1 2 0 23 1 2 1)),
  ([0x47101808, 0x00382E00, 0x8C800005], .ldw (lf 3 1 0 7 23 0 0 0x8C800005))]
/-- Atomics and synchronisation. -/
def memoryWords : List (List Word × Instr) := [
  ([0x47180008, 0x10002A00, 0x2A000FFF], .stw (lf 0 1 2 0 21 0 0 0x2A000FFF)),
  ([0x47201808, 0x00001200, 0x03FFFFFF], .lds (lf 3 1 0 0 9 0 0 0x3FFFFFF)),
  ([0x47280008, 0x10000600, 0x00000008], .sts (lf 0 1 2 0 3 0 0 8)),
  ([0x47301808, 0x00001610, 0xFFFFFFFF], .ldg (lf 3 1 0 0 11 4 0 0xFFFFFFFF)),
  ([0x47380008, 0x10000C00, 0x04000000], .stg (lf 0 1 2 0 6 0 0 0x4000000)),
  ([0x47400008, 0x00000000, 0x04000003], .prefg (lf 0 1 0 0 0 0 0 0x4000003)),
  ([0x47802008, 0x10000017, 0x08000010], .atomAdd (lf 4 1 2 0 0 5 3 0x8000010)),
  ([0x47882008, 0x10002217, 0x08000010], .atomMin (lf 4 1 2 0 17 5 3 0x8000010)),
  ([0x47902008, 0x10002C17, 0x08000010], .atomMax (lf 4 1 2 0 22 5 3 0x8000010)),
  ([0x47982008, 0x10002E17, 0x08000010], .atomAnd (lf 4 1 2 0 23 5 3 0x8000010)),
  ([0x47A02008, 0x10003017, 0x08000010], .atomOr (lf 4 1 2 0 24 5 3 0x8000010)),
  ([0x47A82008, 0x10002E17, 0x08000010], .atomXor (lf 4 1 2 0 23 5 3 0x8000010)),
  ([0x47B02008, 0x10003017, 0x08000010], .atomXchg (lf 4 1 2 0 24 5 3 0x8000010)),
  ([0x47B82008, 0x10302E17, 0x08000010], .atomCas (lf 4 1 2 6 23 5 3 0x8000010)),
  ([0x47C00008, 0x10000002, 0x08000010], .redAdd (lf 0 1 2 0 0 0 2 0x8000010)),
  ([0x47C80008, 0x10002202, 0x08000010], .redMin (lf 0 1 2 0 17 0 2 0x8000010)),
  ([0x47D00008, 0x10002C02, 0x08000010], .redMax (lf 0 1 2 0 22 0 2 0x8000010)),
  ([0x47D80008, 0x10002E02, 0x08000010], .redAnd (lf 0 1 2 0 23 0 2 0x8000010)),
  ([0x47E00008, 0x10003002, 0x08000010], .redOr (lf 0 1 2 0 24 0 2 0x8000010)),
  ([0x47E80008, 0x10002E02, 0x08000010], .redXor (lf 0 1 2 0 23 0 2 0x8000010)),
  ([0x48002008, 0x10000005, 0x00000010], .atomsAdd (lf 4 1 2 0 0 1 1 0x10)),
  ([0x48082008, 0x10002205, 0x00000010], .atomsMin (lf 4 1 2 0 17 1 1 0x10)),
  ([0x48102008, 0x10002C05, 0x00000010], .atomsMax (lf 4 1 2 0 22 1 1 0x10)),
  ([0x48182008, 0x10002E05, 0x00000010], .atomsAnd (lf 4 1 2 0 23 1 1 0x10)),
  ([0x48202008, 0x10003005, 0x00000010], .atomsOr (lf 4 1 2 0 24 1 1 0x10)),
  ([0x48282008, 0x10002E05, 0x00000010], .atomsXor (lf 4 1 2 0 23 1 1 0x10)),
  ([0x48302008, 0x10003005, 0x00000010], .atomsXchg (lf 4 1 2 0 24 1 1 0x10)),
  ([0x48382008, 0x10302E05, 0x00000010], .atomsCas (lf 4 1 2 6 23 1 1 0x10)),
  ([0x48400000, 0x0000001B, 0x00000000], .fence (lf 0 0 0 0 0 6 3 0)),
  ([0x48480000, 0x00000000, 0x00000000], .ofence (lf 0 0 0 0 0 0 0 0)),
  ([0x48502830, 0x38000000, 0x00000000], .bara (lf 5 6 7 0 0 0 0 0)),
  ([0x48580030, 0x38000000, 0x00000000], .bars (lf 0 6 7 0 0 0 0 0)),
  ([0x48600030, 0x38000000, 0x00000000], .barw (lf 0 6 7 0 0 0 0 0)),
  ([0x48680030, 0x38000000, 0x00000000], .bari (lf 0 6 7 0 0 0 0 0)),
  ([0x48700030, 0x00000014, 0x00000000], .marm (lf 0 6 0 0 0 5 0 0)),
  ([0x48782830, 0x00000014, 0x00000000], .mwait (lf 5 6 0 0 0 5 0 0))]
/-- Engine commands, ascents and extensions. -/
def engineWords : List (List Word × Instr) := [
  ([0x48800008, 0x38002E00, 0x00000000], .rwr (lf 0 1 7 0 23 0 0 0)),
  ([0x48880030, 0x00000000, 0x00000000], .await (lf 0 6 0 0 0 0 0 0)),
  ([0x48902800, 0x00000000, 0x00000000], .arrc (lf 5 0 0 0 0 0 0 0)),
  ([0x489827C0, 0x00183000, 0x00000000], .qtry (lf 4 248 0 3 24 0 0 0)),
  ([0x48A02FE0, 0x00000000, 0x00000000], .qlen (lf 5 252 0 0 0 0 0 0)),
  ([0x48A807D8, 0x00000000, 0x00000000], .qcls (lf 0 251 0 0 0 0 0 0)),
  ([0x48B79810, 0x00003000, 0x00000000], .qput (lf 243 2 0 0 24 0 0 0)),
  ([0x49001840, 0x00000000, 0x00020200], .oclm (lf 3 8 0 0 0 0 0 0x20200)),
  ([0x490803F8, 0x00000000, 0x00000040], .orel (lf 0 127 0 0 0 0 0 0x40)),
  ([0x49107BF0, 0x10200028, 0x0004003F], .mma (lf 15 126 2 4 0 10 0 0x4003F)),
  ([0x49187800, 0x00000000, 0x00000000], .azero (lf 15 0 0 0 0 0 0 0)),
  ([0x49200070, 0x38200000, 0x00001140], .drainQ (lf 0 14 7 4 0 0 0 0x1140)),
  ([0x49200070, 0x38200004, 0x00001140], .drainPl (lf 0 14 7 4 0 1 0 0x1140)),
  ([0x49200070, 0x38200008, 0x00001140], .drainScr (lf 0 14 7 4 0 2 0 0x1140)),
  ([0x49232070, 0x3820000C, 0x00001140], .drainSlot (lf 100 14 7 4 0 3 0 0x1140)),
  ([0x49200070, 0x38200010, 0x00001140], .drainGlb (lf 0 14 7 4 0 4 0 0x1140)),
  ([0x49284838, 0x00000020, 0x00001FC5], .ald (lf 9 7 0 0 0 8 0 0x1FC5)),
  ([0x49432040, 0x00000010, 0x00000FC0], .cpyIn (lf 100 8 0 0 0 4 0 0xFC0)),
  ([0x494001E0, 0x0000000C, 0x00000040], .cpyOut (lf 0 60 0 0 0 3 0 0x40)),
  ([0x49480040, 0x00000004, 0x00000040], .cpyq (lf 0 8 0 0 0 1 0 0x40)),
  ([0x49800020, 0x00000008, 0x00000000], .scrlF (lf 0 4 0 0 0 2 0 0)),
  ([0x49800020, 0x00000024, 0x00000006], .scrlM (lf 0 4 0 0 0 9 0 6)),
  ([0x49C04840, 0x00200000, 0x00000000], .wgath (lf 9 8 0 4 0 0 0 0)),
  ([0x49C80040, 0x0000000C, 0x00000000], .wpool (lf 0 8 0 0 0 3 0 0)),
  ([0x4A000028, 0x00000000, 0x00000000], .gnode (lf 0 5 0 0 0 0 0 0)),
  ([0x4A080028, 0x00000000, 0x00000000], .gsig (lf 0 5 0 0 0 0 0 0)),
  ([0x4A105828, 0x00000000, 0x00000000], .gflag (lf 11 5 0 0 0 0 0 0)),
  ([0x4B002830, 0x00000000, 0x00000000], .asco (lf 5 6 0 0 0 0 0 0)),
  ([0x4B082840, 0x00000000, 0x00000000], .ascp (lf 5 8 0 0 0 0 0 0)),
  ([0x4B102830, 0x00000000, 0x00000000], .ascl (lf 5 6 0 0 0 0 0 0)),
  ([0x4B182830, 0x00000000, 0x00000000], .ascr (lf 5 6 0 0 0 0 0 0)),
  ([0x4B200030, 0x00000000, 0x00000000], .ascf (lf 0 6 0 0 0 0 0 0)),
  ([0x4B282830, 0x00000001, 0x00000000], .ascq (lf 5 6 0 0 0 0 1 0)),
  ([0x4C001808, 0x00000004, 0x00000000], .had32 (lf 3 1 0 0 0 1 0 0)),
  ([0x4C081808, 0x1000000C, 0x0000000F], .cbq (lf 3 1 2 0 0 3 0 0xF)),
  ([0x4C100030, 0x00000000, 0x0000000F], .cbld (lf 0 6 0 0 0 0 0 0xF))]
theorem test_decode_scalarWords : ∀ e ∈ scalarWords, decode e.1 = .instr e.2 := by decide +kernel
theorem test_decode_controlWords : ∀ e ∈ controlWords, decode e.1 = .instr e.2 := by decide +kernel
theorem test_decode_arithWords : ∀ e ∈ arithWords, decode e.1 = .instr e.2 := by decide +kernel
theorem test_decode_moveWords : ∀ e ∈ moveWords, decode e.1 = .instr e.2 := by decide +kernel
theorem test_decode_memoryWords : ∀ e ∈ memoryWords, decode e.1 = .instr e.2 := by decide +kernel
theorem test_decode_engineWords : ∀ e ∈ engineWords, decode e.1 = .instr e.2 := by decide +kernel
theorem test_encode_scalarWords : ∀ e ∈ scalarWords, encode e.2 = e.1 ∧ e.2.wf = true := by decide +kernel
theorem test_encode_controlWords : ∀ e ∈ controlWords, encode e.2 = e.1 ∧ e.2.wf = true := by decide +kernel
theorem test_encode_arithWords : ∀ e ∈ arithWords, encode e.2 = e.1 ∧ e.2.wf = true := by decide +kernel
theorem test_encode_moveWords : ∀ e ∈ moveWords, encode e.2 = e.1 ∧ e.2.wf = true := by decide +kernel
theorem test_encode_memoryWords : ∀ e ∈ memoryWords, encode e.2 = e.1 ∧ e.2.wf = true := by decide +kernel
theorem test_encode_engineWords : ∀ e ∈ engineWords, encode e.2 = e.1 ∧ e.2.wf = true := by decide +kernel
theorem test_decode_header : decode [0x80043E03] = .instr (.clauseWaitTest ⟨1, 0, 15, true, 3⟩) ∧
    decode [0xBFFEFCFF] = .instr (.clauseWaitTest ⟨0xFFF, 11, 15, false, 255⟩) := by decide +kernel
/-- `@!p9 add.i32 v3, v1.lu, v2.lu` with HOP and FS' places: every field of R113 in its place. -/
theorem test_decode_marks : decode [0x60001808, 0x1004E380, 0] =
    .instr (.add ⟨true, false, 3, 1, 2, 0, 9, true, 17, true, true, false, 0, 0, 0⟩) := by decide +kernel

/-! ### Ill-formed terms, one for each check (R79, R80, R86, R114 to R120, R124, R125) -/

/-- A lane instruction with its fields changed. -/
def g (h : LaneFields → LaneFields) : LaneFields := h (lf 3 1 2 0 17 0 0 0)
/-- Each register field, operand kind, type, sub-operation, immediate and mark out of its range. -/
def illFormedLanes : List Instr := [
  .not (g (fun f => { f with ty := 23 })),                          -- VB is not used
  .add (g (fun f => { f with va := 246 })), .add (g (fun f => { f with va := 252 })),
  .add (g (fun f => { f with vd := 240 })), .add (g (fun f => { f with vd := 253 })),
  .add (g (fun f => { f with ty := 18 })), .add (g (fun f => { f with ty := 18, vd := 4 })),
  .cmp (g (fun f => { f with vd := 0 })), .cmp (g (fun f => { f with vd := 15 })),
  .sel (g (fun f => { f with ty := 23, vc := 16 })), .vote (lf 3 4 0 15 0 0 1 0), .vins (lf 3 64 0 0 23 0 1 0),
  .cpyIn (lf 0 6 0 0 0 0 0 64), .azero (lf 16 0 0 0 0 0 0 0), .orel (lf 0 128 0 0 0 0 0 64),
  .gflag (lf 12 5 0 0 0 0 0 0), .qlen (lf 5 239 0 0 0 0 0 0), .qcls (lf 0 253 0 0 0 0 0 0),
  .qput (lf 244 2 0 0 24 0 0 0), .cvt (lf 4 1 0 12 3 0 0 0),
  .add (g (fun f => { f with m2 := 2 })), .add (g (fun f => { f with m2 := 1 })),
  .add (g (fun f => { f with ty := 12 })), .mulh (g (fun f => { f with ty := 9 })),
  .add (g (fun f => { f with m1 := 1 })), .add (g (fun f => { f with ty := 0, m1 := 4 })),
  .cmp (g (fun f => { f with vd := 1, m1 := 6 })), .ldg (lf 3 1 0 0 17 7 0 0), .ldg (lf 3 1 0 0 17 0 2 0),
  .stg (lf 0 1 2 0 17 0 1 0), .drainGlb (lf 0 14 7 4 0 4 0 0), .wgath (lf 9 8 0 4 0 2 0 0),
  .add (g (fun f => { f with imm := 1 })), .ldp (lf 4 1 0 0 24 0 0 0x1000), .lds (lf 3 1 0 0 17 0 0 0x4000000),
  .ldw (lf 3 1 0 0 23 0 0 (5 * 2 ^ 29)), .ldw (lf 3 1 0 0 23 0 0 (5 * 2 ^ 23)), .ldw (lf 3 1 0 0 23 0 0 (2 ^ 12)),
  .ldw (lf 3 1 0 5 23 0 0 0), .pack (lf 3 1 2 0 9 0 0 2), .unpk (lf 3 1 0 9 0 0 0 4), .movs (lf 3 0 0 0 0 0 1 3),
  .movi (lf 3 0 0 0 23 0 1 0x10000), .mma (lf 1 2 3 4 0 0 0 1), .mma (lf 1 2 3 4 0 0 0 0x80000),
  .oclm (lf 3 127 0 0 0 0 0 128), .oclm (lf 3 0 0 0 0 0 0 0), .pand (lf 1 2 3 0 0 0 0 1), .shfu (lf 3 1 0 0 23 0 1 0x80000020),
  .add (g (fun f => { f with fs := true })), .fence { lf 0 0 0 0 0 0 3 0 with pg := 1 },
  .fence { lf 0 0 0 0 0 0 3 0 with pn := true }, .movi { lf 3 0 0 0 23 0 1 0 with lua := true },
  .add (g (fun f => { f with luc := true })), .add (g (fun f => { f with vb := 0, m2 := 1, lub := true }))]
/-- Each field of a scalar instruction or header out of its range. -/
def illFormedScalars : List Instr := [
  .sadd ⟨3, 4, 5, 8⟩, .scmp ⟨3, 4, 5, 0x30⟩, .sclz ⟨3, 4, 1, 0⟩, .spopc ⟨3, 4, 0, 4⟩, .sbfe ⟨3, 4, 5, 1⟩,
  .sbfi ⟨3, 4, 5, 4⟩, .smov ⟨3, 4, 1, 0⟩, .ssel ⟨3, 4, 5, 1⟩, .ret ⟨1, 4, 0, 0⟩, .saddLong ⟨3, 4, 0x40, 0⟩,
  .sliLong ⟨3, 0, 1, 0⟩, .slih ⟨3, 1, 0, 0⟩, .sldLong ⟨3, 4, 0x80, 0⟩, .sldLong ⟨3, 4, 0x38, 0⟩, .sldLong ⟨3, 4, 0x100, 0⟩,
  .sstLong ⟨3, 4, 0x40, 0⟩, .sstLong ⟨3, 4, 1, 0⟩, .sldkLong ⟨3, 4, 8, 0⟩, .brs ⟨6, 4, 0⟩, .brs ⟨8, 4, 0⟩, .br ⟨1, 0, 0⟩,
  .brv ⟨0, 0x20, 0, 0⟩, .fwait ⟨1, 0, 0⟩, .xacq ⟨15, 0, 1⟩, .xacq ⟨1, 0, 0⟩, .xacq ⟨1, 0, 0xB02⟩, .xacq ⟨1, 0, 0x011⟩,
  .xrel ⟨1, 0, 1⟩, .chkerr ⟨0, 0, 0x800⟩, .time ⟨1, 1, 0⟩, .sysLaunchLong ⟨1, 2, 0, 64⟩, .sysLstatLong ⟨1, 2, 1, 1⟩,
  .sysAbort ⟨1, 2, 2⟩, .accsv ⟨0, 4, 16⟩, .osv ⟨0, 4, 128⟩, .osv ⟨1, 4, 0⟩,
  .clauseWaitTest ⟨0, 12, 15, true, 1⟩, .clauseWaitTest ⟨0, 15, 14, true, 1⟩, .clauseWaitTest ⟨0, 15, 15, true, 0⟩]
theorem test_wf_refuses_lanes : ∀ i ∈ illFormedLanes, i.wf = false := by decide +kernel
theorem test_wf_refuses_scalars : ∀ i ∈ illFormedScalars, i.wf = false := by decide +kernel
theorem test_decode_refuses : ∀ i ∈ illFormedLanes ++ illFormedScalars, decode (encode i) = .illegal := by decide +kernel
/-- No word of a program is a device step. -/
theorem test_wf_refuses_steps : (Instr.coldBoot).wf = false ∧ encode .coldBoot = [] := by decide +kernel
/-- The same with a clause of one `regang` at 0x2000. -/
def withRegang (s : State) : State :=
  let h : ClauseHeader := { wait := 0, seta := 15, setb := 15, rgn := true, len := 1 }
  (s.putNum 0x2000 4 (headerBits h)).putNum 0x2004 4 ((encode .regang).headD 0).toNat
/-- The same in a handler that its gang entered. -/
def handling (cause : BitVec 8) (s : State) : State :=
  s.modCur (fun x =>
    let h : Handler := ⟨cause, s.focus.quads, x.quads, 0x1004, true⟩
    { x with handler := some h })

/-! ### Scalar instructions, control flow, traps -/

theorem test_witness_ScalarArithmetic :
    (alu (.sadd ⟨3, 4, 5, 0⟩) = some (.add, .inl ⟨3, 4, 5, 0⟩) ∧
      (operandA stand (.inl ⟨3, 4, 5, 0⟩)).poison = false ∧ (operandB stand (.inl ⟨3, 4, 5, 0⟩)).poison = false) ∧
    (alu (.smaxLong ⟨3, 4, 0x02F, 0xFFFFFFFF⟩) = some (.max, .inr ⟨3, 4, 0x02F, 0xFFFFFFFF⟩) ∧
      (operandA stand (.inr ⟨3, 4, 0x02F, 0xFFFFFFFF⟩)).poison = false) := by decide +kernel

theorem test_witness_ScalarDivisionAndMoves :
    (divides (.srem ⟨3, 4, 5, 1⟩) = some (true, .inl ⟨3, 4, 5, 1⟩) ∧
      (let s := withScalars [(4, 0x80000000), (5, 0xFFFFFFFF)] stand
       (operandA s (.inl ⟨3, 4, 5, 1⟩)).bits.setWidth 32 = BitVec.intMin 32 ∧
       (operandB s (.inl ⟨3, 4, 5, 1⟩)).bits.setWidth 32 = BitVec.allOnes 32 ∧
       (operandA s (.inl ⟨3, 4, 5, 1⟩)).poison = false ∧ s.enabledTraps &&& 8 = 0)) ∧
    (operandB stand (.inl ⟨3, 4, 5, 1⟩)).bits = 0 ∧
    (scalarValue stand (.ssel ⟨3, 4, 5, 0⟩) = some (3, [3, 4, 5], 0) ∧
      ∀ r ∈ ([3, 4, 5] : List (BitVec 6)), (stand.cur.scalar r.toNat).poison = false) := by decide +kernel

theorem test_witness_ScalarWriteBack :
    (let s := standing (fun x => x.setScalar 4 ⟨7, true⟩)
     alu (.sadd ⟨3, 4, 5, 0⟩) = some (.add, .inl ⟨3, 4, 5, 0⟩) ∧
     (operandA s (.inl ⟨3, 4, 5, 0⟩)).poison = true) ∧
    (let s := standing (fun x => x.setScalar 4 ⟨7, true⟩)
     (⟨4, 0, 0xFFF, 1⟩ : ScalarLong).sd ≠ 0 ∧ (s.cur.scalar 4).poison = true) := by decide +kernel

theorem test_witness_ControlTransfers :
    (transferOf stand (.call ⟨7, 0, 0xFFF⟩) = some (0x1000, some (7, 0x1008)) ∧
      stand.targetAt 0x1000 = .header) ∧
    (transferOf (withScalars [(4, 0x1000)] stand) (.ret ⟨0, 4, 0, 0⟩) = some (0x1000, none)) ∧
    (transferOf stand (.br ⟨0, 0, 0⟩) = some (0x1004, none) ∧ stand.targetAt 0x1004 = .notHeader) ∧
    ((withScalars [(4, 0x200000000000000)] stand).cur.scalar 4).bits.extractLsb' 57 7 ≠ 0 ∧
    (((withScalars [(4, 2)] stand).cur.scalar 4).bits.extractLsb' 57 7 = 0 ∧
      ((withScalars [(4, 2)] stand).cur.scalar 4).bits.extractLsb' 0 2 ≠ 0) ∧
    (fallsThrough stand (.brs ⟨1, 4, 0xFFF⟩) = some none ∧ (stand.cur.scalar 4).poison = false) ∧
    fallsThrough (withScalars [(5, 1)] stand) (.loop ⟨5, 0, 0xFFF⟩) = some (some (5, 0)) := by decide +kernel

/-- A gang before the `regang` of its records. -/
def arriving (members : QuadMask) (pend : LaneMask) : State :=
  quadsOf (fun y => { y with header := 0x2000, pc := 0x2004, clauseEnd := 0x2008,
                             stack := [splitAt 0x2000 members pend] })

theorem test_witness_VectorBranchAndRegang :
    ((withRegang stand).targetAt (away stand (0xFFFFFFFF : BitVec 32).toInt) = .header ∧
      (withRegang stand).regangAt (away stand (0x3FF : BitVec 12).toInt) = .header) ∧
    ((stand.cur.quad 3).stack = [] ∧ stand.cur.handler = none ∧ (stand.cur.quad 3).ended = false ∧
      (stand.cur.quad 3).wait ≠ .regang) ∧
    ((quadsOf (fun y => { y with stack := [splitAt 0x3000 0xFFFF 0] })).cur.quad 0).stack.map Recon.point
      ≠ [((quadsOf (fun y => y)).cur.quad 0).header] ∧
    (((arriving 0xFFFF 0x0F).cur.quad 0).stack = [splitAt 0x2000 0xFFFF 0x0F] ∧
      ((arriving 0xFFFF 0x0F).cur.quad 0).header = 0x2000) ∧
    (let s := arriving 0xFFFF 0
     s.cur.handler = none ∧ s.focus.quads = (splitAt 0x2000 0xFFFF 0).members ∧ s.focus.quads ≠ 0 ∧
     ∀ q, q < 16 → s.focus.quads.getLsbD q = true → (s.cur.quad q).ended = false ∧
       (s.cur.quad q).wait = .none ∧ (s.cur.quad q).header = 0x2000 ∧
       (s.cur.quad q).stack = [{ splitAt 0x2000 0xFFFF 0 with mask := BitVec.allOnes 64 }]) := by decide +kernel

theorem test_witness_ExitEnds :
    stand.isAlone 0 0 = true ∧ stand.cur.handler = none ∧ (stand.cur.quad 15).stack = [] ∧
    (handling 0x12 stand).cur.handler ≠ none ∧ (handling 0x12 stand).isAlone 0 0 = true ∧
    (∀ q, q < 16 → stand.focus.quads.getLsbD q = true → (stand.cur.quad q).stack = []) ∧
    (∀ e ∈ stand.cur.quads, stand.focus.quads.getLsbD e.1 = true ∨ e.2.ended = true) ∧
    Tab.sortedFrom none stand.cur.quads = true := by decide +kernel

/-- A launch with one entry in its trap table. -/
def trapping (cause : Nat) : State := launched (fun l => { l with traps := [(cause, 0x8000000000002000)] })

theorem handled_in_trapping : Handled (trapping 0x12) 0x12 0x2000 := by
  constructor <;> decide +kernel

theorem test_witness_TrapInstructions :
    (let s := trapping 0x11
     s.attached s.focus.core s.focus.fib = false ∧ s.cur.handler = none ∧
     (s.launchOf s.focus.core s.cur.block).map (fun l => Tab.get 0 l.traps 0x11) = some 0x8000000000002000 ∧
     (0x8000000000002000 : DWord).getLsbD 63 = true) ∧
    (stand.curLaunch.map (fun l => (Tab.get 0 l.traps 0x11).getLsbD 63) = some false ∧
      stand.attached 0 0 = false) := by decide +kernel

theorem test_witness_TrapEntryAndReturn :
    Handled (trapping 0x12) 0x12 0x2000 ∧ (handling 0x12 stand).cur.handler ≠ none ∧
    ((stand.launchOf 0 stand.cur.block).bind (fun l => l.handlerFor 0x12) = none ∧
      stand.attached 0 0 = false) ∧
    (let s := handling 0x12 stand
     s.cur.handler.map Handler.quads = some s.focus.quads ∧
     (∀ q, q < 16 → (s.cur.quad q).ended = false) ∧
     s.cur.handler.map (fun h => (Tab.get Quad.off h.saved 0).ended) = some false) :=
  ⟨handled_in_trapping, by decide +kernel⟩

/-- A slot of two fibres, of which the other one is running. -/
def twoFibres : State :=
  stand.modCore 0 (fun k => (k.setFibre 1 { k.fibre 0 with index := 1 }).setBlock 0 { k.block 0 with fibres := 2 })

theorem test_witness_FibreControlAndSlotBarrier :
    (fibreControl stand .nop).isSome ∧ (fibreControl stand (.fwait ⟨0, 0, 0xFFF⟩)).isSome ∧
    (fibreControl stand .fsw).isSome ∧ (fibreControl stand (.chkerr ⟨0, 0, 0x7FF⟩)).isSome ∧
    (let s := standing (fun x => x.orChki 0x2)
     s.cur.lq.q12 = [] ∧ s.cur.sys.chki &&& (0x7FF : BitVec 12).setWidth 32 ≠ 0) ∧
    (twoFibres.cur.run = .running ∧ twoFibres.cur.handler = none ∧
      ∃ f ∈ [1, 2, 3], (twoFibres.curCore.fibre f).run = .running ∧
        (twoFibres.curCore.fibre f).fbarArrived = false) ∧
    ((∀ f ∈ [1, 2, 3], (stand.curCore.fibre f).run = .exited) ∧ stand.curSlotNo = 0) := by decide +kernel

theorem test_witness_SpecialRegisters :
    (selectorValue stand 0x000).isSome ∧ (selectorValue stand 0x01E).isSome ∧ stand.isAlone 0 0 = true ∧
    (stand.cur.lq.q12 = [] ∧ (stand.cur.scalar 4).poison = false) := by decide +kernel

theorem test_witness_ExtendedUnits :
    (let imm : BitVec 12 := 0x00C
     1 ≤ (imm.extractLsb' 0 4).toNat ∧ (imm.extractLsb' 0 4).toNat ≤ 12 ∧
     (imm.extractLsb' 8 4).toNat + (imm.extractLsb' 0 4).toNat ≤ 12 ∧
     unitsOf imm &&& stand.curBlock.windowUnits = 0 ∧ stand.cur.regs.units &&& unitsOf imm = 0 ∧
     (imm.extractLsb' 0 4).toNat ≤ stand.curCore.freeUnits) ∧
    (let s := standing (fun x => { x with regs := { x.regs with units := 0x7 } })
     s.cur.regs.units &&& unitsOf 0x002 = unitsOf 0x002) ∧
    (let s := blocked (fun b => { b with winBase := 1, winCnt := 1 })
     unitsOf 0x102 &&& s.curBlock.windowUnits ≠ 0) := by decide +kernel

/-! ### Lane instructions -/

/-- `LaneReady` as a check. -/
def laneReady (s : State) (f : LaneFields) (sh : Shape) : Bool :=
  s.holdsFields f sh && decide (taking s f ≠ 0) &&
  (!(sh.kind && decide (f.m2 = 3)) || !(s.cur.scalar (f.vb.toNat % 64)).poison) &&
  (!sh.long || !s.flagFull f.fs) && decide (s.queueCheck f sh = .go) && decide (s.popTrap f sh = 0)

theorem laneReady_sound {s : State} {f : LaneFields} {sh : Shape} (h : laneReady s f sh = true) :
    LaneReady s f sh := by
  simp only [laneReady, Bool.and_eq_true, Bool.or_eq_true, Bool.not_eq_true', decide_eq_true_eq,
    Bool.and_eq_false_iff, decide_eq_false_iff_not] at h
  obtain ⟨⟨⟨⟨⟨h1, h2⟩, h3⟩, h4⟩, h5⟩, h6⟩ := h
  refine ⟨h1, h2, fun a b => ?_, fun a => ?_, h5, h6⟩
  · rcases h3 with (h3 | h3) | h3
    · simp [a] at h3
    · exact absurd b h3
    · exact h3
  · rcases h4 with h4 | h4
    · simp [a] at h4
    · exact h4

/-- `AccessReady` as a check. -/
def accessReady (s : State) (f : LaneFields) (sh : Shape) : Bool :=
  s.holdsFields f sh && decide (taking s f ≠ 0) && (!sh.long || !s.flagFull f.fs) &&
  decide (s.queueCheck f sh = .go) && decide (s.popTrap f sh = 0)

theorem accessReady_sound {s : State} {f : LaneFields} {sh : Shape} (h : accessReady s f sh = true) :
    AccessReady s f sh := by
  simp only [accessReady, Bool.and_eq_true, Bool.or_eq_true, Bool.not_eq_true', decide_eq_true_eq] at h
  obtain ⟨⟨⟨⟨h1, h2⟩, h4⟩, h5⟩, h6⟩ := h
  refine ⟨h1, h2, fun a => ?_, h5, h6⟩
  rcases h4 with h4 | h4
  · simp [a] at h4
  · exact h4

/-- A well-formed lane instruction with its form, ready in `stand`. -/
def ReadyAt (s : State) (i : Instr) (op : Nat) (f : LaneFields) (sh : Shape) : Prop :=
  i.form = .lane op f sh ∧ i.wf = true ∧ LaneReady s f sh

theorem readyAt {s : State} {i : Instr} {op : Nat} {f : LaneFields} {sh : Shape}
    (h : i.form = .lane op f sh ∧ i.wf = true ∧ laneReady s f sh = true) : ReadyAt s i op f sh :=
  ⟨h.1, h.2.1, laneReady_sound h.2.2⟩

/-- Poison in one source lane. -/
def poisonedLane : State := standing (fun x => { x with regs := { x.regs with v := [(64 * 2 + 5, ⟨9, true⟩)] } })
/-- A shuffle by an immediate, a vote, moves of one lane. -/
def immLane (ty : BitVec 5) (imm : BitVec 32) : LaneFields := { lane ty with m2 := 1, vb := 0, imm := imm }
/-- A conversion from the type that VC names. -/
def fromType (ty : BitVec 5) (vc : BitVec 8) : LaneFields := { lane ty with vb := 0, vc := vc }

theorem test_witness_LaneInteger :
    ReadyAt poisonedLane (.add (lane 17)) 0x000 (lane 17) (Shape.arithF (lane 17)) ∧
    (laneInteger (.add (lane 17)) 17).isSome ∧ poisoned poisonedLane (lane 17) (Shape.arithF (lane 17)) = 32 :=
  ⟨readyAt (by decide +kernel), rfl, by decide +kernel⟩

theorem test_witness_LaneDivisionCarryAndChoice :
    (∃ op sh, ReadyAt stand (.div (lane 17)) op (lane 17) sh) ∧
    (∃ op sh, ReadyAt stand (.addx { lane 21 with vc := 3 }) op { lane 21 with vc := 3 } sh) ∧
    (∃ op sh, ReadyAt stand (.sel { lane 23 with vc := 3 }) op { lane 23 with vc := 3 } sh) ∧
    (∃ op sh, ReadyAt stand (.cmp (lane 17)) op (lane 17) sh ∧ 4 ≤ (lane 17).ty.toNat) ∧
    (∃ op sh, ReadyAt stand (.cmp (lane 0)) op (lane 0) sh ∧ (lane 0).ty.toNat < 4) ∧
    (∃ op sh, ReadyAt stand (.classTest (lane 0)) op (lane 0) sh) :=
  ⟨⟨_, _, rfl, by decide +kernel, laneReady_sound (by decide +kernel)⟩,
   ⟨_, _, rfl, by decide +kernel, laneReady_sound (by decide +kernel)⟩,
   ⟨_, _, rfl, by decide +kernel, laneReady_sound (by decide +kernel)⟩,
   ⟨_, _, ⟨rfl, by decide +kernel, laneReady_sound (by decide +kernel)⟩, by decide⟩,
   ⟨_, _, ⟨rfl, by decide +kernel, laneReady_sound (by decide +kernel)⟩, by decide⟩,
   ⟨_, _, rfl, by decide +kernel, laneReady_sound (by decide +kernel)⟩⟩

/-- A special function pushed to its queue, and a queue that holds one. -/
def toSfu : LaneFields := { lane 0 with vd := 252, vb := 0 }
def sfuFull : State :=
  standing (fun x => { x with lq := { x.lq with q12 := [⟨0x0A1, 0, 0, [], BitVec.allOnes 64, some 3⟩] } })

theorem test_witness_LaneFloatAndSpecialFunctions :
    (∃ op sh, ReadyAt stand (.add (lane 0)) op (lane 0) sh ∧ (lane 0).vd ≠ 252 ∧
      (laneFloat (.add (lane 0)) 0 0).isSome) ∧
    ((Instr.fscl (lane 0)).wf = true ∧ LaneReady stand (lane 0) (Shape.fscl (lane 0))) ∧
    (∃ op sh, ReadyAt stand (.exp2 toSfu) op toSfu sh ∧ toSfu.vd = 252 ∧
      (laneFloat (.exp2 toSfu) 0 0).isSome ∧ poisoned stand toSfu sh = 0) ∧
    ((sfuFull.fibre 0 0).lq.q12.length = 1 ∧ (sfuFull.fibre 0 0).lq.sfuHeld = none ∧
      (sfuFull.fibre 0 0).lq.q13.length < 16) :=
  ⟨⟨_, _, ⟨rfl, by decide +kernel, laneReady_sound (by decide +kernel)⟩, by decide, rfl⟩,
   ⟨by decide +kernel, laneReady_sound (by decide +kernel)⟩,
   ⟨_, _, ⟨rfl, by decide +kernel, laneReady_sound (by decide +kernel)⟩, by decide, rfl, by decide +kernel⟩,
   by decide +kernel⟩

theorem test_witness_LaneConversion :
    (∃ op sh, ReadyAt stand (.cvt (fromType 1 0)) op (fromType 1 0) sh ∧
      ∀ l, l < 64 → laneConverted stand (.cvt (fromType 1 0)) (fromType 1 0) sh l ≠ none) ∧
    (let f : LaneFields := { lane 4 with imm := 1 }
     (Instr.pack f).wf = true ∧ LaneReady stand f (Shape.pack f)) ∧
    (let f : LaneFields := { lane 0 with imm := 15 }
     (Instr.cbq f).wf = true ∧ LaneReady stand f (Shape.cbq f)) ∧
    (let f : LaneFields := { lane 0 with vb := 0 }
     (Instr.had32 f).wf = true ∧ LaneReady stand f Shape.had32) :=
  ⟨⟨_, _, ⟨rfl, by decide +kernel, laneReady_sound (by decide +kernel)⟩, by decide +kernel⟩,
   ⟨by decide +kernel, laneReady_sound (by decide +kernel)⟩,
   ⟨by decide +kernel, laneReady_sound (by decide +kernel)⟩,
   ⟨by decide +kernel, laneReady_sound (by decide +kernel)⟩⟩

theorem test_witness_CrossLaneMoves :
    ∃ op sh, ReadyAt poisonedLane (.shfx (immLane 23 1)) op (immLane 23 1) sh ∧
      crossMove (.shfx (immLane 23 1)) = true :=
  ⟨_, _, ⟨rfl, by decide +kernel, laneReady_sound (by decide +kernel)⟩, rfl⟩

theorem test_witness_VotesReductionsScans :
    (let f : LaneFields := { immLane 0 0xFFFFFFFF with va := 3, vc := 5 }
     (Instr.vote f).wf = true ∧ LaneReady stand f (Shape.vote f)) ∧
    (let f : LaneFields := { lane 17 with vb := 0 }
     (Instr.lred f).wf = true ∧ LaneReady poisonedLane f (Shape.reduce false f)) ∧
    (let f : LaneFields := { lane 17 with vb := 0, m1 := 8 }
     (Instr.scan f).wf = true ∧ LaneReady stand f (Shape.reduce true f)) :=
  ⟨⟨by decide +kernel, laneReady_sound (by decide +kernel)⟩,
   ⟨by decide +kernel, laneReady_sound (by decide +kernel)⟩,
   ⟨by decide +kernel, laneReady_sound (by decide +kernel)⟩⟩

theorem test_witness_LaneRegisterMoves :
    (let f := immLane 23 63
     (Instr.vext f).wf = true ∧ LaneReady stand f (Shape.vext f)) ∧
    (let f := immLane 23 64
     (Instr.vins f).wf = true ∧ LaneReady stand f (Shape.vins f) ∧ (stand.cur.scalar 2).poison = false) ∧
    (let f : LaneFields := { lane 0 with va := 0, vb := 0 }
     ∃ op sh, ReadyAt stand (.lid f) op f sh ∧ ∀ l, l < 64 → laneMoved stand (.lid f) f sh l ≠ none) ∧
    (let f : LaneFields := { lane 23 with va := 0 }
     (Instr.mov f).wf = true ∧ LaneReady stand f (Shape.mov f)) ∧
    (let f : LaneFields := { immLane 23 0xFFFF with va := 0 }
     (Instr.movi f).wf = true ∧ LaneReady stand f (Shape.movi f)) ∧
    (let f : LaneFields := { immLane 24 0xFFFFFFFF with va := 0, vd := 2 }
     (Instr.movi f).wf = true ∧ LaneReady stand f (Shape.movi f) ∧ f.vd.toNat < 240) ∧
    (let f : LaneFields := { immLane 24 1 with va := 0, vd := 248 }
     (Instr.movi f).wf = true ∧ LaneReady stand f (Shape.movi f) ∧ 240 ≤ f.vd.toNat) :=
  ⟨⟨by decide +kernel, laneReady_sound (by decide +kernel)⟩,
   ⟨by decide +kernel, laneReady_sound (by decide +kernel), by decide +kernel⟩,
   ⟨_, _, ⟨rfl, by decide +kernel, laneReady_sound (by decide +kernel)⟩, by decide +kernel⟩,
   ⟨by decide +kernel, laneReady_sound (by decide +kernel)⟩,
   ⟨by decide +kernel, laneReady_sound (by decide +kernel)⟩,
   ⟨by decide +kernel, laneReady_sound (by decide +kernel), by decide⟩,
   ⟨by decide +kernel, laneReady_sound (by decide +kernel), by decide⟩⟩

theorem test_witness_LaneWriteBack :
    (Instr.add (lane 17)).form = .lane 0x000 (lane 17) (Shape.arithF (lane 17)) ∧ (Instr.add (lane 17)).wf = true ∧
    popsOf (Shape.arithF (lane 17)) (lane 17) = [] ∧
    ∀ r, stand.curCore.regs.laneTarget stand.focus.fib r = none :=
  ⟨rfl, by decide +kernel, by decide +kernel, fun _ => rfl⟩

/-! ### Memory instructions -/

/-- A launch of depth 4 with a buffer record of 4,096 bytes at 0x4000, and 4 times its number in each lane
of v2. -/
def data : State :=
  let rec1 : Nat := 0x4000 + 2 ^ 61 + 2 ^ 63 + 4096 * 2 ^ 64 + 17 * 2 ^ 112 + 17 * 2 ^ 117
  let s := launched (fun l =>
    { l with params := [0x1000, 0x400010001, 0x10000000001, 0, 0, 0xF0000], bufrecs := [(1, BitVec.ofNat 320 rec1)] })
  s.modCur (fun x =>
    { x with regs := { x.regs with v := (List.range 63).map (fun l =>
      (64 * 2 + l + 1, (⟨BitVec.ofNat 32 (4 * (l + 1)), false⟩ : PW))) } })
/-- An access by v2, of 32 bits, through record 1 for global memory. -/
def loads (imm : BitVec 32) : LaneFields := { lane 17 with vb := 0, imm := imm }
def stores (imm : BitVec 32) : LaneFields := { lane 17 with vd := 0, imm := imm }
/-- An access of the plane by v4, which holds 0. -/
def planeLoad : LaneFields := { lane 24 with vb := 0, va := 4, vd := 2, imm := 2 }
def planeStore : LaneFields := { lane 24 with vd := 0, va := 4, vb := 6, imm := 2 }
/-- A window access to the right neighbour, zero outside. -/
def windowLoad : LaneFields := { lane 17 with vb := 0, va := 4, imm := 3 * 2 ^ 29 + 2 * 2 ^ 26 }
def windowStore : LaneFields := { lane 17 with vd := 0, va := 4, imm := 3 * 2 ^ 29 + 2 * 2 ^ 26 }

theorem test_witness_PlaneAccess :
    ((Instr.ldp planeLoad).wf = true ∧ AccessReady data planeLoad (Shape.ldp planeLoad) ∧
      ∀ l, l < 64 → (taking data planeLoad).getLsbD l = true →
        depthOf planeLoad (addrAt data planeLoad (Shape.ldp planeLoad) l) + 2 ≤ data.curDepth) ∧
    ((Instr.stp planeStore).wf = true ∧ AccessReady data planeStore (Shape.stp planeStore) ∧
      data.curBlock.pdepth + data.curDepth ≤ 4096 ∧
      ∀ l, l < 64 → (taking data planeStore).getLsbD l = true →
        depthOf planeStore (addrAt data planeStore (Shape.stp planeStore) l) + 2 ≤ data.curDepth) :=
  ⟨⟨by decide +kernel, accessReady_sound (by decide +kernel), by decide +kernel⟩,
   ⟨by decide +kernel, accessReady_sound (by decide +kernel), by decide +kernel, by decide +kernel⟩⟩

theorem test_witness_LocalAccess_window :
    ((Instr.ldw windowLoad).wf = true ∧ AccessReady data windowLoad (Shape.ldw windowLoad) ∧
      ∀ l, l < 64 → depthOf windowLoad (addrAt data windowLoad (Shape.ldw windowLoad) l) < data.curDepth ∧
        data.windowTarget 0 l 1 0 ≠ .away) ∧
    ((Instr.stw windowStore).wf = true ∧ AccessReady data windowStore (Shape.stw windowStore) ∧
      (∀ l, l < 64 → depthOf windowStore (addrAt data windowStore (Shape.stw windowStore) l) < data.curDepth ∧
        data.windowTarget 0 l 1 0 ≠ .away) ∧ data.windowTarget 0 0 1 0 = .cell 0 1 0 ∧
      ∀ m, m < 64 → m ≠ 0 → data.windowTarget 0 m 1 0 ≠ .cell 0 1 0) :=
  ⟨⟨by decide +kernel, accessReady_sound (by decide +kernel), by decide +kernel⟩,
   ⟨by decide +kernel, accessReady_sound (by decide +kernel), by decide +kernel, by decide +kernel,
    by decide +kernel⟩⟩

/-- `ScratchOk` is decided by its four parts. -/
theorem scratchOk_all {s : State} {f : LaneFields} {size : Nat} {write : Bool} {sh : Shape}
    (h : ∀ l, l < 64 → (0 ≤ offsetOf f (addrAt s f sh l) ∧
      offsetOf f (addrAt s f sh l) + size ≤ s.curScratch ∧ offsetOf f (addrAt s f sh l) % size = 0) ∧
      ((s.curCore.barrier s.curBlock.scrb ((offsetOf f (addrAt s f sh l)).toNat / 16)).armed = false ∨
        256 ≤ offsetOf f (addrAt s f sh l))) :
    ∀ l, l < 64 → ScratchOk s f size write (addrAt s f sh l) := fun l hl =>
  ⟨(h l hl).1.1, (h l hl).1.2.1, (h l hl).1.2.2, fun _ => (h l hl).2⟩

theorem test_witness_LocalAccess_scratch :
    ((Instr.lds (loads 0)).wf = true ∧ AccessReady data (loads 0) (Shape.lds (loads 0)) ∧
      ∀ l, l < 64 → ScratchOk data (loads 0) 4 false (addrAt data (loads 0) (Shape.lds (loads 0)) l)) ∧
    ((Instr.sts (stores 0)).wf = true ∧ AccessReady data (stores 0) (Shape.sts (stores 0)) ∧
      data.curBlock.scrb + data.scratchRows 0 0 ≤ 4096 ∧
      (∀ l, l < 64 → ScratchOk data (stores 0) 4 true (addrAt data (stores 0) (Shape.sts (stores 0)) l)) ∧
      Stores data (BitVec.allOnes 64) 63 ∧
      ∀ m, m < 64 → m ≠ 63 → ¬Meets (4 * 63 / 4) 1
        ((offsetOf (stores 0) (addrAt data (stores 0) (Shape.sts (stores 0)) m)).toNat / 4) 1) :=
  ⟨⟨by decide +kernel, accessReady_sound (by decide +kernel), scratchOk_all (by decide +kernel)⟩,
   ⟨by decide +kernel, accessReady_sound (by decide +kernel), by decide +kernel,
    scratchOk_all (by decide +kernel), by decide +kernel, by unfold Meets; decide +kernel⟩⟩

/-- An answer is checked by its value. -/
theorem ok_of {ε α : Type} {e : Except ε α} {a : α} (h : e.toOption = some a) : e = .ok a := by
  cases e <;> simp_all [Except.toOption]
theorem ok_all {ε α : Type} {g : Nat → Except ε α} {a : Nat → α}
    (h : ∀ l, l < 64 → (g l).toOption = some (a l)) : ∀ l, l < 64 → g l = .ok (a l) :=
  fun l hl => ok_of (h l hl)

/-- The accesses of `data` through its record: lane l at 0x4000 + 4 l. -/
def accOf (l : Nat) : LaneAccess := ⟨0x4000 + 4 * l, 4, 0, 32, none⟩
def pieceOf (l : Nat) : Piece := ⟨0x4000 + 4 * l, 4, false⟩

theorem test_witness_GlobalLoad :
    let f := loads 0x4000000
    (Instr.ldg f).wf = true ∧ AccessReady data f (Shape.ldg f) ∧ data.isAlone 0 0 = true ∧
    data.attached 0 0 = false ∧
    (∀ l, l < 64 → globalAccess (data.record (f.imm.extractLsb' 26 6).toNat) f false
      (addrAt data f (Shape.ldg f) l) = .ok (accOf l)) ∧
    (∀ l, l < 64 → data.range 0 (data.ctxOf 0 0) .load (accOf l).va 4 = .ok [pieceOf l]) ∧
    (let g : LaneFields := { loads 0 with vd := 0, ty := 0 }
     (Instr.prefg g).wf = true ∧ AccessReady data g Shape.prefg) :=
  ⟨by decide +kernel, accessReady_sound (by decide +kernel), by decide +kernel, by decide +kernel,
   ok_all (by decide +kernel), ok_all (by decide +kernel), by decide +kernel, accessReady_sound (by decide +kernel)⟩

theorem test_witness_GlobalStore :
    let f := stores 0x4000000
    (Instr.stg f).wf = true ∧ AccessReady data f (Shape.stg f) ∧ data.isAlone 0 0 = true ∧
    (∀ l, l < 64 → globalAccess (data.record 1) f true (addrAt data f (Shape.stg f) l) = .ok (accOf l)) ∧
    (∀ l, l < 64 → data.range 0 (data.ctxOf 0 0) .store (accOf l).va 4 = .ok [pieceOf l]) ∧
    (accOf 63).w = 8 * (accOf 63).n ∧
    ∀ m, m < 64 → m ≠ 63 → ¬((pieceOf 63).addr < (pieceOf m).addr + 4 ∧ (pieceOf m).addr < (pieceOf 63).addr + 4) :=
  ⟨by decide +kernel, accessReady_sound (by decide +kernel), by decide +kernel, ok_all (by decide +kernel),
   ok_all (by decide +kernel), by decide +kernel, by decide +kernel⟩

/-- An atomic on the words of `data`. -/
def adds : LaneFields := { stores 0x4000000 with vd := 1 }

theorem test_witness_GlobalAtomics :
    ∃ op sh, (Instr.atomAdd adds).form = .lane op adds sh ∧ (Instr.atomAdd adds).wf = true ∧
      atomicOf (.atomAdd adds) = some (0, false) ∧ AccessReady data adds sh ∧ data.isAlone 0 0 = true ∧
      (let r := data.record 1
       recRaw r = true ∧ (recEnc r < 12 ∨ 15 < recEnc r) ∧ recBadFormat r = false ∧ recDenied r true = false) ∧
      (∀ l, l < 64 → rawAccess (data.record 1) 4 (((addrAt data adds sh l).bits.setWidth 32).toNat +
        (adds.imm.extractLsb' 0 26).toInt) = .ok (accOf l)) ∧
      (∀ l, l < 64 → data.range 0 (data.ctxOf 0 0) .store (accOf l).va 4 = .ok [pieceOf l]) ∧
      (∀ c, c < 784 → (data.core c).regs.armed 2 = false) :=
  ⟨_, _, rfl, by decide +kernel, rfl, accessReady_sound (by decide +kernel), by decide +kernel, by decide +kernel,
   ok_all (by decide +kernel), ok_all (by decide +kernel), by decide +kernel⟩

theorem test_witness_ScalarMemory :
    let s := withScalars [(4, 0x5000)] stand
    ((scalarAccess (.sldLong ⟨3, 4, 0x05A, 4⟩)).map (fun x => (x.load, x.off, x.w)) = some (true, 4, 32) ∧
      (s.cur.scalar 4).poison = false ∧ s.flagFull false = false ∧ s.isAlone 0 0 = true ∧ s.attached 0 0 = false ∧
      s.dropsAcquireOf 0 0 3 [⟨0x5004, 4, false⟩] = false) ∧
    s.range 0 (s.ctxOf 0 0) .load 0x5004 4 = .ok [⟨0x5004, 4, false⟩] ∧
    (scalarAccess (.sst ⟨3, 4, 0x8⟩)).map (fun x => (x.load, x.w)) = some (false, 64) ∧
    s.range 0 (s.ctxOf 0 0) .store 0x5008 8 = .ok [⟨0x5008, 8, false⟩] ∧
    (((withScalars [(4, 0x200000000000000)] stand).cur.scalar 4).bits + 0).extractLsb' 57 7 ≠ 0 ∧
    ((s.cur.scalar 4).bits + 1).toNat % 8 ≠ 0 :=
  ⟨by decide +kernel, ok_of (by decide +kernel), by decide +kernel, ok_of (by decide +kernel), by decide +kernel,
   by decide +kernel⟩

theorem test_witness_MemoryReadsBack :
    stand.mem.wf = true ∧ ([0x55, 0xAA] : List (BitVec 8))[1]? = some 0xAA := by decide +kernel

/-! ### Synchronisation, queues, engines -/

/-- A row of `q4` for slot 3, which the block claims. -/
def pushedRow : State :=
  (standing (fun x => { x with lq := { x.lq with q4 := [⟨3, 63, []⟩] } })).modCore 0
    (fun k => k.modMem (fun m => { m with claims := [(3, 1)] }))
/-- Barrier 15 with one arrival of two. -/
def armedBarrier (s : State) : State := s.setCurBarrier 15 ⟨0, false, 1, 2⟩
/-- A barrier instruction: s2 names barrier 15, s3 the value. -/
def onBarrier (v : DWord) (s : State) : State := withScalars [(2, 15), (3, v)] s
def barF : LaneFields := lane 0
/-- A fibre whose quads wait for its monitor. -/
def monitoring (m : Monitor) : State :=
  standing (fun x => { x with monitor := some m,
                              quads := x.quads.map (fun e => (e.1, { e.2 with wait := .mwait 1 5 0 })) })

theorem test_witness_FencesBarriersMonitors :
    ((pushedRow.fibre 0 0).lq.q4 = [⟨3, 63, []⟩] ∧
      Tab.get 0 (pushedRow.core 0).mem.claims 3 = (pushedRow.fibre 0 0).block + 1) ∧
    (stand.curCore.presentCells ≠ [] ∧ stand.curBlock.scrb + 64 ≤ 4096) ∧
    (let s := onBarrier 2 (armedBarrier stand)
     (s.cur.scalar barF.va.toNat).bits.toNat % 16 = 15 ∧ s.curCore.barrierLost s.curBlock.scrb 15 = false ∧
     (arrived (s.curBarrier 15) 2).phase ≠ (s.curBarrier 15).phase) ∧
    (let s := onBarrier 2 stand
     (arrived (s.curBarrier 15) 2).phase = (s.curBarrier 15).phase ∧ (s.curBarrier 15).arrived = 0 ∧
     (s.curBarrier 15).waiters = 0 ∧ s.curBlock.slots * s.curBlock.fibres < 128) ∧
    (let s := onBarrier 1 stand
     (s.curBarrier 15).phase ≠ (s.cur.scalar 3).bits.getLsbD 0) ∧
    (let s := onBarrier 0 stand
     (s.curBarrier 15).phase = (s.cur.scalar 3).bits.getLsbD 0) ∧
    (onBarrier 2 (armedBarrier stand)).curBarrier 15 = ⟨0, false, 1, 2⟩ ∧
    (stand.isAlone 0 0 = true ∧ (stand.cur.scalar 2).bits.extractLsb' 57 7 = 0) ∧
    ((withScalars [(2, 0x200000000000000)] stand).cur.scalar 2).bits.extractLsb' 57 7 ≠ 0 ∧
    stand.cur.monitor = none ∧
    (let s := monitoring ⟨1, 3, true, false⟩
     (s.fibre 0 0).mwaiting = some (1, 5, 0) ∧ (s.fibre 0 0).monitor = some ⟨1, 3, true, false⟩) ∧
    (let s := monitoring ⟨1, 3, false, false⟩
     s.cur.monitor = some ⟨1, 3, false, false⟩ ∧ 5 ≤ ({ s with time := 5 } : State).time.toNat - 0) := by
  decide +kernel

theorem test_witness_FencesBarriersMonitors_translates :
    (stand.translate 0 (stand.ctxOf 0 0) 0 .load).toOption.isSome = true := by decide +kernel

/-- A remote write to the fibre itself, on a launch with a plane; the fibre holds unit 11. -/
def remote : State := data.modCur (fun x => { x with regs := { x.regs with units := 0x800 } })
def flying : State :=
  { remote with rwrs := [⟨(0, 0), 0, 1, 0, 0, 0, 0, 224, BitVec.allOnes 64, []⟩] }
def rwrF : LaneFields := { lane 23 with vd := 0, vb := 0 }

theorem test_witness_RemoteWrites :
    ((Instr.rwr rwrF).wf = true ∧ AccessReady remote rwrF Shape.rwr ∧
      (killing remote 0).checkRwr (remote.cur.scalar 0).bits = .ok) ∧
    (flying.planeCore 0 1 0 0 = some (0, 0) ∧ (flying.core 0).fibreAt 0 0 0 = some 0 ∧
      ∀ k, (flying.core 0).regs.laneTarget 0 k = none) ∧
    (0 ≤ stand.cur.sys.arrivals.toNat ∧ stand.cur.sys.arrivals.toNat < (0xFFFF : BitVec 16).toNat) :=
  ⟨⟨by decide +kernel, accessReady_sound (by decide +kernel), by decide +kernel⟩,
   ⟨by decide +kernel, by decide +kernel, fun _ => rfl⟩, by decide +kernel⟩

/-- An entry in `q8` of the slot. -/
def queued : State :=
  stand.setSlot 0 0 { (stand.slot 0 0) with queues := [(8, [[⟨7, false⟩]])] }
/-- Slots 0 to 7 and the tiles belong to the block. -/
def claiming : State :=
  (blocked (fun b => { b with acc := true })).modCore 0
    (fun k => k.modMem (fun m => { m with claims := (List.range 8).map (fun n => (n, 1)) }))
/-- The record of an `azero` of tile 3 in v2 and v3. -/
def azeroRecord : DWord := BitVec.ofNat 64 (0x123 * 2 ^ 55 + 3 * 2 ^ 43)
def recording : State :=
  let words : Tab PW := (List.range 64).map (fun l => (64 * 2 + l, ⟨azeroRecord.setWidth 32, false⟩)) ++
    (List.range 64).map (fun l => (64 * 3 + l, ⟨azeroRecord.extractLsb' 32 32, false⟩))
  claiming.modCur (fun x => { x with regs := { x.regs with v := words } })
def qputF : LaneFields := { lane 24 with vd := 240, va := 2, vb := 0 }
def popF : LaneFields := { lane 17 with va := 248 }

theorem test_witness_QueuesAndStops :
    ((Instr.add { lane 17 with va := 60 }).wf = true ∧
      stand.holdsFields { lane 17 with va := 60 } (Shape.arithF { lane 17 with va := 60 }) = false) ∧
    (let f := { lane 17 with pn := true }
     stand.holdsFields f (Shape.arithF f) = true ∧ taking stand f = 0) ∧
    ((Instr.add popF).wf = true ∧ stand.holdsFields popF (Shape.arithF popF) = true ∧ taking stand popF ≠ 0 ∧
      stand.queueCheck popF (Shape.arithF popF) ≠ .go) ∧
    (Tab.get [] (queued.slot 0 queued.curSlotNo).queues 8 = [[⟨7, false⟩]]) ∧
    (let f : LaneFields := { lane 23 with va := 248, vb := 0, vc := 3 }
     (Instr.qtry f).wf = true ∧ stand.holdsFields f (Shape.qtry f) = true ∧ taking stand f ≠ 0 ∧
     stand.queueLength 8 = 0 ∧ queued.queueLength 8 ≠ 0 ∧ f.vd.toNat < 240) ∧
    240 ≤ (253 : BitVec 8).toNat ∧ 248 ≤ (251 : BitVec 8).toNat := by decide +kernel

/-- `EngineReady` by its ten parts, in order. -/
theorem test_witness_QueuesAndStops_qput :
    (Instr.qput qputF).wf = true ∧ AccessReady recording qputF { Shape.qput with vd := .zero } ∧
    addressPoison recording qputF Shape.qput = 0 ∧
    ((lanesIn (taking recording qputF)).head? = some 0 ∧ (recording.sourceVal (.src true) 2 0).bits = azeroRecord) ∧
    ∃ a, recordAsk 0 azeroRecord.toNat qputF = some a ∧ nodeScalar a.op a.f = none ∧ a.op ≠ 0x120 ∧ a.op < 0x140 ∧
      taking recording a.f = taking recording qputF ∧
      EngineReady (killing recording 0) a.op a.f a.sh
        { commandFor recording a.op a.f a.sh none with flag := none } none ∧
      (Tab.get [] recording.cur.eq.cmds 0).length < 16 :=
  ⟨by decide +kernel, accessReady_sound (by decide +kernel), by decide +kernel, by decide +kernel,
   ⟨0x123, recordFields azeroRecord.toNat qputF, Shape.azero (recordFields azeroRecord.toNat qputF), false⟩,
   by decide +kernel, by decide +kernel, by decide, by decide, by decide +kernel,
   by constructor <;> decide +kernel, by decide +kernel⟩

/-- `azero a3`. -/
def azeroF : LaneFields := { lane 0 with vd := 3, va := 0, vb := 0 }
def nodeD : DWord := 0x10005
/-- A scroll through node 5 of s6. -/
def scrlNode : LaneFields := { lane 0 with vd := 0, va := 8, vb := 0, m1 := 8, imm := 6 }
def mmaF : LaneFields := { lane 0 with vd := 1, va := 2, vb := 3, vc := 4 }
/-- v4 holds 1 in lane 1 alone. -/
def dissent : State := claiming.modCur (fun x => { x with regs := { x.regs with v := [(64 * 4 + 1, ⟨1, false⟩)] } })
def clmF : LaneFields := { lane 0 with vd := 3, va := 8, vb := 0, imm := 64 * 2 }

theorem test_witness_EngineCommands :
    ((Instr.azero azeroF).form = .lane 0x123 azeroF (Shape.azero azeroF) ∧ (Instr.azero azeroF).wf = true ∧
      azeroF.m1.getLsbD 3 = false ∧
      EngineReady claiming 0x123 azeroF (Shape.azero azeroF)
        (commandFor claiming 0x123 azeroF (Shape.azero azeroF) none) none ∧
      (Tab.get [] claiming.cur.eq.cmds 0).length < 16) ∧
    (let s := withScalars [(6, nodeD)] claiming
     (Instr.scrlF scrlNode).wf = true ∧ nodeD.extractLsb' 16 8 ≠ 0 ∧
     EngineReady s 0x130 scrlNode (Shape.scrl [0, 2] scrlNode)
       (commandFor s 0x130 scrlNode (Shape.scrl [0, 2] scrlNode) (some 5)) (some nodeD)) ∧
    ((Instr.mma mmaF).wf = true ∧ readsWord 0x122 = true ∧ dissent.holdsFields mmaF (Shape.mma mmaF) = true ∧
      dissent.commandIllegal (commandFor dissent 0x122 mmaF (Shape.mma mmaF) none) true none = false ∧
      dissent.flagFull false = false ∧ dissent.queueCheck mmaF (Shape.mma mmaF) = .go ∧
      dissent.popTrap mmaF (Shape.mma mmaF) = 0 ∧
      (maskOf (fun l => (taking dissent mmaF).getLsbD l &&
        (dissent.sourceVal (.src false) 4 l).bits.setWidth 32 != formatWord dissent mmaF (Shape.mma mmaF))) = 2) :=
  ⟨⟨rfl, by decide +kernel, by decide, by constructor <;> decide +kernel, by decide +kernel⟩,
   ⟨by decide +kernel, by decide, by constructor <;> decide +kernel⟩, by decide +kernel⟩

/-- A node of the block in a state. -/
def noded (st : NodeState) (count : Nat) : State :=
  stand.setNode 0 0 5 { state := st, count := count, succ := [], cmd := none, bindings := [] }

theorem test_witness_SlotsAndNodes :
    ((Instr.oclm clmF).wf = true ∧ EngineReady claiming 0x120 clmF (Shape.oclm clmF)
        (commandFor claiming 0x120 clmF (Shape.oclm clmF) none) none ∧
      ∀ j, j < 2 → Tab.get 0 claiming.curCore.mem.claims (8 + j) = 0 ∧ claiming.reservedSlot 0 (8 + j) = false) ∧
    (let s := claiming.modCore 0 (fun k => k.modMem (fun m => { m with claims := [(9, 2)] }))
     EngineReady s 0x120 clmF (Shape.oclm clmF) (commandFor s 0x120 clmF (Shape.oclm clmF) none) none ∧
     Tab.get 0 s.curCore.mem.claims 9 = 2) ∧
    (let s := withScalars [(2, nodeD)] stand
     let f : LaneFields := { lane 0 with vd := 0, vb := 0 }
     (Instr.gnode f).wf = true ∧ EngineReady s 0x140 f (Shape.graph f)
       (commandFor s 0x140 f (Shape.graph f) (some 5)) (some nodeD)) ∧
    (let s := withScalars [(2, 5)] (noded .waiting 2)
     let f : LaneFields := { lane 0 with vd := 0, vb := 0 }
     (Instr.gsig f).wf = true ∧ EngineReady s 0x141 f (Shape.graph f)
       (commandFor s 0x141 f (Shape.graph f) none) none ∧ (s.node 0 0 5).state = .waiting ∧
       1 < (s.node 0 0 5).count) ∧
    (let s := withScalars [(2, 5)] (noded .launched 1)
     let f : LaneFields := { lane 0 with vd := 11, vb := 0 }
     (Instr.gflag f).wf = true ∧ s.flagFor f.fs = none ∧ EngineReady s 0x142 f (Shape.gflag f)
       (commandFor s 0x142 f (Shape.gflag f) none) none ∧ (s.node 0 0 5).state ≠ .free ∧
       (stand.node 0 0 5).state = .free) :=
  ⟨⟨by decide +kernel, by constructor <;> decide +kernel, by decide +kernel⟩,
   ⟨by constructor <;> decide +kernel, by decide +kernel⟩,
   ⟨by decide +kernel, by constructor <;> decide +kernel⟩,
   ⟨by decide +kernel, by constructor <;> decide +kernel, by decide +kernel, by decide +kernel⟩,
   ⟨by decide +kernel, by decide +kernel, by constructor <;> decide +kernel, by decide +kernel, by decide +kernel⟩⟩

/-! ### Ascents, steps, system calls, images -/

/-- An ascent of entry 4,095 in a stage, in a table of quota 2. -/
def ascents (st : AscentStage) (stack : List BallastEntry) : State :=
  let e : Ascent := { Ascent.absent with generation := 1, stage := st, handler := 0x2000, stack := stack, lid := 1 }
  let s := withScalars [(2, 0x1FFF), (3, 0x2000)] stand
  { (s.setPartition 0 { (s.partition 0) with quota := 2 }) with
    asc := { stand.asc with table := [(4095, e)] } }
def ascF : LaneFields := { lane 0 with vb := 0 }

theorem test_witness_AscentInstructions :
    let o := ascents .opened []
    (o.isAlone 0 0 = true ∧ o.flagFull ascF.fs = false ∧ ascF.va.toNat < 64 ∧ ascF.vd ≠ 0 ∧
      (∀ k, k < 4 → (o.cur.scalar (ascF.va.toNat + k)).poison = false)) ∧
    (let s := withScalars [(2, 0x2000)] o
     (s.cur.scalar 2).bits.extractLsb' 57 7 = 0 ∧ (s.cur.scalar 2).bits.toNat % 4 = 0 ∧ s.asc.next = some 0 ∧
     (Tab.get Ascent.absent s.asc.table 0).generation + 1 < 2 ^ 52 ∧
     (s.asc.table.filter (fun e => e.2.inUse && e.2.part == s.curBlock.part)).length < (s.partition 0).quota) ∧
    (let s := (withScalars [(2, 0x2000)] o).setPartition 0 { (o.partition 0) with quota := 1 }
     (s.partition 0).quota ≤ (s.asc.table.filter (fun e => e.2.inUse && e.2.part == s.curBlock.part)).length) ∧
    ((o.cur.scalar 3).bits.toNat % 4 = 0 ∧ (o.asc.find 0x1FFF).map (fun e => (e.part, e.stage)) = some (0, .opened) ∧
      o.asc.onDie 0 < 2 ^ 20 ∧ o.landHeld 0 0 0x1FFF = false) ∧
    ((ascents .grounded []).asc.find 0x1FFF).map (fun e => (e.part, e.stage)) = some (0, .grounded) ∧
    (stand.asc.find 0x1FFF = none ∧ stand.landHeld 0 0 0x1FFF = false) ∧
    (blocked (fun b => { b with role := .compensation 1 2 none })).curBlock.role = .compensation 1 2 none ∧
    stand.curBlock.role = .ordinary := by decide +kernel

/-- Before the `nop` of its clause, and before its header. -/
def granting : State := State.reset.before [0x24000000]
def atHeader : State := State.reset.before [0x80043E03]

theorem test_witness_StepRunsDecoded :
    granting.schedule = [] ∧ granting.granted = [⟨0, 0, BitVec.allOnes 16⟩] ∧
    (let z : State := { granting with granted := [], focus := ⟨0, 0, BitVec.allOnes 16⟩ }
     Issues z [0x24000000] .nop) ∧
    (let z : State := { atHeader with granted := [], focus := ⟨0, 0, BitVec.allOnes 16⟩ }
     z.mayIssue = true ∧ z.cur.scrollTrap = none ∧ z.leadQuad.inClause = false ∧
     z.fetchParcels 0 z.curCtx z.pc 1 = .parcels [0x80043E03] ∧
     decode [0x80043E03] = .instr (.clauseWaitTest ⟨1, 0, 15, true, 3⟩)) := by
  refine ⟨by decide +kernel, by decide +kernel, ?_, by decide +kernel⟩
  constructor <;> decide +kernel

theorem test_witness_StepRunsDecoded_fetch :
    (stand.translate 0 0 0x1000 .fetch).toOption.map (fun l => l.por || stand.mem.anyPoison l.addr 4) = some false := by
  decide +kernel

theorem test_witness_HeadersWait :
    (∀ n, n < 12 → (0xFFF : BitVec 12).getLsbD n = true → stand.cur.flag n = 0) ∧ stand.isAlone 0 0 = true ∧
    (let s := standing (fun x => { x with flags := [(11, 1)] })
     (0x800 : BitVec 12).getLsbD 11 = true ∧ s.cur.flag 11 ≠ 0) := by decide +kernel

theorem test_witness_EncodeDecode :
    (Instr.sadd ⟨63, 62, 61, 3⟩).wf = true ∧ encode (.sadd ⟨63, 62, 61, 3⟩) ≠ [] ∧
    decode [0x24000000, 5] = .instr .nop := by decide +kernel

theorem test_witness_EveryStepAnswers : stand.schedule = [] := by decide +kernel

theorem test_witness_MemoryStaysCanonical : stand.mem.wf = true ∧ ∃ t, step stand = .next t :=
  ⟨by decide +kernel, by
    have h : (match step stand with | .next _ => true | _ => false) = true := by decide +kernel
    revert h; cases step stand <;> simp⟩

/-- A parameter block of the plain launch at 0x6000. -/
def submitting : State :=
  let ws : List Nat := [0x1000, 0x10001, 0x10000000001, 0, 0, 0x10000]
  (ws.zipIdx.foldl (fun s e => s.putNum (0x6000 + 8 * e.2) 8 e.1) (withScalars [(4, 0x6000)] stand)).setPartition 0
    { (stand.partition 0) with clusters := [0] }

theorem test_witness_SystemCalls :
    (sysCall (.sysLaunchLong ⟨3, 4, 0, 63⟩)).isSome ∧ (submitting.cur.scalar 4).poison = false ∧
    submitting.isAlone 0 0 = true ∧ (submitting.range 0 0 .load 0x6000 128).toOption.isSome ∧
    submitting.submitted 0 0x6000 = none ∧ ((submitting.partition 0).queue 63).ids.length < 32 := by decide +kernel
theorem test_witness_SystemCalls_accepted :
    submitting.rejection 0 0 (submitting.paramsAt 0 0x6000) false = none := by decide +kernel
theorem test_witness_SystemCalls_rejected :
    (let s := submitting.putNum 0x6000 8 1
     s.rejection 0 0 (s.paramsAt 0 0x6000) false = some 1) ∧
    ({ submitting with launches := [{ plainLaunch with address := 0x6000 }] } : State).submitted 0 0x6000 = some 1 := by
  decide +kernel
theorem test_witness_SystemCalls_full :
    (let s := submitting.setPartition 0 { (submitting.partition 0) with
       queues := [(63, { LaunchQueue.empty with ids := List.replicate 32 1 })] }
     32 ≤ ((s.partition 0).queue 63).ids.length) ∧
    (stand.launch? 0 stand.curBlock.lid).map (fun l => (l.ending, l.stage)) = some (none, .running) := by
  decide +kernel

/-- A fibre of level 1 of a block that holds tiles, with an aligned address in s4. -/
def privileged : State :=
  withScalars [(4, 0x8000)] (({ claiming with launches := claiming.launches.map (fun l => { l with level1 := true }) }))

theorem test_witness_CoreImages :
    (imageAccess (.accsv ⟨0, 4, 15⟩)).map (fun x => (x.save, x.tile, x.index)) = some (true, true, 15) ∧
    stand.level1 = false ∧ privileged.level1 = true ∧ privileged.curBlock.acc = true ∧
    (privileged.cur.scalar 4).poison = false ∧ privileged.flagFull false = false ∧
    privileged.curCore.tileBusy 15 = false ∧ privileged.curCore.slotBusy 127 = false ∧
    privileged.isAlone 0 0 = true ∧
    (privileged.range 0 0 .store 0x8000 16384).toOption = some ((List.range 4).map (fun k => ⟨0x8000 + 4096 * k, 4096, false⟩)) ∧
    (privileged.range 0 0 .load 0x8000 4352).toOption = some [⟨0x8000, 4096, false⟩, ⟨0x9000, 256, false⟩] ∧
    (privileged.translate 0 0 0x8000 .load).toOption.map (fun l => (l.addr, l.por)) = some (0x8000, false) ∧
    privileged.mem.anyPoison 0x8000 32 = false ∧
    ((withScalars [(4, 0x8001)] privileged).cur.scalar 4).bits.toNat % 32 ≠ 0 := by decide +kernel

/-! ### Engines and scrolls -/

/-- A command of an engine that asks for its record. -/
def cmdOf (op : Nat) : Command :=
  { op := op, m1 := 0, vd := 3, va := 0, vb := 1, vc := 0, imm := 2 ^ 18, desc := [], word := 0, flag := some 11,
    cseq := 0xFFFF, node := none, pc := 0x1004, uncovered := false }
/-- The only command of a queue of the fibre. -/
def inQueue (e : Nat) (cmd : Command) (s : State) : State :=
  s.modCur (fun x => { x with eq := { x.eq with cmds := [(e, [cmd])], outstanding := [(e, 1)] } })
/-- A command that the engine has accepted. -/
def acceptedOf (cmd : Command) : Accepted :=
  { seq := 7, fib := 0, cmd := cmd, progress := 0, held := false, sampled := false, undefinedRead := false }
/-- The only command that the matrix engine has accepted. -/
def inMatrix (cmd : Command) (s : State) : State :=
  s.modCore 0 (fun k => k.modEng (fun g => { g with matrix := [acceptedOf cmd] }))
/-- A block with slots, tiles, a plane of depth 4 and record 1. -/
def engineData : State := data.modCore 0 (fun k =>
  (k.modMem (fun m => { m with claims := (List.range 8).map (fun n => (n, 1)) })).setBlock 0
    { k.block 0 with acc := true })

theorem closes_of {s : State} {c f e : Nat} {cmd : Command}
    (h : (s.isAlone c f && (s.fibre c f).resident && decide ((Tab.get [] (s.fibre c f).eq.recs e).length < 16) &&
      (Tab.get [] (s.fibre c f).eq.held e).isEmpty && cmd.node.isNone) = true) : Closes s c f e cmd := by
  simp only [Bool.and_eq_true, decide_eq_true_eq, List.isEmpty_iff, Option.isNone_iff_eq_none] at h
  exact ⟨h.1.1.1.1, h.1.1.1.2, h.1.1.2, h.1.2, h.2⟩

theorem test_witness_EngineAcceptance :
    Front (inQueue 0 (cmdOf 0x122) claiming) 0 0 0 (cmdOf 0x122) ∧
      (inQueue 0 (cmdOf 0x122) claiming).samples 0 0 (cmdOf 0x122) = false ∧
    Front (inQueue 0 (cmdOf 0x124) claiming) 0 0 0 (cmdOf 0x124) ∧
    Front (inQueue 1 (cmdOf 0x128) claiming) 0 0 1 (cmdOf 0x128) ∧
    (let s := inQueue 2 (cmdOf 0x139) claiming
     Front s 0 0 2 (cmdOf 0x139) ∧ Tab.get none (s.core 0).eng.pools 0 = none ∧
       Tab.get none (s.core 0).eng.scrolls 0 = none) ∧
    (let cmd := { cmdOf 0x121 with va := 6, imm := 64 * 2 }
     let s := inQueue 0 cmd claiming
     Front s 0 0 0 cmd ∧ Closes s 0 0 0 cmd ∧ cmd.va + cmd.imm / 64 % 256 = 8 ∧
       Tab.get 0 (s.core 0).mem.claims 7 = (s.fibre 0 0).block + 1 ∧ (s.core 0).eng.uses 7 = false) ∧
    (let s := inQueue 0 (cmdOf 0x123) claiming
     Front s 0 0 0 (cmdOf 0x123) ∧ Closes s 0 0 0 (cmdOf 0x123) ∧ (s.core 0).tilesFree [3] = true) ∧
    (let s := inQueue 3 (cmdOf 0x140) claiming
     Front s 0 0 3 (cmdOf 0x140) ∧ Closes s 0 0 3 (cmdOf 0x140)) :=
  ⟨⟨by decide +kernel, [], by decide +kernel⟩, by decide +kernel, ⟨by decide +kernel, [], by decide +kernel⟩,
   ⟨by decide +kernel, [], by decide +kernel⟩,
   ⟨⟨by decide +kernel, [], by decide +kernel⟩, by decide +kernel, by decide +kernel⟩,
   ⟨⟨by decide +kernel, [], by decide +kernel⟩, closes_of (by decide +kernel), by decide, by decide +kernel,
     by decide +kernel⟩,
   ⟨⟨by decide +kernel, [], by decide +kernel⟩, closes_of (by decide +kernel), by decide +kernel⟩,
   ⟨⟨by decide +kernel, [], by decide +kernel⟩, closes_of (by decide +kernel)⟩⟩

/-- The first GiB, in the TLB of the core. -/
def cachedData : State :=
  { engineData with trans := { engineData.trans with coreTlb := [(0, [⟨0, 0, 30, 0, true, false, 0⟩])] } }
/-- An `ald` of tile 17 through record 1. -/
def aldCmd : Command := { cmdOf 0x125 with vd := 17, imm := 64 + 2 ^ 12, desc := [0] }

theorem test_witness_EngineAcceptance_ald :
    let s := inQueue 0 aldCmd cachedData
    s.ctxOf 0 0 = 0 ∧ Front s 0 0 0 aldCmd ∧ Closes s 0 0 0 aldCmd ∧
    (s.core 0).tilesFree [17] = true ∧ s.engineHeld 0 0 = false ∧
    recBase (s.recordOf 0 0 (bitsAt aldCmd.imm 6 6)) = 0x4000 :=
  ⟨by decide +kernel, ⟨by decide +kernel, [], by decide +kernel⟩, closes_of (by decide +kernel), by decide +kernel, by decide +kernel,
   by decide +kernel⟩
theorem translate_cached {s : State} (n : Nat) (h : n < 4096)
    (h3 : Tab.get [] s.trans.coreTlb 0 = [⟨0, 0, 30, 0, true, false, 0⟩]) :
    s.translate 0 0 (0x4000 + 4 * n) .load = .ok ⟨0x4000 + 4 * n, false, 0⟩ := by
  have h1 : (0x4000 + 4 * n) / 2 ^ 30 = 0 := by omega
  have h2 : (0x4000 + 4 * n) % 2 ^ 30 = 0x4000 + 4 * n := by omega
  have h4 : tlbFind [⟨0, 0, 30, 0, true, false, 0⟩] 0 (0x4000 + 4 * n) = some ⟨0, 0, 30, 0, true, false, 0⟩ :=
    List.find?_cons_of_pos (show ((0 : BitVec 16) == 0 && (0x4000 + 4 * n) / 2 ^ 30 * 2 ^ 30 == 0) = true by
      rw [h1]; rfl)
  have h5 : s.translate 0 0 (0x4000 + 4 * n) .load = .ok ⟨0 + (0x4000 + 4 * n) % 2 ^ 30, false, 0⟩ := by
    unfold State.translate
    rw [h3, h4]
    rfl
  rw [h5, h2, Nat.zero_add]
theorem test_witness_EngineAcceptance_pages (n : Nat) (h : n < 4096) :
    cachedData.translate 0 0 (0x4000 + 4 * n) .load = .ok ⟨0x4000 + 4 * n, false, 0⟩ :=
  translate_cached n h (by decide +kernel)

/-- A dense `mma` of signed bytes into tile 3. -/
def mmaCmd : Command := { cmdOf 0x122 with word := BitVec.ofNat 32 (9 + 9 * 2 ^ 5 + 17 * 2 ^ 10) }
/-- A window of one position on an image of 2 by 2 positions. -/
def windowDesc (out chans : Nat) (fmt : Nat) : List DWord :=
  [BitVec.ofNat 64 (2 * 2 ^ 32 + 2 * 2 ^ 48), BitVec.ofNat 64 (out * 0x10001 + chans * 2 ^ 32 + 0x0101 * 2 ^ 48),
   0x01010101, BitVec.ofNat 64 (fmt * 2 ^ 16)]
def gathCmd : Command := { cmdOf 0x138 with word := 9, desc := windowDesc 0 0 0 }
def drainCmd : Command :=
  { cmdOf 0x124 with m1 := 1, va := 5, word := BitVec.ofNat 32 (17 * 2 ^ 10 + 17 * 2 ^ 15), desc := [0xFC0] }
def poolCmd : Command := { cmdOf 0x139 with desc := windowDesc 4 1 9 }

theorem mayEnd_of {s : State} {c f op : Nat} {a : Accepted}
    (h : (decide ((s.core c).eng.readyMatrix f (fun d => d.op == op) = some a) && (a.cmd.op == op) && (a.fib == f) &&
      !s.engineHeld c f && (s.isAlone c f && (s.fibre c f).resident &&
        decide ((Tab.get [] (s.fibre c f).eq.recs 0).length < 16) &&
        (Tab.get [] (s.fibre c f).eq.held 0).isEmpty && a.cmd.node.isNone)) = true) : MayEnd s c f op a := by
  simp only [Bool.and_eq_true, decide_eq_true_eq, beq_iff_eq, Bool.not_eq_true', List.isEmpty_iff,
    Option.isNone_iff_eq_none] at h
  exact ⟨h.1.1.1.1, h.1.1.1.2, h.1.1.2, h.1.2, ⟨h.2.1.1.1.1, h.2.1.1.1.2, h.2.1.1.2, h.2.1.2, h.2.2⟩⟩

theorem test_witness_EngineCompletions :
    MayEnd (inMatrix mmaCmd claiming) 0 0 0x122 (acceptedOf mmaCmd) ∧
    (fwAf mmaCmd.word = 9 ∧ fwBf mmaCmd.word = 9 ∧ fwCf mmaCmd.word = 17 ∧ fwSp mmaCmd.word = false ∧
      fwTra mmaCmd.word = false ∧ fwTrb mmaCmd.word = false) ∧
    (let s := inMatrix gathCmd engineData
     MayEnd s 0 0 0x138 (acceptedOf gathCmd) ∧ (s.core 0).mem.releasing = [] ∧
     0 < (winX gathCmd.desc).out ∧ 0 < (winY gathCmd.desc).out ∧
     (s.launchOf 0 0).map (fun l => s.winAway l 0 ((List.range 64).filterMap (gatherRead gathCmd)) ||
       ((List.range 64).filterMap (gatherRead gathCmd)).any (fun r => (s.winElem l 0 9 0 0 r).cross)) = some false) ∧
    (let s := inMatrix drainCmd engineData
     MayEnd s 0 0 0x124 (acceptedOf drainCmd) ∧ drainCmd.imm.testBit 12 = false ∧ (s.core 0).holes = 0 ∧
     (s.core 0).mem.marks.getLsbD 5 = false ∧
     (s.block 0 0).pdepth + bitsAt (drainCmd.desc.getD 0 0).toNat 0 12 + 64 = 4096 ∧ (s.core 0).mem.tiles = []) :=
  ⟨mayEnd_of (by decide +kernel), by decide +kernel,
   ⟨mayEnd_of (by decide +kernel), by decide +kernel⟩, ⟨mayEnd_of (by decide +kernel), by decide +kernel⟩⟩

/-- Handle 0 of the context: 4,096 bytes at 0x4000; record 1 names it. -/
def handles : State :=
  let s := [(0x10008, 0x14000), (0x10010, 1), (0x14000, 3 * 2 ^ 62), (0x14008, 4096), (0x14010, 0x15000),
    (0x15000, 0x4000)].foldl (fun (t : State) e => t.putNum e.1 8 e.2) engineData
  let rec1 : Nat := 7 * 2 ^ 61 + 4096 * 2 ^ 64
  { s with launches := s.launches.map (fun l => { l with bufrecs := [(1, BitVec.ofNat 320 rec1)] }) }
/-- A copy of two rows of 16 bytes, 2048 bytes apart in memory, between slot 3 and record 1. -/
def cpyCmd (m1 gofs : Nat) : Command :=
  { cmdOf 0x128 with m1 := m1, imm := 2 ^ 18 + 64, desc := [BitVec.ofNat 64 (gofs + 2 * 2 ^ 48), 0x80000000010, 8, 0] }
def copying (m1 gofs : Nat) : State :=
  handles.modCore 0 (fun k => k.modEng (fun g => { g with copies := [acceptedOf (cpyCmd m1 gofs)] }))

theorem test_witness_EngineCompletions_copy :
    ∀ e ∈ [(4, 0x7F0, 0), (5, 0x7F0, 0), (4, 0x7F1, 2)],
      let s := copying e.1 e.2.1
      let cmd := cpyCmd e.1 e.2.1
      (s.core 0).eng.copies.find? (fun b => b.fib == 0 && b.cmd.cseq == 0xFFFF) = some (acceptedOf cmd) ∧
      s.engineHeld 0 0 = false ∧ (s.core 0).eng.matrix = [] ∧ (s.core 0).mem.releasing = [] ∧ cmd.kind = 2 ∧
      cmd.outward = (e.1 == 5) ∧ s.copyStatus 0 0 cmd (s.recordOf 0 0 (bitsAt cmd.imm 6 6)) = e.2.2 := by decide +kernel
theorem test_witness_EngineCompletions_closes : Closes (copying 4 0x7F0) 0 0 1 (cpyCmd 4 0x7F0) :=
  closes_of (by decide +kernel)
theorem test_witness_EngineCompletions_places :
    let s := copying 5 0x7F0
    let cmd := cpyCmd 5 0x7F0
    let r := s.recordOf 0 0 1
    ((List.range 32).map (fun n => s.handleAddr (s.copyHandle 0 0 r)
      (byteOffset r (cmd.cpyGofs + n / 16 * cmd.cpyGstride + n % 16)))).Nodup := by decide +kernel

/-- The pooling command of the fibre. -/
def pooling : State :=
  engineData.modCore 0 (fun k => k.modEng (fun g => { g with pools := [(0, some (acceptedOf poolCmd))] }))

theorem test_witness_EngineCompletions_pool :
    Tab.get none (pooling.core 0).eng.pools 0 = some (acceptedOf poolCmd) ∧ pooling.engineRuns 0 0 = true ∧
    Closes pooling 0 0 2 poolCmd ∧ 0 < (winX poolCmd.desc).out ∧ 0 < (winY poolCmd.desc).out :=
  ⟨by decide +kernel, by decide +kernel, closes_of (by decide +kernel), by decide +kernel, by decide +kernel⟩
theorem test_witness_EngineCompletions_outputs :
    let outs := poolOutputs poolCmd
    outs.map (fun o => o.1) = [(4, 4), (5, 4), (4, 5), (5, 5)] ∧
    outs.any (fun o => o.2.contains (.image 5 5)) = false ∧
    (pooling.launchOf 0 0).map (fun l => pooling.winAway l 0 (outs.flatMap (fun o => o.2)) ||
      outs.any (fun o => pooling.poolAway l o.1.1 o.1.2)) = some false ∧
    (pooling.launchOf 0 0).map (fun l => outs.map (fun o => pooling.poolTarget l o.1.1 o.1.2)) =
      some [some (0, 36, 0), some (0, 37, 0), some (0, 44, 0), some (0, 45, 0)] := by decide +kernel
theorem test_witness_EngineCompletions_record :
    let s := stand.modCur (fun x => { x with eq := { x.eq with held := [(1, [(5, some 2)])],
                                                               recs := [(1, List.replicate 15 0)] } })
    Tab.get [] (s.fibre 0 0).eq.held 1 = [(5, some 2)] ∧ (Tab.get [] (s.fibre 0 0).eq.recs 1).length < 16 ∧
    s.isAlone 0 0 = true := by decide +kernel

/-- A scroll of 2 by 2 positions one column to the right, of words 0 and 1, edges zero. -/
def scrollCmd (m1 nd : Nat) : Command :=
  { cmdOf 0x130 with m1 := m1, desc := [0x0002000200000000, BitVec.ofNat 64 (2 ^ 32 + nd * 2 ^ 16), 9, 0] }
def scrolling : State := inQueue 2 (scrollCmd 0 2) engineData
/-- The scroll at its last row. -/
def rowRun (m1 : Nat) (st : Option Nat) : ScrollRun :=
  { ScrollRun.start (scrollCmd m1 2) 1 with nrec := some 0, status := st }
def inRow (r : ScrollRun) : State := engineData.setScrollRun 0 0 (some r)

theorem test_witness_ScrollEvents :
    Front scrolling 0 0 2 (scrollCmd 0 2) ∧ Tab.get none (scrolling.core 0).eng.pools 0 = none ∧
    Tab.get none (scrolling.core 0).eng.scrolls 0 = none ∧
    (scrolling.launchOf 0 0).map (fun l =>
      ((scrollCmd 0 2).scroll.bad (scrolling.planeW l) (scrolling.planeH l) l.depth,
       (scrollCmd 0 5).scroll.bad (scrolling.planeW l) (scrolling.planeH l) l.depth)) = some (false, true) ∧
    (scrollCmd 0 2).scroll.spill = false ∧ (scrollCmd 0 2).scroll.carryTooLarge = false ∧
    (let d : ScrollDesc := { (scrollCmd 0 2).scroll with dy := 200, h := 200, w := 8, nd := 40, ey := 4 }
     d.carryTooLarge = true) ∧
    (let s := inRow { rowRun 2 none with nrec := none, spill := [(0x4000, 4096)] }
     (s.scrollRun 0 0).map (fun r => (r.status, r.nrec)) = some (none, none)) ∧
    (let s := inRow (rowRun 0 none)
     s.engineRuns 0 0 = true ∧ s.scrollRun 0 0 = some (rowRun 0 none) ∧
     (s.launchOf 0 0).map (fun l => (s.rowItems l (rowRun 0 none).cmd.scroll 1).map (fun is =>
       (is.length, is.any (s.itemAway l), (is.filter RowItem.isRecord).length))) = some (some (4, false, 0))) ∧
    (let s := inRow (rowRun 3 none)
     (rowRun 3 none).capacity = 0 ∧
     (s.launchOf 0 0).map (fun l => (s.rowItems l { (scrollCmd 3 2).scroll with ex := 5, dx := 8 } 1).map (fun is =>
       (is.any (s.itemAway l), (is.filter RowItem.isRecord).length))) = some (some (false, 4))) ∧
    (let s := (inRow (rowRun 0 none)).modCore 0 (fun k => { k with holes := 0x100 })
     (s.launchOf 0 0).map (fun l => s.rowItems l { (scrollCmd 0 2).scroll with hp := 2 } 1) = some none) ∧
    (let s := inRow (rowRun 0 (some 0))
     s.scrollRun 0 0 = some (rowRun 0 (some 0)) ∧ Closes s 0 0 2 (rowRun 0 (some 0)).cmd) ∧
    (let s := (inRow (rowRun 0 (some 5))).modCur (fun x => { x with quads := [] })
     s.scrollRun 0 0 = some (rowRun 0 (some 5)) ∧ (s.fibre 0 0).awakeQuads = [] ∧
     Closes s 0 0 2 (rowRun 0 (some 5)).cmd) :=
  ⟨⟨by decide +kernel, [], by decide +kernel⟩, by decide +kernel, by decide +kernel, by decide +kernel,
   by decide +kernel, by decide +kernel, by decide +kernel, by decide +kernel, by decide +kernel, by decide +kernel,
   by decide +kernel, ⟨by decide +kernel, closes_of (by decide +kernel)⟩,
   ⟨by decide +kernel, by decide +kernel, closes_of (by decide +kernel)⟩⟩

/-! ### Issue, firmware, launches -/

/-- The second fibre of the slot waits its turn. -/
def rivals (current : Nat) (g : Fibre → Fibre) (h : Fibre → Fibre) : State :=
  (twoFibres.modFibre 0 0 g).modFibre 0 1 h |>.setSlot 0 0 { twoFibres.slot 0 0 with current := current }
def waiting (w : Wait) (g : Fibre → Fibre) : State :=
  (quadsOf (fun y => { y with wait := w })).modCur g
/-- The fibre waits for some units. -/
def blockedOn (count : Nat) : State := waiting (.xacq 0 count 1 0) (fun x => x)

theorem test_witness_IssueEvents :
    (let s := standing (fun x => { x with age := 300 })
     let s1 := s.tick.ageAll.stopAll
     s.cores.map (fun e => e.1) = [0] ∧ (s1.slot 0 0).bound = true ∧
     (s1.candidate 0 0).map (fun x => x.test || decide (250 ≤ x.age)) = some true) ∧
    (stand.cluster 195).refilled = false ∧
    ((stand.setSlot 0 15 { stand.slot 0 15 with switchTo := some 3 }).slot 0 15).switchTo = some 3 ∧
    (let s := rivals 0 (fun x => { x with run := .frozen 0x12 }) (fun x => x)
     (s.slot 0 0).switchTo = none ∧ (s.slot 0 0).bound = true ∧ (s.fibre 0 0).run ≠ .running ∧
     (s.core 0).nextReady 0 0 = some 1) ∧
    (let s := rivals 0 (fun x => { x with stall := 128 }) (fun x => x)
     128 ≤ (s.fibre 0 0).stall ∧ (s.core 0).nextReady 0 0 = some 1) ∧
    (let s := rivals 0 (fun x => { x with age := 247 }) (fun x => { x with age := 248 })
     1 ≠ (s.slot 0 0).current ∧ (s.core 0).ready 1 = true ∧ (s.fibre 0 0).age < (s.fibre 0 1).age ∧
     (s.core 0).ready 2 = false ∧ (s.core 0).ready 3 = false) ∧
    (standing (fun x => { x with ops := [.access 11] })).cur.ops[0]? = some (.access 11) ∧
    ((standing (fun x => { x with ops := [.rip 3 0x1FFF] })).cur.ops[0]? = some (.rip 3 0x1FFF) ∧
      stand.asc.find 0x1FFF = none) ∧
    (let s := waiting (.flags 0x800) (fun x => x)
     (s.cur.quad 15).ended = false ∧ (s.cur.quad 15).wait = .flags 0x800 ∧ s.cur.flag 11 = 0) ∧
    (let s := waiting (.arrivals 0) (fun x => x)
     (s.cur.quad 0).wait = .arrivals 0 ∧ 0 ≤ s.cur.sys.arrivals.toNat) ∧
    (let s := waiting (.barrier 15 true) (fun x => x)
     (s.cur.quad 0).wait = .barrier 15 true ∧ ((s.core 0).barrier (s.block 0 0).scrb 15).phase ≠ true) := by
  decide +kernel

theorem test_witness_IssueEvents_units :
    let s := blockedOn 2
    (∀ r ∈ (s.core 0).blockedXacqs, r.2.1 = 0 ∧ r.2.2 = 2) ∧ (s.fibre 0 0).resident = true ∧
    (s.cur.quad 0).wait = .xacq 0 2 1 0 ∧ 2 ≤ s.curCore.freeUnits := by decide +kernel
theorem test_witness_IssueEvents_starved :
    let s := (blockedOn 12).setBlock 0 0 { stand.block 0 0 with winCnt := 60 }
    s.curCore.freeUnits < 12 ∧ s.curCore.starved = true ∧ (s.fibre 0 0).resident = true ∧
    (s.cur.quad 15).wait = .xacq 0 12 1 0 ∧
    (∀ r ∈ s.curCore.blockedXacqs, r.2.1 = 0 ∧ r.2.2 = 12) := by decide +kernel
theorem test_witness_IssueEvents_handlers :
    (let s := waiting .entering (fun x => x)
     ((s.fibre 0 0).quad 3).wait = .entering) ∧
    (let s := waiting .resuming (fun x => x)
     ((s.fibre 0 0).quad 3).wait = .resuming) ∧
    (let s := (handling 0x12 (blocked (fun b => { b with stage := .parking, parkSince := 5 })))
     let t : State := { s with cycle := 65541 }
     (t.fibre 0 0).handler.isSome = true ∧ (t.fibre 0 0).run = .running ∧
     (t.block 0 (t.fibre 0 0).block).stage = .parking ∧ 65536 ≤ t.cycle - (t.block 0 (t.fibre 0 0).block).parkSince) ∧
    (let s := cored (fun k => { k with
       heldEvents := [⟨6, false, 0, 0, 0, 0x1004, 0, 0⟩],
       regs := { k.regs with evqbase := BitVec.ofNat 64 (0x9000 + 4 * 2 ^ 57), evqtail := 15 } })
     (s.core 0).heldEvents.length = 1 ∧ (s.core 0).regs.evqtail.toNat - (s.core 0).regs.evqhead.toNat = 15 ∧
     (s.core 0).regs.evSize = 16) := by decide +kernel

def frozenFor (cause : BitVec 8) : State :=
  standing (fun x => { x with run := .frozen cause, frozenQuads := 0xFFFF })

theorem test_witness_FibreActions :
    ((frozenFor 0x06).fibre 0 0).run = .frozen 0x06 ∧ (frozenFor 0x81).isAlone 0 0 = true ∧
    ((frozenFor 0x02).fibre 0 0).run = .frozen 0x02 ∧
    (match (frozenFor 0x02).fetchAt 0 0 0x1004 with
      | .parcels ps => ps.length == 1
      | _ => false) = true ∧
    (let s := frozenFor 0x13
     (s.fibre 0 0).resident = true ∧ (s.block 0 0).role = .ordinary ∧ (s.block 0 0).stage ≠ .empty ∧
     (s.launch? 0 1).map (fun l => (l.ending, l.stage)) = some (none, .running)) ∧
    (let s := standing (fun x => { x with run := .stopped })
     (s.fibre 0 0).run = .stopped ∧ (s.fibre 0 0).steppable.length = 16) ∧
    (stand.cur.run = .running ∧ stand.cur.stopSoon = none) ∧
    (let s := cored (fun k => { k with regs := { k.regs with dbgctl := 1 } })
     (s.core 0).regs.dbgctl.getLsbD 0 = true ∧ (0xC : BitVec 64).getLsbD 0 = false) := by decide +kernel

/-- A frozen fibre whose record lies at 0x20000. -/
def movable : State :=
  let s := (frozenFor 0x12).modCore 0 (fun k => { k with regs := { k.regs with fxaddr := 0x20000 } })
  ((s.putNum 0x20000 4 0x4B465352).putNum 0x20004 2 1).putNum 0x20008 2 0x801
def engsel (v : DWord) (i : Nat) : State := cored (fun k => { k with regs := { k.regs with engsel := v, engIndex := i } })

theorem test_witness_FirmwareRegisters :
    (stand.mayMove 0 0 = false ∧ (stand.core 0).regs.fxbusy = false) ∧
    (movable.mayMove 0 0 = true ∧ (movable.core 0).regs.fxbusy = false ∧
      bitsAt (movable.core 0).regs.fxaddr.toNat 8 44 * 256 = 0x20000 ∧ movable.recordGood 0 0 0x20000 = true ∧
      (frozenFor 0x12).recordGood 0 0 0 = false) ∧
    (let r := ((engsel 0x7F00 543).core 0).regs
     bitsAt r.engsel.toNat 8 8 = 127 ∧ r.engIndex < 544) ∧
    (let r := ((engsel 0x8F00 2047).core 0).regs
     bitsAt r.engsel.toNat 8 8 = 143 ∧ r.engIndex < 2048) ∧
    (stand.core 0).eng.heldMma = none ∧
    ((0x0B9 : Nat) < 0x1000 ∧ 0x0B8 < (0x0B9 : Nat)) ∧
    ((0x800000000000 : BitVec 64).getLsbD 47 = true ∧ (stand.slot 0 15).bound = false ∧
      (0xF00000000000 : BitVec 64).getLsbD 47 = true ∧ (stand.block 0 7).stage = .empty) := by decide +kernel
theorem test_witness_FirmwareRegisters_held :
    let a : Accepted := { acceptedOf mmaCmd with held := true, progress := 1 }
    let s := claiming.modCore 0 (fun k => k.modEng (fun g => { g with matrix := [a] }))
    (s.core 0).eng.heldMma = some a ∧ a.sampled = false ∧ Closes s 0 a.fib 0 a.cmd :=
  ⟨by decide +kernel, by decide +kernel, closes_of (by decide +kernel)⟩

/-- The block of the launch in a stage, with no other changes. -/
def staged (st : BlockStage) : State := blocked (fun b => { b with stage := st })
/-- Its save area is at 0x30000 and holds a record of one row. -/
def areaAt (st : BlockStage) : State :=
  let s := blocked (fun b => { b with stage := st, save := 0x30000 })
  ((s.putNum 0x30000 4 0x4B425352).putNum 0x30004 2 1).putNum 0x30006 2 1

theorem test_witness_BlockCommands :
    (let s := staged .empty
     (s.block 0 0).slots ≠ 0 ∧ (s.block 0 0).fibres ≤ 4 ∧
     (s.launchOf 0 0).map (fun l => (l.ending, l.stage)) = some (none, .running)) ∧
    (stand.block 0 0).stage = .running ∧ stand.otherBlock 0 0 = none ∧
    (let s := staged .parking
     (s.block 0 0).stage = .parking ∧ s.parkReady 0 0 = true ∧ s.otherBlock 0 0 = none ∧
     (s.fibre 0 0).block = 0 ∧ (s.fibre 0 0).resident = true ∧ (s.fibre 0 0).atBarrier = false) ∧
    ((staged .parked).block 0 0).stage = .parked ∧ (staged .parked).planeParked 0 0 = true ∧
    (let s := areaAt .empty
     (s.block 0 0).stage = .empty ∧ (s.block 0 0).slots ≠ 0 ∧ (s.block 0 0).role = .ordinary ∧
     Tab.get none s.savedBlocks 0x30000 = none ∧ (s.block 0 0).save / 256 % 2 ^ 44 * 256 = 0x30000 ∧
     s.mem.num 0x30000 4 = 0x4B425352 ∧ s.mem.num 0x30004 2 = 1 ∧ s.mem.num 0x30006 2 = (s.block 0 0).srows ∧
     s.depthOf 0 0 = 0 ∧ s.mem.num 0x30008 2 = 0 ∧ (s.block 0 0).scrb + (s.block 0 0).srows ≤ 4096) ∧
    ((staged .saving).block 0 0).stage = .saving ∧ ((staged .restoring).block 0 0).stage = .restoring ∧
    ((staged .saved).block 0 0).stage = .saved := by decide +kernel

/-- A queued launch of queue 63 on an enabled core; `stand` without its block otherwise. -/
def queuedLaunch : Launch :=
  { plainLaunch with queue := 63, stage := .queued, placed := 0, params := [0x1000, 0x10001, 0x10000000001, 0, 0, 0x10000] }
def placing : State :=
  let s := (stand.setPartition 0 { (stand.partition 0) with
    clusters := [0], queues := [(63, { LaunchQueue.empty with ids := [1], count := 1 })] }).setCore 0
      { CoreState.reset with enabled := true, regs := { CoreRegs.reset with corectl := 4 } }
  { s with launches := [queuedLaunch], time := 200000000 }
def place0 : BlockPlace := { core := 0, entry := 15, slot := 15, rbase := 0, depth := 0 }

theorem test_witness_LaunchLifecycle :
    (stand.rot.phase = .running ∧ ((submitting.partition 0).queue 63).ids.length < 32) ∧
    (placing.headOf 0 63 = some queuedLaunch ∧ queuedLaunch.prio + queuedLaunch.aged < 7 ∧
      (placing.partition 0).ageing ≠ 0 ∧
      (placing.partition 0).ageing * (queuedLaunch.aged + 1) ≤ placing.time.toNat - queuedLaunch.submitted) ∧
    (placing.waitsForPlace queuedLaunch = true ∧ placing.headBefore 0 63 queuedLaunch = false ∧
      queuedLaunch.depth = 0 ∧ queuedLaunch.redund = false ∧
      (placing.blocksOf queuedLaunch).drop queuedLaunch.placed = [(0, 0)] ∧
      placing.fits queuedLaunch (0, 0) place0 = true ∧ (placing.readTables queuedLaunch).entryBad = false) ∧
    (let s := standing (fun x => { x with run := .exited })
     (s.launch? 0 1).map (fun l => (l.stage, s.launchDone l)) = some (.running, true)) ∧
    (let s : State := { (standing (fun x => { x with run := .exited })) with
       launches := [{ plainLaunch with ending := some ⟨1, 7, 0, 0, 0, 0, 0, 0, 0, 0⟩ }] }
     (s.launch? 0 1).map (fun l => (l.stage, s.launchDone l)) = some (.running, true)) := by decide +kernel
theorem test_witness_LaunchLifecycle_accepted :
    let p : ParamBlock := (List.range 16).map (fun k => BitVec.ofNat 64 (submitting.mem.num (0x6000 + 8 * k) 8))
    submitting.rejection 0 (submitting.driverCtx 0) p false = none ∧
    submitting.rejection 0 (submitting.driverCtx 0) (p.set 0 1) false = some 1 := by decide +kernel

/-- One ballast entry of the plain launch. -/
def ballast : BallastEntry := ⟨5, 0x3000, 0xA, 0xB, 0, 0, 1⟩
/-- A ripping ascent, and a pool of compensation on cluster 1. -/
def ripping : State :=
  let s := ascents .ripping [ballast]
  let t := (s.setPartition 0 { (s.partition 0) with compPool := [1] }).setCore 2
    { CoreState.reset with enabled := true, regs := { CoreRegs.reset with corectl := 4 } }
  { t with launches := t.launches.map (fun l => { l with params := l.params ++ List.replicate 10 0 }) }
/-- Its compensation has ended. -/
def compensated (failed : Option (BitVec 16)) : State :=
  let s := ascents .ripping [ballast]
  let t := s.setBlock 0 0 { (s.block 0 0) with role := .compensation 0x1FFF 5 failed }
  t.modCur (fun x => { x with run := .exited })


theorem test_witness_AscentEvents :
    (ripping.asc.running = none ∧ ripping.asc.nextEntry.map (fun e => (e.1, e.2.2)) = some (4095, ballast) ∧
      (ripping.launch? 0 1).map (fun l => (l.params.length, ripping.specialFits l { place0 with core := 2 })) = some (16, true)) ∧
    (let s := compensated none
     (s.block 0 0).role = .compensation 0x1FFF 5 none ∧ (s.block 0 0).stage = .running ∧ s.blockDone 0 0 = true ∧
     (s.asc.find 0x1FFF).map (fun e => (e.stage, e.stack.filter (fun v => v.seq != 5))) = some (.ripping, [])) ∧
    (let s := compensated (some 9)
     (s.block 0 0).role = .compensation 0x1FFF 5 (some 9) ∧ s.blockDone 0 0 = true ∧
     (s.asc.find 0x1FFF).map (fun e => (e.stage, e.handler != 0, (s.launch? e.part e.lid).isSome)) =
       some (.ripping, true, true)) ∧
    (let s := ascents .opened []
     let t : State := { s with asc := { s.asc with table := s.asc.table.map (fun e =>
       (e.1, { e.2 with heldLands := [(0, 0, 63)] })) } }
     (t.asc.find 0x1FFF).map (fun e => (e.heldLands, e.stage, e.part)) = some ([(0, 0, 63)], .opened, 0) ∧
     t.landHeld 0 0 0x1FFF = false ∧ (t.block 0 (t.fibre 0 0).block).part = 0) := by decide +kernel

/-! ### The device -/

/-- A link in a state. -/
def linked (n : Nat) (st : BitVec 3) : State := stand.setLink n { Link.reset with state := st, en := true, width := 1 }
/-- Clusters 0 and 48 of one partition; the cores of 48 are enabled. -/
def clustered : State :=
  let s := stand.setPartition 0 { (stand.partition 0) with clusters := [0, 48] }
  (coresOf 48).foldl (fun t c =>
    t.setCore c { CoreState.reset with enabled := true, regs := { CoreRegs.reset with corectl := 4 } }) s
/-- Its blocks have parked for the migration. -/
def migrating : State :=
  (clustered.setBlock 0 0 { clustered.block 0 0 with stage := .parked }).setCluster 0
    { clustered.cluster 0 with migrating := some 48 }

theorem test_witness_ClustersAndLinks :
    (stand.clusterEmpty 195 = true ∧ stand.inCompPool 195 = false ∧ (stand.cluster 195).moving = none ∧
      (stand.cluster 195).migrating = none) ∧
    ((stand.setCluster 195 { Cluster.reset with moving := some 7 }).cluster 195).moving = some 7 ∧
    clustered.canMigrate 0 48 = true ∧ (clustered.block 0 0).slots ≠ 0 ∧ (clustered.block 0 0).stage = .running ∧
    (migrating.cluster 0).migrating = some 48 ∧ migrating.allParked 0 = true ∧
    (((linked 39 2).link 39).state = 2 ∧ asked 3 ≠ ((linked 39 2).link 39).width ∧ (linked 39 2).clockPending 39 = false) ∧
    (((linked 39 3).link 39).state = 3 ∧ asked 2 ≠ ((linked 39 3).link 39).width ∧
      asked 1 = ((linked 39 3).link 39).width) ∧
    (∀ n, n < 40 → (stand.link n).state ≠ 1 ∧ (stand.link n).state ≠ 3) ∧
    ((3 : Nat) ∈ linkDies 39 ∧ ((linked 39 3).link 39).state = 3) ∧
    (((linked 39 1).link 39).state = 1 ∧ (∀ d ∈ linkDies 39, ((linked 39 1).die d).pendingMhz = none) ∧
      ((linked 39 1).link 39).pending = none ∧ ((linked 39 1).link 39).failures + 1 < 3) ∧
    3 ≤ ((stand.setLink 35 { Link.reset with state := 3, failures := 2 }).link 35).failures + 1 ∧
    (((linked 35 2).link 35).state = 2 ∧
      16 ≤ ((stand.setLink 35 { Link.reset with state := 2, flitReplays := 16 }).link 35).flitReplays) ∧
    ((stand.link 35).en = false ∧ (0x8000000000000000 : BitVec 64).getLsbD 63 = true ∧
      ((linked 35 2).link 35).en = true ∧
      (0x8400000000000000 : BitVec 64).extractLsb' 58 3 ≠ ((linked 35 2).link 35).role) ∧
    (800 ≤ (800 : Nat) ∧ (105 : Nat) < 106) := by decide +kernel

/-- A fault that one frozen fibre waits on. -/
def faulted : State :=
  let s := frozenFor 0x06
  { s with trans := { s.trans with faults := [⟨0, 65535, 0, 9, 1, [.fibre 0 0]⟩] } }

theorem test_witness_TranslationAndHosts :
    (match stand.walk 0 (0x3FFFFFFF : VAddr).toNat .store with
      | .found _ => true
      | .failed _ => false) = true ∧
    ((faulted.faultOf 0 0xFFFF).map PageFault.waiters = some [.fibre 0 0] ∧ (faulted.fibre 0 0).run = .frozen 0x06 ∧
      faulted.isAlone 0 0 = true ∧ (faulted.block 0 (faulted.fibre 0 0).block).role = .ordinary ∧
      (faulted.launch? 0 1).map (fun l => (l.ending, l.stage)) = some (none, .running)) ∧
    stand.trans.inv = none ∧
    (∀ k, k < 4 → ({ stand with trans := { stand.trans with inv := some ⟨k, 0, 0, 57⟩ } } : State).trans.inv =
      some ⟨k, 0, 0, 57⟩) ∧
    (walked stand 0 0x4FFC .load = some 0x4FFC ∧ stand.mem.anyPoison 0x4FFC 4 = false ∧ 0x4FFC % 4096 + 4 ≤ 4096 ∧
      walked stand 0 0x40000000 .load = none ∧ walked stand 0 0x40000000 .store = none) ∧
    (match stand.walk 0 0x4FFC .load with
      | .found e => e.por
      | .failed _ => true) = false ∧
    (rangePopulated 0x5FFFFFFFFF 1 = true ∧ rangePopulated 0x5FFFFFFFFF 2 = false ∧
      stand.ownRange 0x5FFFFFFFFF = true) ∧
    (((linked 35 2).link 35).state = 2 ∧ ((linked 35 2).core 783).holes.getLsbD 63 = false) := by decide +kernel

/-- One audit record of the launch, and two hosts. -/
def audited (crc : DWord) : State :=
  let r : AuditRecord := { part := 0, core := 0, lid := 1, word := mmaCmd.word, slotsA := [], slotsB := [], tile := [],
                           tile2 := [], crc := crc, free := 0 }
  { (stand.setPartition 0 { (stand.partition 0) with auditHosts := [200, 400] }) with audit := [r] }

theorem test_witness_Reliability :
    (stand.core 0).holes.getLsbD 63 = false ∧ (stand.fibre 0 0).resident = true ∧
    (stand.block 0 (stand.fibre 0 0).block).inWindow 47 = false ∧
    ((stand.block 0 0).role = .ordinary ∧ (stand.block 0 0).stage ≠ .empty ∧
      (stand.launch? 0 1).map (fun l => (l.ending, l.stage)) = some (none, .running)) ∧
    populated 0x5FFFFFFFFF = true ∧
    (((inMatrix mmaCmd stand).core 0).eng.matrix = [acceptedOf mmaCmd] ∧ (acceptedOf mmaCmd).held = false) ∧
    (let k := stand.core 4
     k.regs.corectl.getLsbD 2 = false ∧ k.slots = [] ∧ k.takenBlocks = [] ∧ k.scan.state ≠ 1) ∧
    ((cored (fun k => { k with scan := ⟨1, false, 0⟩ })).core 0).scan.state = 1 ∧
    (1 : BitVec 32) ≠ stand.rot.config.scanSig := by decide +kernel
/-- The replays of equal and of unequal results. -/
theorem test_witness_Reliability_audits :
    (audited 0).audit.map (fun r => (r.part, (audited 0).hostFits r 200, (audited 0).hostFits r 0)) = [(0, true, false)] ∧
    ((audited 0).core 400).eng.matrix = [] := by decide +kernel
theorem replay_crc (m : CoreMem) (r : AuditRecord) (crc : DWord) : m.replay { r with crc := crc } = m.replay r := by
  simp only [CoreMem.replay, AuditRecord.replayCommand, CoreMem.loadRecord]
theorem test_witness_Reliability_crc (m : CoreMem) (r : AuditRecord) :
    (∃ crc : DWord, (m.replay { r with crc := crc }).2 = crc) ∧ ∃ crc : DWord, (m.replay { r with crc := crc }).2 ≠ crc :=
  ⟨⟨(m.replay r).2, by rw [replay_crc]⟩, ⟨(m.replay r).2 + 1, by rw [replay_crc]; generalize (m.replay r).2 = x; simp⟩⟩

/-- A lead on core 0 and its trail on core 2, in front of the same instruction. -/
def paired (g : Pair → Pair) (h : Fibre → Fibre) : State :=
  let s := stand.modFibre 0 0 h
  let t := s.setBlock 0 0 { s.block 0 0 with role := .lead 0 }
  let u := t.setCore 2 (t.core 0)
  (u.setBlock 2 0 { u.block 0 0 with role := .trail 0 }).setPair 0 (g { Pair.absent with lead := (0, 0), trail := (2, 0) })
def entry (sig : DWord) : CompareEntry := ⟨0, sig, [], .keep, none⟩
def quadsWait (w : Wait) (x : Fibre) : Fibre :=
  { x with quads := x.quads.map (fun e => (e.1, { e.2 with wait := w })) }

theorem test_witness_PairEvents :
    (let s := paired (fun q => { q with lvq := [⟨0, .value, []⟩] }) (fun x => x)
     (s.pair 0).lvq = [⟨0, .value, []⟩]) ∧
    (let s := paired (fun q => { q with leadBuf := [entry 1], trailBuf := [entry 1] }) (fun x => x)
     (s.pair 0).busy = false ∧ (s.pair 0).leadBuf = [entry 1] ∧ (s.pair 0).trailBuf = [entry 1] ∧
     (s.pair 0).lead.1 ≠ (s.pair 0).trail.1) ∧
    (let s := paired (fun q => { q with leadBuf := [entry 1], trailBuf := [entry 2] }) (fun x => x)
     (s.pair 0).leadBuf = [entry 1] ∧ (s.pair 0).trailBuf = [entry 2] ∧ (s.pair 0).mismatched = none) ∧
    (let s := paired (fun q => { q with leadBuf := [entry 1], trailBuf := [entry 2], mismatched := some (0, 0) }) (fun x => x)
     (s.pair 0).mismatched = some (0, Tab.get 0 (s.pair 0).index 0) ∧ s.copyFibre (s.pair 0).lead 0 = some 0 ∧
     (s.block 0 (s.fibre 0 0).block).role = .lead 0 ∧
     (s.launch? 0 1).map (fun l => (l.ending, l.stage)) = some (none, .running)) ∧
    (let s := paired (fun q => { q with forced := true }) (quadsWait .checkpoint)
     (s.pair 0).busy = false ∧ s.pairAligned (s.pair 0) = true ∧ s.pairQuiet (s.pair 0) = true) ∧
    ((paired (fun q => { q with busy := true }) (fun x => x)).pair 0).busy = true ∧
    ((paired (fun q => { q with restoring := true }) (fun x => x)).pair 0).restoring = true ∧
    (let s := paired (fun q => q) (quadsWait .heldExit)
     s.side 0 0 = .lead 0 ∧ s.pairSettled 0 = true ∧ (s.fibre 0 0).handler = none ∧
     (∀ n, n < 16 → ((s.fibre 0 0).quad n).wait = .heldExit ∧ ((s.fibre 0 0).quad n).stack = []) ∧
     (∀ e ∈ (s.fibre 0 0).quads, e.1 < 16) ∧ Tab.sortedFrom none (s.fibre 0 0).quads = true) := by decide +kernel

theorem test_witness_BootAndReset :
    (State.reset.rot.phase = .off ∧ State.reset.rot.copy0.signatureOk = true ∧
      (∀ n ∈ [1, 3, 4], (State.reset.rot.images.find? (fun e => e.1 == n && e.2.1)) = some (n, true, 0))) ∧
    (let bad : ConfigRecord := { ConfigRecord.plain with signatureOk := false }
     let r := { RootOfTrust.reset with copy0 := bad, copy1 := bad }
     r.phase = .off ∧ r.copy0.signatureOk = false ∧ r.copy1.signatureOk = false) ∧
    (stand.rot.phase = .running ∧ stand.warm.active = false ∧ (stand.core 0).enabled = true ∧
      ((linked 35 2).link 35).en = true ∧
      stand.launches.map (fun l => (l.stage, l.ending, stand.launch? l.part l.lid == some l)) =
        [(.running, none, true)]) ∧
    ({ stand with warm := { stand.warm with active := true } } : State).warm.active = true ∧
    115 ≤ (115 : Nat) ∧
    ({ stand with rot := { stand.rot with copy0 := { ConfigRecord.plain with endpoint := true } } } : State).rot.config.endpoint
      = true := by decide +kernel

theorem test_witness_LeadingZerosAndOnes :
    (stand.cur.scalar 4).poison = false ∧ (Instr.sclz ⟨3, 4, 0, 3⟩).wf = true ∧ (Instr.spopc ⟨3, 4, 0, 0⟩).wf = true := by
  decide +kernel
theorem test_witness_ArrivalsCount :
    flying.rwrs.length = 1 ∧ flying.planeCore 0 1 0 0 = some (0, 0) ∧ (flying.core 0).fibreAt 0 0 0 = some 0 ∧
    (stand.cur.scalar 2).poison = false ∧ (0 : BitVec 64).extractLsb' 0 16 = 0 := by decide +kernel
theorem test_witness_AzeroClearsTile :
    Front (inQueue 0 (cmdOf 0x123) claiming) 0 0 0 (cmdOf 0x123) ∧
    Closes (inQueue 0 (cmdOf 0x123) claiming) 0 0 0 (cmdOf 0x123) ∧
    ((inQueue 0 (cmdOf 0x123) claiming).core 0).tilesFree [3] = true :=
  ⟨⟨by decide +kernel, [], by decide +kernel⟩, closes_of (by decide +kernel), by decide +kernel⟩
theorem test_witness_LaunchIds :
    submitting.rejection 0 (submitting.driverCtx 0) ((List.range 16).map (fun k =>
      BitVec.ofNat 64 (submitting.mem.num ((0x6000 : BitVec 64).toNat % 2 ^ 52 + 8 * k) 8))) false = none ∧
    ((submitting.partition 0).queue 63).count < 2 ^ 26 := by decide +kernel

/-! ### Worked examples of the spec -/

/-- The words of the tables "Encodings, worked" of the lane, memory and engine references. -/
def workedWords : List (List Word × Instr) := [
  ([0x40005058, 0x60000004, 0], .add (lf 10 11 12 0 0 1 0 0)),
  ([0x40E82820, 0x00012209, 0x64], .cmp { lf 5 4 0 0 17 2 1 100 with pg := 2 }),
  ([0x40E03840, 0x48302E00, 0], .sel (lf 7 8 9 6 23 0 0 0)),
  ([0x44004048, 0x00000810, 0], .cvt (lf 8 9 0 0 4 4 0 0)),
  ([0x45101810, 0x00002E01, 0x80000001], .shfd (lf 3 2 0 0 23 0 1 0x80000001)),
  ([0x45281018, 0x00200001, 0xFFFFFFFF], .vote (lf 2 3 0 4 0 0 1 0xFFFFFFFF)),
  ([0x45303028, 0x00002200, 0], .lred (lf 6 5 0 0 17 0 0 0)),
  ([0x4C00A0A8, 0x00000004, 0], .had32 (lf 20 21 0 0 0 1 0 0)),
  ([0x47102810, 0, 0x31000010], .ldw (lf 5 2 0 0 0 0 0 0x31000010)),
  ([0x47804020, 0x48002213, 0x0C000040], .atomAdd (lf 8 4 9 0 17 4 3 0x0C000040)),
  ([0x48580030, 0x38000000, 0], .bars (lf 0 6 7 0 0 0 0 0)),
  ([0x488000F0, 0x60002E00, 0], .rwr (lf 0 30 12 0 23 0 0 0)),
  ([0x489867C8, 0x00182E00, 0], .qtry (lf 12 249 0 3 23 0 0 0)),
  ([0x49001040, 0, 0x00020040], .oclm (lf 2 8 0 0 0 0 0 0x20040)),
  ([0x49101840, 0x60380000, 0], .mma (lf 3 8 12 7 0 0 0 0)),
  ([0x49100080, 0xA0480028, 0xA], .mma (lf 0 16 20 9 0 10 0 10)),
  ([0x49181800, 0, 0], .azero (lf 3 0 0 0 0 0 0 0)),
  ([0x49200018, 0xA0380004, 0], .drainPl (lf 0 3 20 7 0 1 0 0)),
  ([0x49400040, 0, 0x80], .cpyIn (lf 0 8 0 0 0 0 0 0x80)),
  ([0x49800020, 0xC, 0], .scrlM (lf 0 4 0 0 0 3 0 0)),
  ([0x49C02060, 0x00380000, 0], .wgath (lf 4 12 0 7 0 0 0 0)),
  ([0x4A080028, 0, 0], .gsig (lf 0 5 0 0 0 0 0 0)),
  ([0x4B081040, 0, 0], .ascp (lf 2 8 0 0 0 0 0 0)),
  ([0x4B282848, 1, 0], .ascq (lf 5 9 0 0 0 0 1 0))]
theorem test_worked_words : ∀ e ∈ workedWords, decode e.1 = .instr e.2 := by decide +kernel
/-- `sli s7, 0x89AB_CDEF` and `slih s7, 0x0123_4567` (R163). -/
theorem test_worked_words_scalar : decode [0xD21C0000, 0x89ABCDEF] = .instr (.sliLong ⟨7, 0, 0, 0x89ABCDEF⟩) ∧
    decode [0xD31C0000, 0x01234567] = .instr (.slih ⟨7, 0, 0, 0x01234567⟩) := by decide +kernel

/-- What a step leaves, read through a function. -/
def after {α : Type} (i : Instr) (s : State) (g : State → α) : Option α :=
  match exec i s with
  | .next t => some (g t)
  | _ => none
/-- Lane registers by number, the same in every lane, or by lane. -/
def withLanes (vs : List (Nat × (Nat → Word))) (s : State) : State :=
  s.modCur (fun x => { x with regs := { x.regs with v := (vs.flatMap (fun e =>
    (List.range 64).map (fun l => (64 * e.1 + l, (⟨e.2 l, false⟩ : PW))))).filter (fun e => e.2.bits != 0) } })
def laneOf (t : State) (r l : Nat) : Word := (Tab.get PW.zero t.cur.regs.v (64 * r + l)).bits

/-- `sli` sign-extends, `slih` replaces the high half (R163). -/
theorem test_sli : after (.sliLong ⟨7, 0, 0, 0x89ABCDEF⟩) stand (fun t => (t.cur.scalar 7).bits) = some 0xFFFFFFFF89ABCDEF := by
  decide +kernel
theorem test_slih : after (.slih ⟨7, 0, 0, 0x01234567⟩) (withScalars [(7, 0xFFFFFFFF89ABCDEF)] stand)
    (fun t => (t.cur.scalar 7).bits) = some 0x0123456789ABCDEF := by decide +kernel
/-- Bits [13:6] of `s3` (R163). -/
theorem test_sbfe : after (.sbfeLong ⟨2, 3, 4, 0x0806⟩) (withScalars [(3, 0xFFFFFFFFFFFFEABF)] stand)
    (fun t => (t.cur.scalar 2).bits) = some 0xAA := by decide +kernel
/-- `cvt.f16.i32` of 70,000 overflows; `cvt.i8.f32.rz` of −200.7 clamps (R212). -/
theorem test_cvt_overflow : after (.cvt (lf 3 2 0 17 1 0 0 0)) (withLanes [(2, fun _ => 70000)] stand)
    (fun t => (laneOf t 3 63, t.cur.sys.chki)) = some (0x7C00, 0x140) := by decide +kernel
theorem test_cvt_clamps : after (.cvt (lf 3 2 0 0 9 1 0 0)) (withLanes [(2, fun _ => 0xC348B333)] stand)
    (fun t => (laneOf t 3 0, t.cur.sys.chki)) = some (0xFFFFFF80, 0x500) := by decide +kernel
/-- 1.25 to E2M1 with seed 1 (R68). -/
theorem test_cvt_stochastic : after (.cvt (lf 3 2 0 0 8 4 0 0))
    ((withLanes [(2, fun _ => 0x3FA00000)] stand).modCur (fun x => { x with sys := { x.sys with rseed := [(0, 1)] } }))
    (fun t => (laneOf t 3 0, Tab.get 0 t.cur.sys.rseed 0)) = some (3, 0x00042021) := by decide +kernel
/-- The sums of R224: 2^24 in lane 0, 1.0 in lanes 1 and 33. -/
def sums : State := withLanes [(1, fun l => if l = 0 then 0x4B800000 else if l = 1 ∨ l = 33 then 0x3F800000 else 0)] stand
theorem test_lred : after (.lred (lf 3 1 0 0 0 0 0 0)) sums (fun t => (laneOf t 3 0, laneOf t 3 63)) =
    some (0x4B800001, 0x4B800001) := by decide +kernel
theorem test_scan : after (.scan (lf 3 1 0 0 0 0 0 0)) sums (fun t => laneOf t 3 63) = some 0x4B800000 := by decide +kernel
/-- The vote of R222: quads 0 to 3, members 0 to 31, `p3` true. -/
theorem test_vote : after (.vote (lf 2 3 6 4 0 0 3 0))
    { (withScalars [(6, 0xFFFFFFFF)] (standing (fun x => { x with regs := { x.regs with p := [(3, 0xFFFF)] } }))) with
      focus := ⟨0, 0, 0xF⟩ } (fun t => ((t.cur.pred 2).extractLsb' 0 20, (t.cur.pred 4).extractLsb' 0 20)) = some (0xFFFF, 0xFFFF) := by
  decide +kernel
/-- The format words of R99. -/
theorem test_format_word : (fwAf 0x10084, fwBf 0x10084, fwCf 0x10084, fwDf 0x10084) = (4, 4, 0, 2) ∧
    (fwAf 0x4701CE, fwBf 0x4701CE, fwDf 0x4701CE, fwDsat 0x4701CE) = (14, 14, 14, true) := by decide +kernel
/-- The border cases of R148 to R154: sizes of outputs, and coordinates under mirror and repeat. -/
theorem test_borders : (mirrorAt (-1) 4, mirrorAt 4 4, mirrorAt 7 4) = (1, 2, 1) ∧
    (mirrorAt (-2) 3, mirrorAt (-1) 3, mirrorAt 3 3, mirrorAt 4 3) = (2, 1, 1, 0) ∧ mirrorAt 7 7 = 5 ∧
    ({ n := 3, k := 5, dil := 1, st := 1, pl := 2, ph := 2, i0 := 0, o0 := 0 } : WinAxis).out = 3 ∧
    ({ n := 7, k := 2, dil := 1, st := 3, pl := 0, ph := 1, i0 := 0, o0 := 0 } : WinAxis).out = 3 ∧
    ({ n := 4, k := 3, dil := 4, st := 1, pl := 4, ph := 4, i0 := 0, o0 := 0 } : WinAxis).out = 4 := by decide +kernel

end Sys2Proof.Tests
end

section
/-! PROOFS. The family of program state: ARRIVALS and the instructions that speak of it (R97, R263 to R265). -/

namespace Sys2Proof.ProgramState
open Sys2Proof.Machine Sys2Proof.Spec

/-! ### What a write of a lane register leaves of a fibre -/

/-- Disarming an injection changes the registers of the core and no fibre. -/
theorem fibre_afterLanes (s : State) (c f r : Nat) (vs : List (Nat × PW)) (d g : Nat) :
    (s.afterLanes c f r vs).fibre d g = s.fibre d g := by
  unfold State.afterLanes
  split
  · split
    · unfold State.fibre
      rw [State.core_modCore]
      split
      · subst_vars; rfl
      · rfl
    · rfl
  · rfl

/-- A write of a lane register, in the file of a fibre or in its slot's window, leaves the special registers of
every fibre alone. -/
theorem sys_storeLanes (s : State) (c f r : Nat) (vs : List (Nat × PW)) (d g : Nat) :
    ((s.storeLanes c f r vs).fibre d g).sys = (s.fibre d g).sys := by
  unfold State.storeLanes
  dsimp only
  split
  · rw [State.fibre_setSlot]
  · rw [State.fibre_setFibre]
    split
    · next h => obtain ⟨rfl, rfl⟩ := h; rfl
    · rfl

theorem sys_setLanesOf (s : State) (c f r : Nat) (vs : List (Nat × PW)) (d g : Nat) :
    ((s.setLanesOf c f r vs).fibre d g).sys = (s.fibre d g).sys := by
  rw [State.setLanesOf, fibre_afterLanes, sys_storeLanes]

/-! ### Delivery of a remote write (R264) -/

/-- One more arrival, up to 0xFFFF (R97). -/
theorem ofNat_min_succ (a : BitVec 16) :
    BitVec.ofNat 16 (min 0xFFFF (a.toNat + 1)) = if a = 0xFFFF then 0xFFFF else a + 1 := by
  by_cases h : a = 0xFFFF
  · subst h; rfl
  · rw [if_neg h]
    have hlt : a.toNat ≠ 0xFFFF := fun e => h (BitVec.eq_of_toNat_eq e)
    apply BitVec.eq_of_toNat_eq
    rw [BitVec.toNat_ofNat, BitVec.toNat_add]
    have hs : a.toNat + 1 ≤ 0xFFFF := by omega
    rw [Nat.min_eq_right hs]
    rfl

/-- A remote write that finds its fibre counts as one arrival there. -/
theorem arrivals_land (s : State) (r : RemoteWrite) {c b f : Nat}
    (hp : s.planeCore r.part r.lid r.cx r.cy = some (c, b))
    (hf : (s.core c).fibreAt b r.bslot r.index = some f) :
    ((s.land r).fibre c f).sys.arrivals =
      if (s.fibre c f).sys.arrivals = 0xFFFF then 0xFFFF else (s.fibre c f).sys.arrivals + 1 := by
  unfold State.land
  simp only [hp, hf, State.modFibre, State.fibre_setFibre_same, sys_setLanesOf, ofNat_min_succ]

/-- The oldest remote write lands when its target has its block on a core: none goes before it, and it waits
for nothing. -/
theorem exec_rwrDelivery_oldest (s : State) (r : RemoteWrite) (rest : List RemoteWrite) {cb : Nat × Nat}
    (hr : s.rwrs = r :: rest) (hp : s.planeCore r.part r.lid r.cx r.cy = some cb) :
    exec (.rwrDelivery 0) s = .next ({ s with rwrs := rest }.land r) := by
  have hx : exec (.rwrDelivery 0) s = execRwrDelivery 0 s := rfl
  have haway : s.targetAway r = false := by simp [State.targetAway, hp]
  rw [hx, execRwrDelivery, hr]
  simp [haway]

/-! ### `arrc`, `await` and `mts` (R92, R265) -/

/-- The state that `arrc` leaves. -/
theorem exec_arrc (f : LaneFields) (s : State) : exec (.arrc f) s =
    .next ((s.modCur (fun x => { x with sys := { x.sys with arrivals := 0 } }.setScalar f.vd.toNat
      (PX.clean (s.cur.sys.arrivals.setWidth 64)))).retire (.arrc f)) := rfl

/-- `await` with a clean operand: it retires once the count in bits [15:0] is reached, and waits for it before. -/
theorem exec_await_clean (f : LaneFields) (s : State) (h : (s.cur.scalar f.va.toNat).poison = false) :
    exec (.await f) s =
      let n := ((s.cur.scalar f.va.toNat).bits.extractLsb' 0 16).toNat
      if n ≤ s.cur.sys.arrivals.toNat then .next (s.retire (.await f)) else .next (s.wait (.arrivals n)) := by
  have hx : exec (.await f) s = execAwait f s := rfl
  simp [hx, execAwait, s.useScalar_clean _ h, BitVec.extractLsb'_toNat]

/-- A selector that `mts` may not write traps with cause 0x08 (R92). -/
theorem exec_mts_readOnly (f : ScalarImm) (s : State) (hchki : f.imm.toNat ≠ 0x013) (hsatc : f.imm.toNat ≠ 0x014)
    (hseed : f.imm.toNat ≠ 0x018) : exec (.mts f) s = .next (s.trap 0x08 0 (.mts f)) := by
  have hx : exec (.mts f) s = execMts f s := rfl
  simp [hx, execMts, hchki, hsatc, hseed]

/-- Settles O58: each clause is the rule above for its instruction. -/
theorem arrivalsCount : Obligations.ArrivalsCount := by
  unfold Obligations.ArrivalsCount
  refine ⟨fun s r rest c b fib hr hp hf _ => ?_, fun f s => ?_, fun f s hclean => ?_, fun f s himm => ?_⟩
  · exact ⟨_, exec_rwrDelivery_oldest s r rest hr hp, arrivals_land { s with rwrs := rest } r hp hf⟩
  · refine ⟨_, exec_arrc f s, ?_, fun hvd => ?_⟩
    · rw [State.retire_cur, Fibre.modQuads_sys, State.cur_modCur]; rfl
    · have hvd' : f.vd.toNat ≠ 0 := fun e => hvd (BitVec.eq_of_toNat_eq e)
      rw [State.retire_cur, Fibre.modQuads_scalar, State.cur_modCur, Fibre.scalar_setScalar, if_pos ⟨rfl, hvd'⟩]
  · rw [exec_await_clean f s hclean]
    exact ⟨fun hle => if_pos hle, fun hlt => if_neg (Nat.not_le.mpr hlt)⟩
  · exact exec_mts_readOnly f s (by rw [himm]; decide) (by rw [himm]; decide) (by rw [himm]; decide)

end Sys2Proof.ProgramState
end

section
/-! PROOFS. The family of scalar control: `nop` (R175), and the counts of `sclz` and `spopc` (R162). -/

namespace Sys2Proof.ScalarControl
open Sys2Proof.Machine Sys2Proof.Spec

/-! ### The one word that decodes to `nop` (R124, R175) -/

theorem eq_some_of_checked {o : Option Instr} {i : Instr} (h : checked o = .instr i) : o = some i := by
  cases o with
  | none => cases h
  | some j =>
    simp only [checked] at h
    split at h
    · cases h; rfl
    · cases h

/-- A function of `sys` is no `nop` (R179). -/
theorem sysOne_ne_nop (i : ScalarImm) : sysOne i ≠ some .nop := by
  unfold sysOne
  split <;> simp

/-- OP6 0x24 with every field zero is the only way of the scalar map to `nop`. -/
theorem scalarOne_eq_nop {op : Nat} {r : ScalarReg} {i : ScalarImm} (h : scalarOne op r i = some .nop) :
    op = 0x24 ∧ i.sd = 0 ∧ i.sa = 0 ∧ i.imm = 0 := by
  by_cases hop : op = 0x24
  · subst hop
    simpa [scalarOne, and_assoc] using h
  · unfold scalarOne at h
    split at h <;> simp_all [sysOne_ne_nop]

/-- The fields of the immediate layout are the low 24 bits (R120). -/
theorem mod_eq_zero_of_immOfBits {w : Nat} (hsd : (immOfBits w).sd = 0) (hsa : (immOfBits w).sa = 0)
    (himm : (immOfBits w).imm = 0) : w % 2 ^ 24 = 0 := by
  have hsd' : BitVec.ofNat 6 (w / 2 ^ 12 / 2 ^ 6 % 2 ^ 6) = 0 := hsd
  have hsa' : BitVec.ofNat 6 (w / 2 ^ 12 % 2 ^ 6) = 0 := hsa
  have himm' : BitVec.ofNat 12 (w % 2 ^ 12) = 0 := himm
  simp only [BitVec.ofNat_eq_ofNat, ← BitVec.toNat_inj, BitVec.toNat_ofNat] at hsd' hsa' himm'
  omega

theorem mod_eq_of_decodeOne_nop {w : Nat} (h : decodeOne w = .instr .nop) : w % 2 ^ 30 = 0x24000000 := by
  simp only [decodeOne] at h
  split at h
  · cases h
  · obtain ⟨hop, hsd, hsa, himm⟩ := scalarOne_eq_nop (eq_some_of_checked h)
    have hlow := mod_eq_zero_of_immOfBits hsd hsa himm
    omega

theorem decodeHeader_ne_nop (w : Nat) : decodeHeader w ≠ .instr .nop := by
  unfold decodeHeader
  split
  · exact fun h => nomatch eq_some_of_checked h
  · exact nofun

/-- A single parcel is `nop` for one value alone: KIND 0 leads to the scalar map, KIND 2 to a clause header, and
the other kinds want more parcels (R105). -/
theorem decode_singleton_eq_nop_iff (w : Word) : decode [w] = .instr .nop ↔ w = 0x24000000 := by
  constructor
  · intro h
    simp only [decode] at h
    split at h
    next hkind _ =>
      have hlow := mod_eq_of_decodeOne_nop h
      apply BitVec.eq_of_toNat_eq
      rw [show (0x24000000 : Word).toNat = 0x24000000 from rfl]
      omega
    next heq => cases heq
    next => exact absurd h (decodeHeader_ne_nop _)
    next heq => cases heq
    next => cases h
  · rintro rfl
    decide

/-! ### `nop` (R175) -/

theorem exec_nop (s : State) : exec .nop s = .next (s.retire .nop) := rfl

/-- Settles O56: the decoder's maps lead to `nop` from one word, and `nop` does nothing but retire. -/
theorem nopHasNoEffect : Obligations.NopHasNoEffect := by
  unfold Obligations.NopHasNoEffect
  refine ⟨decode_singleton_eq_nop_iff, fun s => ⟨_, exec_nop s, ?_, ?_, ?_⟩⟩
  · exact s.retire_sameRegs .nop []
  · exact s.retire_sameOutside .nop
  · exact s.retire_advanced .nop

/-! ### The counts of the model and of bit vectors -/

/-- The highest one bit of a W-bit number other than zero stands below its leading zeros. -/
theorem log2_toNat_eq {w : Nat} {x : BitVec w} (hx : x ≠ 0#w) (hlt : x.clz.toNat < w) :
    Nat.log2 x.toNat = w - 1 - x.clz.toNat := by
  have hne : x.toNat ≠ 0 := fun e => hx (BitVec.eq_of_toNat_eq e)
  have hlow := BitVec.two_pow_sub_clz_le_toNat_of_ne_zero (Nat.zero_lt_of_lt hlt) hx
  have hhigh := x.toNat_lt_two_pow_sub_clz
  have hexp : w - x.clz.toNat = w - 1 - x.clz.toNat + 1 := by omega
  exact (Nat.log2_eq_iff hne).mpr ⟨hlow, hexp ▸ hhigh⟩

/-- The leading zeros of zero are all its W bits. -/
theorem clz_zero (w : Nat) : (0 : BitVec w).clz = BitVec.ofNat w w := by
  simpa using (BitVec.clz_eq_iff_eq_zero (x := (0 : BitVec w))).mpr rfl

/-- The model's count of leading zeros is that of bit vectors. -/
theorem leadingZeros_toNat {w : Nat} (x : BitVec w) : leadingZeros w x.toNat = x.clz.toNat := by
  have hw : w < 2 ^ w := Nat.lt_two_pow_self
  unfold leadingZeros
  by_cases hx : x = 0#w
  · subst hx
    have hclz : (0#w).clz.toNat = w := by
      rw [show (0#w).clz = BitVec.ofNat w w from clz_zero w, BitVec.toNat_ofNat, Nat.mod_eq_of_lt hw]
    rw [hclz, if_pos (by simp)]
  · have hne : x.toNat ≠ 0 := fun e => hx (BitVec.eq_of_toNat_eq e)
    have hlt : x.clz.toNat < w := by
      have h := BitVec.clz_lt_iff_ne_zero.mpr hx
      rwa [BitVec.lt_def, BitVec.natCast_eq_ofNat, BitVec.toNat_ofNat, Nat.mod_eq_of_lt hw] at h
    rw [if_neg hne, log2_toNat_eq hx hlt]
    omega

/-- The model's count of one bits counts the positions that hold one. -/
theorem popCount_toNat {w : Nat} (x : BitVec w) :
    popCount w x.toNat = (List.range w).countP (fun j => x.getLsbD j) :=
  List.countP_eq_length_filter.symm

/-! ### `sclz` and `spopc` (R120, R162) -/

/-- W of FN (R120): the model's reading and the statements' reading agree. -/
theorem scalarWidth_toNat (fn : BitVec 6) : scalarWidth fn.toNat = widthOf fn := by
  revert fn
  decide

theorem exec_sclz_clean (f : ScalarReg) (s : State) (h : (s.cur.scalar f.sa.toNat).poison = false) :
    exec (.sclz f) s = .next (s.putScalar (.sclz f) f.sd
      ((((s.cur.scalar f.sa.toNat).bits.setWidth (widthOf f.fn)).clz).setWidth 64)) := by
  have hx : exec (.sclz f) s = execSclz f s := rfl
  simp only [hx, execSclz, s.useScalar_clean _ h, scalarWidth_toNat]
  rw [← BitVec.toNat_setWidth, leadingZeros_toNat, BitVec.ofNat_toNat]

theorem exec_spopc_clean (f : ScalarReg) (s : State) (h : (s.cur.scalar f.sa.toNat).poison = false) :
    exec (.spopc f) s = .next (s.putScalar (.spopc f) f.sd (BitVec.ofNat 64 ((List.range (widthOf f.fn)).countP
      (fun j => ((s.cur.scalar f.sa.toNat).bits.setWidth (widthOf f.fn)).getLsbD j)))) := by
  have hx : exec (.spopc f) s = execSpopc f s := rfl
  simp only [hx, execSpopc, s.useScalar_clean _ h, scalarWidth_toNat]
  rw [← BitVec.toNat_setWidth, popCount_toNat]

/-- FN that holds W alone: COND and U are zero. -/
theorem extractLsb'_eq_zero_of_countOk (fn : BitVec 6) : countOk fn = true → fn.extractLsb' 2 4 = 0 := by
  revert fn
  decide

/-- `sclz` and `spopc` have the same legal fields. -/
theorem wf_spopc_eq_wf_sclz (f : ScalarReg) : (Instr.spopc f).wf = (Instr.sclz f).wf := rfl

theorem fields_of_wf_sclz {f : ScalarReg} (h : (Instr.sclz f).wf = true) :
    f.sb = 0 ∧ f.fn.extractLsb' 2 4 = 0 := by
  have hok : (f.sb == 0 && countOk f.fn) = true := h
  obtain ⟨hsb, hfn⟩ := Bool.and_eq_true_iff.mp hok
  exact ⟨eq_of_beq hsb, extractLsb'_eq_zero_of_countOk f.fn hfn⟩

/-- Settles O57: the counts of the model are those of bit vectors, and the legal fields are those of R162. -/
theorem leadingZerosAndOnes : Obligations.LeadingZerosAndOnes := by
  unfold Obligations.LeadingZerosAndOnes
  refine ⟨fun f s hclean => ⟨exec_sclz_clean f s hclean, exec_spopc_clean f s hclean⟩, clz_zero, fun f hwf => ?_⟩
  rw [wf_spopc_eq_wf_sclz, or_self] at hwf
  exact fields_of_wf_sclz hwf

end Sys2Proof.ScalarControl
end

section
/-! PROOFS. The family of the engines: `azero` on the accumulator tiles (R288, R292). -/

namespace Sys2Proof.AccumulatorTiles
open Sys2Proof.Machine Sys2Proof.Spec

/-! ### Sparse tables cut and joined -/

/-- A read of joined tables: what the first does not list, the second gives. -/
theorem get_append {α : Type} (d : α) (t u : Tab α) (n : Nat) :
    Tab.get d (t ++ u) n = Tab.get (Tab.get d u n) t n := by
  induction t with
  | nil => rfl
  | cons e rest ih => rw [List.cons_append, Tab.get_cons, Tab.get_cons, ih]

/-- A table cut down to the keys of a test reads as before there, and the default elsewhere. -/
theorem get_filter {α : Type} (d : α) (p : Nat → Bool) (t : Tab α) (n : Nat) :
    Tab.get d (t.filter (fun e => p e.1)) n = if p n then Tab.get d t n else d := by
  induction t with
  | nil => simp
  | cons e rest ih =>
    obtain ⟨k, v⟩ := e
    by_cases hn : n = k
    · subst hn
      cases hp : p n <;> simp [hp, Tab.get_cons, ih]
    · cases hp : p k <;> simp [hp, Tab.get_cons, ih, hn]

/-! ### A tile and its mark after a write (R288) -/

/-- A tile replaced by the empty image reads zero in every entry, and every other tile as before: its keys lie
below or above those of the tile. -/
theorem tile_setTile_nil (m : CoreMem) {t d n : Nat} (hn : n < 4096) :
    (m.setTile t []).tile d n = if d = t then PW.zero else m.tile d n := by
  have hread : (m.setTile t []).tile d n =
      Tab.get PW.zero (m.tiles.filter (fun e => decide (e.1 < 4096 * t)) ++
        m.tiles.filter (fun e => decide (4096 * t + 4096 ≤ e.1))) (4096 * d + n) := by
    simp [CoreMem.tile, CoreMem.setTile]
  rw [hread, get_append, get_filter _ (fun k => decide (4096 * t + 4096 ≤ k)),
    get_filter _ (fun k => decide (k < 4096 * t))]
  rcases Nat.lt_trichotomy d t with hlt | rfl | hgt
  · have hbelow : 4096 * d + n < 4096 * t := by omega
    have habove : ¬ 4096 * t + 4096 ≤ 4096 * d + n := by omega
    simp [hbelow, habove, Nat.ne_of_lt hlt, CoreMem.tile]
  · have hbelow : ¬ 4096 * d + n < 4096 * d := by omega
    have habove : ¬ 4096 * d + 4096 ≤ 4096 * d + n := by omega
    simp [hbelow, habove]
  · have hbelow : ¬ 4096 * d + n < 4096 * t := by omega
    have habove : 4096 * t + 4096 ≤ 4096 * d + n := by omega
    simp [hbelow, habove, Nat.ne_of_gt hgt, CoreMem.tile]

@[simp] theorem tile_setMark (m : CoreMem) (t : Nat) (b : Bool) : (m.setMark t b).tile = m.tile := rfl

/-- A cleared mark reads clear. -/
@[simp] theorem marks_setMark_false (m : CoreMem) (t : Nat) : (m.setMark t false).marks.getLsbD t = false := by
  rw [CoreMem.setMark, if_neg Bool.false_ne_true, BitVec.getLsbD_and, BitVec.getLsbD_not, BitVec.getLsbD_ofNat,
    Nat.testBit_two_pow_self]
  simp

/-! ### What the end of a command leaves alone (R277, R283) -/

/-- Two core memories hold the same accumulator tiles and quarter marks. -/
def SameAccumulators (m m' : CoreMem) : Prop := m'.tiles = m.tiles ∧ m'.marks = m.marks

/-- A write of a fibre leaves the memory of every core alone. -/
@[simp] theorem mem_core_setFibre (s : State) (c f d : Nat) (x : Fibre) :
    ((s.setFibre c f x).core d).mem = (s.core d).mem := by
  rw [State.setFibre, State.core_modCore]
  split
  · subst_vars; rfl
  · rfl

@[simp] theorem mem_core_modFibre (s : State) (c f d : Nat) (g : Fibre → Fibre) :
    ((s.modFibre c f g).core d).mem = (s.core d).mem := mem_core_setFibre ..

/-- A value received from outside a block changes the queues of a pair at most (R439). -/
theorem cores_receive {s t : State} {c f : Nat} {kind : ForwardKind} {g : State → List PX} {vs : List PX}
    (h : s.receive c f kind g = some (vs, t)) : t.cores = s.cores := by
  unfold State.receive at h
  split at h
  · cases h; rfl
  · dsimp only at h
    split at h <;> cases h
    rfl
  · dsimp only at h
    split at h <;> cases h
    rfl

/-- A record that enters its queue leaves the memory of every core alone. -/
theorem mem_core_enterRecord {s t : State} {c f e : Nat} {r : DWord} (h : s.enterRecord c f e r = some t) (d : Nat) :
    (t.core d).mem = (s.core d).mem := by
  unfold State.enterRecord at h
  dsimp only at h
  split at h
  · cases h
  · split at h
    · next hr =>
      cases h
      rw [mem_core_modFibre, State.core, State.core, cores_receive hr]
    · cases h

/-- The record and the flag of a command that ends stand in its fibre. -/
theorem mem_core_closeCommand (s : State) (c f e : Nat) (cmd : Command) (status detail d : Nat) :
    ((s.closeCommand c f e cmd status detail).core d).mem = (s.core d).mem := by
  unfold State.closeCommand
  dsimp only
  split
  · simp
  · split
    · simp
    · split
      · next h => rw [mem_core_modFibre, mem_core_enterRecord h]
      · simp

/-- Deferred releases touch operand slots alone. -/
theorem sameAccumulators_settleReleases (k : CoreState) : SameAccumulators k.mem k.settleReleases.mem := by
  unfold CoreState.settleReleases
  refine List.foldlRecOn (motive := fun (k' : CoreState) => SameAccumulators k.mem k'.mem) _ _ ⟨rfl, rfl⟩
    (fun k' hk n _ => ?_)
  split <;> exact hk

/-- A command outside the task graph ends without a change of the accumulators. -/
theorem sameAccumulators_endCommand (s : State) (c f e : Nat) {cmd : Command} (hnode : cmd.node = none)
    (status detail : Nat) :
    SameAccumulators (s.core c).mem ((s.endCommand c f e cmd status detail).core c).mem := by
  have hend : (s.endCommand c f e cmd status detail).core c =
      ((s.closeCommand c f e cmd status detail).core c).settleReleases := by
    simp [State.endCommand, hnode]
  rw [hend, ← mem_core_closeCommand s c f e cmd status detail c]
  exact sameAccumulators_settleReleases _

/-! ### Acceptance of `azero` (R289, R292) -/

/-- The state in which an accepted `azero` has written its tile. -/
def zeroed (s : State) (c f : Nat) (cmd : Command) : State :=
  (s.modFibre c f (fun x => x.dropCommand 0)).modCore c
    (fun k => k.modMem (fun m => (m.setTile cmd.vd []).setMark cmd.vd false))

theorem mem_zeroed (s : State) (c f : Nat) (cmd : Command) :
    ((zeroed s c f cmd).core c).mem = ((s.core c).mem.setTile cmd.vd []).setMark cmd.vd false := by
  simp [zeroed, CoreState.modMem]

/-- The tile of an `azero` is that of its VD. -/
theorem tiles_azero {cmd : Command} (hop : cmd.op = 0x123) : cmd.tiles = [cmd.vd] := by
  simp [Command.tiles, hop]

/-- An `azero` at the front of its queue, whose tile nothing works on, writes the tile and ends. -/
theorem exec_engineAccept_azero {s : State} {c f : Nat} {cmd : Command} (hfront : Front s c f 0 cmd)
    (hop : cmd.op = 0x123) (hfree : (s.core c).tilesFree [cmd.vd] = true) :
    exec (.engineAccept c f 0) s = .next ((zeroed s c f cmd).endCommand c f 0 cmd 0 0) := by
  obtain ⟨hruns, rest, hqueue⟩ := hfront
  have hx : exec (.engineAccept c f 0) s = execEngineAccept c f 0 s := rfl
  have hcmd : s.frontCommand c f 0 = some cmd := by rw [State.frontCommand, hqueue]; rfl
  simp [hx, execEngineAccept, hcmd, hruns, State.matrixAccept, hop, tiles_azero hop, hfree, zeroed]

/-- Settles O59: acceptance writes the tile and its mark (log entry 37), and the end of the command leaves the
accumulators alone. -/
theorem azeroClearsTile : Obligations.AzeroClearsTile := by
  unfold Obligations.AzeroClearsTile
  refine ⟨fun f => rfl, fun c f cmd s hfront hop hcloses hfree =>
    ⟨_, exec_engineAccept_azero hfront hop hfree, ?_⟩⟩
  obtain ⟨htiles, hmarks⟩ := sameAccumulators_endCommand (zeroed s c f cmd) c f 0 hcloses.node 0 0
  rw [mem_zeroed] at htiles hmarks
  have htile (d n : Nat) (hn : n < 4096) : ((((zeroed s c f cmd).endCommand c f 0 cmd 0 0).core c).mem).tile d n =
      if d = cmd.vd then PW.zero else (s.core c).mem.tile d n := by
    rw [CoreMem.tile, htiles, ← CoreMem.tile, tile_setMark, tile_setTile_nil _ hn]
  refine ⟨?_, fun n hn => ?_, fun d n hd hn => ?_⟩
  · rw [hmarks, marks_setMark_false]
  · rw [htile _ n hn, if_pos rfl]
  · rw [htile d n hn, if_neg hd]

end Sys2Proof.AccumulatorTiles
end

section
/-! PROOFS. Launch queues and the ids of launches (R389, R390). -/

namespace Sys2Proof.LaunchQueues
open Sys2Proof.Machine Sys2Proof.Spec

/-! ### A queue of a partition after a write -/

@[simp] theorem queue_setQueue_same (p : Partition) (q : Nat) (x : LaunchQueue) : (p.setQueue q x).queue q = x :=
  Tab.get_set_same ..

@[simp] theorem partition_setPartition_same (s : State) (part : Nat) (x : Partition) :
    (s.setPartition part x).partition part = x := by
  rw [State.partition_setPartition, if_pos rfl]

/-! ### Launch ids (R389) -/

/-- The id of launch `n` of a queue. -/
def launchId (q n : Nat) : BitVec 32 := BitVec.ofNat 32 (q % 64 * 2 ^ 26 + n)

theorem queueNumber_launchId {q n : Nat} (hq : q < 64) (hn : n < 2 ^ 26) :
    ((launchId q n).extractLsb' 26 6).toNat = q := by
  rw [launchId, BitVec.extractLsb'_toNat, BitVec.toNat_ofNat, Nat.shiftRight_eq_div_pow]
  omega

theorem count_launchId {q n : Nat} (hn : n < 2 ^ 26) : ((launchId q n).extractLsb' 0 26).toNat = n := by
  rw [launchId, BitVec.extractLsb'_toNat, BitVec.toNat_ofNat, Nat.shiftRight_zero]
  omega

/-- The count of a queue stays within its 26 bits. -/
theorem nextCount_lt {n : Nat} (hn : n < 2 ^ 26) : nextCount n < 2 ^ 26 := by
  unfold nextCount
  split <;> omega

/-! ### Submission (R387, R389) -/

/-- A full queue takes nothing. -/
theorem submit_full {s : State} {part q : Nat} (hfull : 32 ≤ ((s.partition part).queue q).ids.length)
    (ctx : BitVec 16) (addr : Nat) (p : ParamBlock) (fw : Bool) (cap : Nat) :
    s.submit part q ctx addr p fw cap = (.full, s) := by
  simp [State.submit, hfull]

/-- A block that passes its checks takes the next id of its queue and goes to its end. -/
theorem queue_submit_accepted {s : State} {part q : Nat} {ctx : BitVec 16} {p : ParamBlock} {fw : Bool}
    (hroom : ((s.partition part).queue q).ids.length < 32) (hpass : s.rejection part ctx p fw = none)
    (addr cap : Nat) :
    let lq := (s.partition part).queue q
    let n := nextCount lq.count
    ((s.submit part q ctx addr p fw cap).2.partition part).queue q =
      { lq with ids := lq.ids ++ [launchId q n], count := n, last := launchId q n } := by
  simp only [State.submit, if_neg (Nat.not_le.mpr hroom), hpass]
  exact (congrArg (·.queue q) (partition_setPartition_same ..)).trans (queue_setQueue_same ..)

/-! ### The doorbell (R390) -/

/-- The sixteen words of the block whose physical address the driver writes. -/
def driverBlock (s : State) (address : BitVec 64) : ParamBlock :=
  (List.range 16).map (fun k => BitVec.ofNat 64 (s.mem.num (address.toNat % 2 ^ 52 + 8 * k) 8))

/-- The state in which the block of a doorbell write has been submitted. -/
def submitted (part q : Nat) (address : BitVec 64) (fw : Bool) (s : State) : State :=
  (s.submit part q (s.driverCtx part) (address.toNat % 2 ^ 52) (driverBlock s address) fw 7).2

/-- A doorbell beyond the 64 queues is not decoded. -/
theorem exec_launchDoorbell_undecoded {q : Nat} (hq : 64 ≤ q) (part : Nat) (address : BitVec 64) (fw : Bool)
    (s : State) : exec (.launchDoorbell part q address fw) s = .next s :=
  if_pos (.inl hq)

/-- The status that a doorbell write leaves for its read touches neither the ids nor the count of the queue:
they are those of the submission. -/
theorem gives_launchDoorbell {part q : Nat} {s : State} (hq : q < 64) (hpart : part < 8)
    (hrun : s.rot.phase = .running) (address : BitVec 64) (fw : Bool) :
    let lq := ((submitted part q address fw s).partition part).queue q
    Gives (.launchDoorbell part q address fw) s (fun t =>
      ((t.partition part).queue q).ids = lq.ids ∧ ((t.partition part).queue q).count = lq.count) := by
  have hdecoded : ¬ (64 ≤ q ∨ 8 ≤ part ∨ s.rot.phase ≠ .running) := by
    rintro (h | h | h)
    · omega
    · omega
    · exact h hrun
  have haddr : bitsAt address.toNat 0 52 = address.toNat % 2 ^ 52 := by rw [bitsAt, Nat.pow_zero, Nat.div_one]
  have hx : exec (.launchDoorbell part q address fw) s = execLaunchDoorbell part q address fw s := rfl
  rw [Gives, hx, execLaunchDoorbell, if_neg hdecoded, haddr]
  refine ⟨_, rfl, ?_⟩
  rw [submitted, driverBlock, partition_setPartition_same, queue_setQueue_same]
  split <;> exact ⟨rfl, rfl⟩

/-- Settles O60: a doorbell write leaves the ids and the count of its submission, which appends the next id of
the queue or, in a full queue, nothing. -/
theorem launchIds : Obligations.LaunchIds := by
  unfold Obligations.LaunchIds
  refine ⟨rfl, fun part q address fw s =>
    ⟨fun hq => exec_launchDoorbell_undecoded hq part address fw s, fun hq hpart hrun hfull => ?_,
      fun hq hpart hrun hroom hcount hpass => ?_⟩⟩
  · have hgives := gives_launchDoorbell hq hpart hrun address fw
    rwa [submitted, submit_full hfull] at hgives
  · obtain ⟨t, ht, hids, -⟩ := gives_launchDoorbell hq hpart hrun address fw
    have hn := nextCount_lt hcount
    rw [submitted, driverBlock, queue_submit_accepted hroom hpass] at hids
    exact ⟨t, ht, _, hids, queueNumber_launchId hq hn, count_launchId hn⟩

end Sys2Proof.LaunchQueues
end
